-- ==== Sys2Proof/Word.lean ====
section
/-! DEFINITION. The word types of the Tratrum Cegar: bytes, 32-bit registers (R8) and the 64-bit words of the cores. -/

namespace Sys2Proof

/-- One byte. -/
abbrev Byte := BitVec 8
/-- One register (R8: registers are 32 bits wide). -/
abbrev Word := BitVec 32
/-- One scalar register or instruction word of a Heron core (R137, R145). -/
abbrev DWord := BitVec 64

end Sys2Proof
end

