-- ==== Sys2Proof/Syntax.lean ====
section
/-! DEFINITION. The commands the device takes: one constructor of `Instr` per row of spec/opcode_table.json, with
the operands a command carries.  A command is an action of a host, of the wire, of a pin, of a timer that has
run out, or the issue of one instruction by one core.  The operands are plain data. -/

namespace Sys2Proof

/-- How a register access reaches the device: the PCIe function it came through and, for a write, its byte
enables (R97, R119). -/
structure Access where
  fn : Fin 4
  be : BitVec 4 := 0xF
  deriving DecidableEq, Repr

/-- Who reads a counter: a function or the management core (R115). -/
inductive Requester where
  | function (fn : Fin 4)
  | management
  deriving DecidableEq, Repr

/-- A read of a counter pair: which pair, and whether it is one read of 64 bits (R117). -/
structure CounterRead where
  index : Nat
  wide : Bool
  deriving DecidableEq, Repr

/-- The register pages of the BAR0 map (R94).  In a command, `core n j` names core `n` as the accessing function
numbers it (R95); in the state it is chip logical core `n`. -/
inductive PageId where
  | global | clock | mailbox | determinism
  | core (n : Fin 16) (j : Fin 6)
  | baton (m : Fin 8)
  | relay
  | expander (m : Fin 8)
  | stork | windows | keys
  | hbm (k : Fin 12)
  | slice (j : Fin 16)
  | queues (p : Fin 4)
  | bittern | panel | background
  deriving DecidableEq, Repr

/-- A unit that can be fenced in service (R89, R92); cores by chip logical id. -/
inductive UnitName where
  | core (n : Fin 16)
  | stack (k : Fin 12)
  | slice (j : Fin 16)
  | port (m : Fin 8)
  deriving DecidableEq, Repr

/-- A unit whose failure leaves no function at all (R89). -/
inductive VitalUnit where
  | managementCore | bootFlash | rootPll | pcieEndpoint
  deriving DecidableEq, Repr

/-- What the boot self-test found failing (R92), as masks over physical units. -/
structure SelfTest where
  cores : BitVec 16 := 0
  hbms : BitVec 12 := 0
  slices : BitVec 16 := 0
  ports : BitVec 8 := 0
  deriving DecidableEq, Repr

/-- The configuration-space registers the specification gives a value or an effect (R577 to R581, R90). -/
inductive ConfigReg where
  | deviceId | revisionId | classCode | serialLo | serialHi | flrSupported | initiateFlr | busMasterEnable
  | powerState | noSoftReset | msixEnable | msixFunctionMask | msixTableSize | bar0Size | bar2Size
  | maxPayloadSupported | aspmSupport | maxReadRequest | tenBitTagRequester | relaxedOrdering | aerPresent
  | msixTableBar | msixTableOffset | msixPbaBar | msixPbaOffset | bar4Size | bar5Size | d1d2Support
  deriving DecidableEq, Repr

/-- The PHY types of a Baton port (R379). -/
inductive PhyType where
  | cr8_800 | kr8_800 | cr4_400 | kr4_400
  deriving DecidableEq, Repr

/-- A frame on a Baton link (R391).  `hdr` is the 32 B Baton header (R393), byte `i` in bits `[8i+7:8i]`;
`fcsOk` says that the FCS is right and no uncorrectable codeword was touched (R380, R398). -/
structure Frame where
  fcsOk : Bool := true
  dst : BitVec 48 := 0
  src : BitVec 48 := 0
  tpid : BitVec 16 := 0x8100
  pcp : BitVec 3 := 0
  etherType : BitVec 16 := 0x88B5
  hdr : BitVec 256 := 0
  payload : List Byte := []
  deriving DecidableEq, Repr

/-- An IEEE 802.1Qbb frame: the class-enable vector and the eight pause times in quanta (R401, R402). -/
structure PfcFrame where
  enable : BitVec 8
  times : List (BitVec 16)
  deriving DecidableEq, Repr

/-- Where a frame reaches Stork: over a port, or over the internal path of a chip that addresses itself. -/
inductive Arrival where
  | port (m : Fin 8)
  | own
  deriving DecidableEq, Repr

/-- What the host answers to a read the device makes of host memory (R582, R602, R615). -/
inductive HostRead where
  | bytes (b : List Byte) (poisoned : Bool)
  | unsupportedRequest
  | completerAbort
  | completionTimeout
  deriving DecidableEq, Repr

/-- The atomic operations of control memory (R154, R155). -/
inductive AtomicOp where
  | add (v : DWord)
  | swap (v : DWord)
  | cas (expected new : DWord)
  deriving DecidableEq, Repr

/-- What a checked read of a memory line finds (R628, R629). -/
inductive EccResult where
  | clean | correctable | uncorrectable
  deriving DecidableEq, Repr

/-- A unit of work of flash wear management (R653, R656). -/
inductive WearAction where
  | moveSector | eraseSpare
  deriving DecidableEq, Repr

/-- One 1 ms sample of the sensors (R653, R662); temperatures in units of 0.125 °C. -/
structure Telemetry where
  die : Int
  hbmTemps : List Int
  panel : Int
  vcoreMv : Nat
  powerW : Nat
  deriving DecidableEq, Repr

/-- What the Pacer partner reports when the pair is checked (R556). -/
structure PartnerMasks where
  cores : BitVec 16
  hbms : BitVec 12
  slices : BitVec 16
  ports : BitVec 8
  spreadActive : Bool
  deriving DecidableEq, Repr

/-- How an SMBus read is made: whether the host clocks the PEC byte, and whether a PEC it sent was wrong (R736). -/
structure SmbusRead where
  clockPec : Bool := false
  wrongPec : Bool := false
  deriving DecidableEq, Repr

/-- The commands, in the order of spec/opcode_table.json.  An instruction of a Heron core is carried as the chip
logical core that issues it and its 64-bit word (R145). -/
inductive Instr where
  /-- STANDBY_POWER_UP (R608): 3.3 Vaux is applied: the standby domain starts, every page and memory takes its reset value, and the return code moves to PREV_RETURN_CODE. -/
  | standbyPowerUp
  /-- MAIN_POWER_ARRIVAL (R714): 12 V comes within tolerance: the card reads SENSE0 and SENSE1, sets SENSE_CAP and POWER_LIMIT_W, and ramps the main rails or keeps them off. -/
  | mainPowerArrival (sense0Open : Bool) (sense1Open : Bool)
  /-- RAILS_GOOD (R718): The last main rail becomes good; the readiness timeline starts then if PERST# was already deasserted. -/
  | railsGood
  /-- MAIN_POWER_LOSS (R719): 12 V stays below 10.8 V for 100 µs: the main rails go off, the main domain stops, and MAIN_LOSS is logged. -/
  | mainPowerLoss
  /-- THERMAL_TRIP (R722): The die trip sensor reaches 115 °C: hardware turns off the main rails, and a record with THERMAL_TRIP is committed. -/
  | thermalTrip
  /-- PERST_ASSERT (R608): PERST# is asserted: a fundamental reset clears the device, ends any drain or repartition, and clears the trip latch. -/
  | perstAssert
  /-- PERST_DEASSERT (R583): PERST# is deasserted: link training and boot start, configuration requests get Request Retry Status, and WAKE# is released. -/
  | perstDeassert
  /-- LINK_INITIATED_RESET (R608): A PCIe Hot Reset or DL_Down causes a full reset that also clears configuration space and retrains the link. -/
  | linkInitiatedReset
  /-- DIVIDER_RELEASE (R82): After ROOT locks, all four dividers are released on the first frame edge, REF_OFFSET and VALID are recorded, and the management core switches to SCLK. -/
  | dividerRelease (refCoincides : Bool) (refInPresent : Bool)
  /-- ROOT_LOCK_LOSS (R136): ROOT loses lock: the management core falls back to its standby oscillator, logs the event and performs a full reset with no drain. -/
  | rootLockLoss
  /-- STATUS_READY (R613): Boot or a full reset finishes: the Global page reports STATUS.READY = 1, configuration requests complete normally, and vector 63 is sent after a requested or internal reset. -/
  | statusReady (test : SelfTest)
  /-- CONFIG_REQUEST (R583): A PCIe configuration request is answered with Request Retry Status until readiness and served normally afterwards; a Function Level Reset write has no effect. -/
  | configRequest (fn : Fin 4) (reg : ConfigReg) (write : Option Word)
  /-- D3HOT_ENTRY (R581): A function enters D3hot and stops decoding its BARs, while its partition keeps running and its MSI-X messages are held pending. -/
  | d3hotEntry (fn : Fin 4)
  /-- D0_RETURN (R581): A function returns to D0 without any reset, and its pending MSI-X messages are sent. -/
  | d0Return (fn : Fin 4)
  /-- MSIX_UNMASK (R126): An MSI-X vector whose Pending Bit is set is unmasked, and its held message is sent. -/
  | msixUnmask (fn : Fin 4) (vector : Fin 64)
  /-- BUS_MASTER_DISABLE (R615): Bus Master Enable is cleared on a function, and all of its running rings enter FAULT. -/
  | busMasterDisable (fn : Fin 4)
  /-- REGISTER_WRITE (R120): A write to a register that has no row of its own is applied in arrival order; it is dropped and counted in BAD_ACCESS if it is partial, refused or locked. -/
  | registerWrite (a : Access) (addr : BitVec 26) (data : Word)
  /-- IRQ_STATUS_CLEAR (R110): Writing 1 to IRQ_STATUS bits clears them; bit 0 also clears ERR_CODE, ERR_INFO0, ERR_INFO1 and STATUS.ERROR and re-arms capture. -/
  | irqStatusClear (a : Access) (page : PageId) (data : Word)
  /-- IRQ_FORCE (R113): Writing 1 to an IRQ_FORCE bit sets that IRQ_STATUS bit and changes neither IRQ_RAW nor ERR_CODE. -/
  | irqForce (a : Access) (page : PageId) (data : Word)
  /-- ERR_COUNT_READ (R100): Reading ERR_COUNT returns the count and then clears it. -/
  | errCountRead (rq : Requester) (page : PageId)
  /-- BAD_ACCESS_READ (R128): Reading BAD_ACCESS returns the count of dropped or refused writes and then clears it. -/
  | badAccessRead (rq : Requester)
  /-- COUNTER_LOW_READ (R114): Reading the low word of a counter pair copies the high word into the shadow register kept for that requester. -/
  | counterLowRead (rq : Requester) (page : PageId) (pair : CounterRead)
  /-- CTRL_ENABLE (R103): Writing CTRL.ENABLE lets a block accept work; clearing it while work is in flight makes the block behave as quiesced. -/
  | ctrlEnable (a : Access) (page : PageId) (data : Word)
  /-- ENABLE_CLEAR_ON_IDLE (R103): A block whose ENABLE was cleared while busy becomes idle, and ENABLE then takes the value 0. -/
  | enableClearOnIdle (page : PageId)
  /-- CTRL_QUIESCE (R102): Setting QUIESCE stops a block from starting new work; clearing it lets the waiting work start. -/
  | ctrlQuiesce (a : Access) (page : PageId) (data : Word)
  /-- CTRL_LOCK (R106): Setting LOCK applies the values written to the page's RWL fields in the same write and makes those fields read-only. -/
  | ctrlLock (a : Access) (page : PageId) (data : Word)
  /-- IRQ_ROUTE_WRITE (R124): A write to IRQ_ROUTE changes only the route entries whose source the writing function owns. -/
  | irqRouteWrite (a : Access) (index : Fin 128) (data : Word)
  /-- PHOTO_FINISH (R539): Writing PHOTO_FINISH records a request for Photo-finish mode to take effect or end. -/
  | photoFinish (a : Access) (data : Word)
  /-- PHOTO_FINISH_ACTIVATION (R539): At the defined frame after the request, or after the fire or failure of an armed gun, PHOTO_FINISH_ACTIVE takes the requested value. -/
  | photoFinishActivation
  /-- FULL_RESET (R617): Writing 0x5A5A_0001 to FULL_RESET through PF0 starts a drain that is followed by a requested full reset. -/
  | fullReset (a : Access) (data : Word)
  /-- UNIT_FENCE (R92): The management core fences a unit that fails in service: STATUS.FENCED is set, the unit takes no work, and it is disabled at the next full reset. -/
  | unitFence (unit : UnitName)
  /-- NOP (R131): Mailbox command 0x00 completes with no response. -/
  | mbNop (a : Access)
  /-- LOG_INFO (R131): Mailbox command that returns the SEQUENCE range and the entry counts of the fault log. -/
  | mbLogInfo (a : Access)
  /-- READ_LOG (R131): Mailbox command that returns up to four held fault-log entries from a given SEQUENCE. -/
  | mbReadLog (a : Access)
  /-- READ_RECORD (R131): Mailbox command that returns one half of the committed panel record. -/
  | mbReadRecord (a : Access)
  /-- READ_RETURN_CODE (R131): Mailbox command that returns RETURN_CODE, PREV_RETURN_CODE and the SEQUENCE of the committed record. -/
  | mbReadReturnCode (a : Access)
  /-- REMOTE_IDENT (R131): Mailbox command that sends IDENT_REQ to another chip and waits for its IDENT_RESP payload. -/
  | mbRemoteIdent (a : Access)
  /-- REMOTE_IDENT_TIMEOUT (R132): No IDENT_RESP arrives within 1 ms, and REMOTE_IDENT completes with TIMEOUT, NO_ANSWER. -/
  | remoteIdentTimeout
  /-- ADD (R152): Scalar add RD ← RA + RB. -/
  | add (core : Fin 16) (w : DWord)
  /-- SUB (R152): Scalar subtract RD ← RA − RB. -/
  | sub (core : Fin 16) (w : DWord)
  /-- MUL (R152): Scalar multiply, keeping the low 64 bits. -/
  | mul (core : Fin 16) (w : DWord)
  /-- LOGIC (R152): Scalar AND, OR, XOR or AND-NOT, selected by FN. -/
  | logic (core : Fin 16) (w : DWord)
  /-- SHIFT (R152): Scalar left, logical right or arithmetic right shift by RB[5:0]. -/
  | shift (core : Fin 16) (w : DWord)
  /-- ADDI (R152): Scalar add of a sign-extended immediate. -/
  | addi (core : Fin 16) (w : DWord)
  /-- CMP (R152): Scalar compare that writes a predicate register. -/
  | cmp (core : Fin 16) (w : DWord)
  /-- SELECT (R152): Scalar select by bit 0 of a predicate register. -/
  | select (core : Fin 16) (w : DWord)
  /-- MOVI (R152): Moves an immediate into a scalar register, or into its high half. -/
  | movi (core : Fin 16) (w : DWord)
  /-- RDSR (R156): Reads a special register such as the logical id, CORE_COUNT, CHIP_ID or PHOTO_FINISH_ACTIVE. -/
  | rdsr (core : Fin 16) (w : DWord)
  /-- RDCYC (R152): Reads the CCLK cycles since the core started (V-marked). -/
  | rdcyc (core : Fin 16) (w : DWord)
  /-- BR (R152): Conditional PC-relative branch. -/
  | br (core : Fin 16) (w : DWord)
  /-- CALL (R152): Writes the return address to s31 and branches. -/
  | call (core : Fin 16) (w : DWord)
  /-- JR (R152): Jumps to the address held in RA. -/
  | jr (core : Fin 16) (w : DWord)
  /-- LOOP (R143): Runs the next DISP instructions RA times, pushing a loop-stack entry. -/
  | loop (core : Fin 16) (w : DWord)
  /-- LOOP_POP (R144): Removes the innermost loop-stack entry, or traps with LOOP_FAULT if the stack is empty. -/
  | loopPop (core : Fin 16) (w : DWord)
  /-- HALT (R152): Waits for the core's class E operations to complete, then stops. -/
  | halt (core : Fin 16) (w : DWord)
  /-- HALT_COMPLETE (R192): The class E operations awaited by HALT complete: the core becomes IDLE and raises HALTED. -/
  | haltComplete (core : Fin 16)
  /-- VADD (R152): Element-wise vector add. -/
  | vadd (core : Fin 16) (w : DWord)
  /-- VSUB (R152): Element-wise vector subtract. -/
  | vsub (core : Fin 16) (w : DWord)
  /-- VMUL (R152): Element-wise vector multiply; for L16 the defined product is converted by R58. -/
  | vmul (core : Fin 16) (w : DWord)
  /-- VFMA (R152): Fused multiply-add on IEEE types, rounded once. -/
  | vfma (core : Fin 16) (w : DWord)
  /-- VMINMAX (R152): Element-wise minimum, maximum or larger magnitude. -/
  | vminmax (core : Fin 16) (w : DWord)
  /-- VUNARY (R152): Element-wise absolute value or negation. -/
  | vunary (core : Fin 16) (w : DWord)
  /-- VCMP (R152): Vector compare that writes one predicate bit per lane. -/
  | vcmp (core : Fin 16) (w : DWord)
  /-- VSEL (R152): Vector select under a predicate. -/
  | vsel (core : Fin 16) (w : DWord)
  /-- VCVT (R152): Vector conversion between element types. -/
  | vcvt (core : Fin 16) (w : DWord)
  /-- VBCAST (R152): Broadcasts a scalar to every element of a vector. -/
  | vbcast (core : Fin 16) (w : DWord)
  /-- VPERM (R152): Permutes the lanes of a vector. -/
  | vperm (core : Fin 16) (w : DWord)
  /-- VBITS (R152): Element-wise logic or shift. -/
  | vbits (core : Fin 16) (w : DWord)
  /-- VRED (R153): Reduces a vector to a scalar; sums of L and IEEE types are exact and rounded once. -/
  | vred (core : Fin 16) (w : DWord)
  /-- VIDX (R152): Writes element index plus an immediate into each element. -/
  | vidx (core : Fin 16) (w : DWord)
  /-- VPRED (R152): Predicate logic, or popcount of a predicate into a scalar. -/
  | vpred (core : Fin 16) (w : DWord)
  /-- LD (R159): Loads a scalar from the scratchpad. -/
  | ld (core : Fin 16) (w : DWord)
  /-- ST (R159): Stores a scalar to the scratchpad. -/
  | st (core : Fin 16) (w : DWord)
  /-- VLD (R159): Loads a 256 B vector from the scratchpad. -/
  | vld (core : Fin 16) (w : DWord)
  /-- VST (R159): Stores a 256 B vector to the scratchpad under a predicate. -/
  | vst (core : Fin 16) (w : DWord)
  /-- VLDS (R152): Strided vector load. -/
  | vlds (core : Fin 16) (w : DWord)
  /-- VSTS (R152): Strided vector store. -/
  | vsts (core : Fin 16) (w : DWord)
  /-- VGATHER (R162): Gathers elements from scratchpad addresses taken from a vector. -/
  | vgather (core : Fin 16) (w : DWord)
  /-- VSCATTER (R162): Scatters elements to scratchpad addresses; the highest lane wins a shared byte. -/
  | vscatter (core : Fin 16) (w : DWord)
  /-- DMA_GO (R168): Queues a DMA descriptor on an engine and returns its tag, stalling while the queue is full. -/
  | dmaGo (core : Fin 16) (w : DWord)
  /-- DMA_COMPLETE (R172): A DMA descriptor finishes with OK, POISON, PROTECTION, FENCED or UNSUPPORTED, and its bytes become visible. -/
  | dmaComplete (core : Fin 16) (engine : Fin 4)
  /-- TMMA (R197): Tile multiply-accumulate that adds exact products into the elements of an accumulation group. -/
  | tmma (core : Fin 16) (w : DWord)
  /-- TMMA_COMPLETE (R204): The last products of a TMMA reach their elements 132 CCLK cycles after its last k-step, and runs are flushed. -/
  | tmmaComplete (core : Fin 16)
  /-- TMOV_IN (R221): Moves a tile into group elements exactly, replacing or adding. -/
  | tmovIn (core : Fin 16) (w : DWord)
  /-- TMOV_OUT (R222): Writes group elements to a tile with read-out rounding, or traps on poison. -/
  | tmovOut (core : Fin 16) (w : DWord)
  /-- TZERO (R219): Clears a region of group elements to +0. -/
  | tzero (core : Fin 16) (w : DWord)
  /-- AG_OPEN (R215): Opens an accumulation group over whole blocks of pool entries. -/
  | agOpen (core : Fin 16) (w : DWord)
  /-- AG_CLOSE (R217): Waits for pending work on a group, then frees its entries. -/
  | agClose (core : Fin 16) (w : DWord)
  /-- AG_SAVE (R229): Writes partial-sum records and a state map to the scratchpad. -/
  | agSave (core : Fin 16) (w : DWord)
  /-- AG_LOAD (R231): Reads partial-sum records back, replacing or adding exactly. -/
  | agLoad (core : Fin 16) (w : DWord)
  /-- AG_CHAIN (R233): Sends a group's long sums to another core, or adds the sums that arrive from one. -/
  | agChain (core : Fin 16) (w : DWord)
  /-- CHAIN_TRANSFER_COMPLETE (R238): A chain transfer ends: the receiver adds the records, or makes every element NaR on a mismatch. -/
  | chainTransferComplete (src : Fin 16) (dst : Fin 16) (chan : Fin 16)
  /-- EFN (R252): Computes a built-in element function or a micro-program on each element, rounded once. -/
  | efn (core : Fin 16) (w : DWord)
  /-- EROW (R261): Row operation (RMSNORM, SOFTMAX or LOGSUMEXP) in the WHOLE, SUM, APPLY or CLEAR phase, using exact wide-long sums. -/
  | erow (core : Fin 16) (w : DWord)
  /-- EMPLD (R272): Verifies a signed micro-program image and loads it into a slot, writing a status to RT. -/
  | empld (core : Fin 16) (w : DWord)
  /-- IMG_DATA_READ (R280): Reading IMG_DATA returns m16[IMG_INDEX] and then increments IMG_INDEX. -/
  | imgDataRead (rq : Requester) (n : Fin 16)
  /-- SP_THR (R291): Threshold compaction with capacity cap, index order and exact selected and left-out sums. -/
  | spThr (core : Fin 16) (w : DWord)
  /-- SP_SORT (R299): Bitonic sort of one register by key and index. -/
  | spSort (core : Fin 16) (w : DWord)
  /-- SP_MERGE (R302): Merges up to 32 sorted registers. -/
  | spMerge (core : Fin 16) (w : DWord)
  /-- SP_LADDER (R303): Configures the top-k ladder or feeds lanes to it. -/
  | spLadder (core : Fin 16) (w : DWord)
  /-- SP_DRAIN (R306): Writes the ladder's entries in rank order to the scratchpad. -/
  | spDrain (core : Fin 16) (w : DWord)
  /-- FOLD (R309): Adds the residual, selects, quantises to L8, enters E56 and writes the new residual. -/
  | fold (core : Fin 16) (w : DWord)
  /-- CONSERVATION_CHECK (R316): After the fold's last write the two check accumulators are compared, and the fold completes. -/
  | conservationCheck (core : Fin 16) (fault : BitVec 640)
  /-- PACK (R353): Curlew packing of a tensor into a stream, holding one flight context. -/
  | pack (core : Fin 16) (w : DWord)
  /-- UNPACK (R363): Decodes a Curlew stream with the ordered damage checks. -/
  | unpack (core : Fin 16) (w : DWord)
  /-- PACK_HIST (R345): Counts symbols, builds a table by package-merge into a slot, then packs. -/
  | packHist (core : Fin 16) (w : DWord)
  /-- PACK_COMPLETION (R358): A packer instruction completes with its code, and its output becomes visible to WAIT. -/
  | packCompletion (core : Fin 16)
  /-- SEND (R174): Sends 64 B to a core and channel, stalling while no credit is left. -/
  | send (core : Fin 16) (w : DWord)
  /-- MESSAGE_DELIVERY (R180): A message enters the receiver's queue and its SEND completes. -/
  | messageDelivery (src : Fin 16) (dst : Fin 16) (chan : Fin 16)
  /-- RECV (R178): Takes the oldest message of a named triple, waiting if none is present, and returns a credit. -/
  | recv (core : Fin 16) (w : DWord)
  /-- RECV_ANY (R179): Takes the first message that arrived on a channel from any sender (V-marked). -/
  | recvAny (core : Fin 16) (w : DWord)
  /-- MSG_PROBE (R152): Reports whether a message waits on a triple (V-marked). -/
  | msgProbe (core : Fin 16) (w : DWord)
  /-- RPOST (R494): Posts a Relay descriptor and returns a flight tag. -/
  | rpost (core : Fin 16) (w : DWord)
  /-- SPOST (R443): Posts a Stork descriptor and returns a flight tag. -/
  | spost (core : Fin 16) (w : DWord)
  /-- FENCE (R182): Waits until the named scopes are complete for earlier operations. -/
  | fence (core : Fin 16) (w : DWord)
  /-- WAIT (R152): Waits for a DMA or flight tag and returns its status. -/
  | wait (core : Fin 16) (w : DWord)
  /-- WAIT_FIRST (R152): Waits for the first of a set of DMA tags (V-marked). -/
  | waitFirst (core : Fin 16) (w : DWord)
  /-- TEST (R152): Returns the status of a tag if it is complete, otherwise 0xFF (V-marked). -/
  | test (core : Fin 16) (w : DWord)
  /-- BARRIER (R196): Waits until every core in the mask reaches BARRIER with the same id and mask. -/
  | barrier (core : Fin 16) (w : DWord)
  /-- CMLD (R155): Loads 8 B from control memory. -/
  | cmld (core : Fin 16) (w : DWord)
  /-- CMST (R155): Stores 8 B to control memory. -/
  | cmst (core : Fin 16) (w : DWord)
  /-- CMADD (R154): Atomic add to control memory that returns nothing. -/
  | cmadd (core : Fin 16) (w : DWord)
  /-- CMATOM (R154): Atomic fetch-and-add, swap or compare-and-swap returning the old value (V-marked). -/
  | cmatom (core : Fin 16) (w : DWord)
  /-- GUN_WAIT (R550): Stalls the core until the first fire of the start gun after issue. -/
  | gunWait (core : Fin 16) (w : DWord)
  /-- TRAP (R152): Traps with cause SOFTWARE and a code. -/
  | trap (core : Fin 16) (w : DWord)
  /-- BRK (R152): Traps with cause BREAK. -/
  | brk (core : Fin 16) (w : DWord)
  /-- WAIT_TIMEOUT (R181): A stalled waiting instruction exceeds WAIT_TIMEOUT and traps. -/
  | waitTimeout (core : Fin 16)
  /-- RUN (R187): CORE_CTRL.RUN starts a core at START_PC from IDLE or TRAPPED. -/
  | run (a : Access) (n : Fin 16)
  /-- STOP (R190): CORE_CTRL.STOP traps a running core with cause BREAK. -/
  | stop (a : Access) (n : Fin 16)
  /-- CORE_RESET (R188): CORE_CTRL.CORE_RESET requests the clearing of a core once its class E operations complete. -/
  | coreReset (a : Access) (n : Fin 16)
  /-- CORE_RESET_COMPLETE (R188): After the awaited operations complete, the core's registers, groups, slots, ladder and messages are cleared and credits are returned. -/
  | coreResetComplete (core : Fin 16)
  /-- IMEM_DATA_HI (R190): Writing IMEM_DATA_HI stores an instruction at IMEM_ADDR and increments IMEM_ADDR. -/
  | imemDataHi (a : Access) (n : Fin 16) (data : Word)
  /-- CHUNK_CHECK (R370): A link expander finishes checking a class C chunk within 600 FCLK cycles, then acknowledges it, refuses it or declares it damaged. -/
  | chunkCheck (port : Fin 8)
  /-- LINK_ENABLE (R382): Setting LINK_ENABLE starts bring-up of a port; clearing it takes the port to DOWN with DISABLED. -/
  | linkEnable (a : Access) (port : Fin 8) (data : Word)
  /-- RETRAIN (R388): Writing RETRAIN takes a port to DOWN with detail DISABLED. -/
  | retrain (a : Access) (port : Fin 8) (data : Word)
  /-- AUTONEG_COMPLETE (R381): Clause 73 auto-negotiation resolves the highest shared PHY type, and training starts. -/
  | autonegComplete (port : Fin 8) (peerTypes : List PhyType)
  /-- LINK_TRAINING_COMPLETE (R382): Link training ends, and the port moves to ALIGNING. -/
  | linkTrainingComplete (port : Fin 8)
  /-- FEC_LOCK (R382): PCS lane alignment and FEC lock are reached, and the port moves to HELLO. -/
  | fecLock (port : Fin 8)
  /-- BRINGUP_TIMEOUT (R382): A port has not reached UP within 1 s of leaving DOWN, returns to DOWN and counts BRINGUP_FAILS. -/
  | bringupTimeout (port : Fin 8)
  /-- HELLO (R384): A received HELLO frame is checked against the wiring table, putting the port into UP, MISWIRED or back into HELLO. -/
  | hello (port : Fin 8) (f : Frame)
  /-- HELLO_TIMER (R383): In HELLO or MISWIRED, a HELLO frame is sent every 10 µs. -/
  | helloTimer (port : Fin 8)
  /-- IDLE_HELLO (R387): An UP port that has sent no frame for 100 µs sends a HELLO. -/
  | idleHello (port : Fin 8)
  /-- LIVENESS (R387): An UP port that has received no good frame for 1 ms goes to DOWN with detail LIVENESS. -/
  | liveness (port : Fin 8)
  /-- PCS_LOSS (R388): An UP port loses PCS lock and goes to DOWN. -/
  | pcsLoss (port : Fin 8)
  /-- DATA (R407): A received DATA frame passes the receive checks and is accepted in sequence, or discarded as a duplicate or a gap. -/
  | data (port : Fin 8) (f : Frame)
  /-- ACK (R409): A received ACK frees acknowledged frames and advances OLDEST. -/
  | ack (port : Fin 8) (f : Frame)
  /-- NAK (R410): A received NAK frees frames up to ACK_SEQ and starts a go-back from ACK_SEQ + 1. -/
  | nak (port : Fin 8) (f : Frame)
  /-- CREDIT (R417): A received CREDIT frame updates the cumulative chunk credit granted for a group. -/
  | credit (port : Fin 8) (f : Frame)
  /-- PFC (R402): A received 802.1Qbb PFC frame pauses or resumes the matching classes. -/
  | pfc (port : Fin 8) (p : PfcFrame)
  /-- PAUSE (R398): A received 802.3 PAUSE frame is ignored and counted in FOREIGN_FRAMES. -/
  | pause (port : Fin 8)
  /-- PAUSE_EXPIRY (R402): A peer-imposed pause time expires, and the class resumes sending. -/
  | pauseExpiry (port : Fin 8) (cls : Fin 3)
  /-- PFC_REPEAT (R401): Every 20 µs while occupancy stays above XON, the port repeats its PFC pause frame. -/
  | pfcRepeat (port : Fin 8) (cls : Fin 3)
  /-- ACK_DELAY_TIMER (R409): 500 ns after a frame becomes acknowledgeable without an acknowledgement, a standalone ACK is sent. -/
  | ackDelayTimer (port : Fin 8) (cls : Fin 3)
  /-- RETRANSMIT_TIMEOUT (R412): A class timer reaches 4 µs, and the sender retransmits from OLDEST. -/
  | retransmitTimeout (port : Fin 8) (cls : Fin 3)
  /-- DATA_FRAME_START (R406): A sender starts a new DATA frame once its window, retransmit share, pause and credit allow it. -/
  | dataFrameStart (port : Fin 8) (cls : Fin 3) (now : Nat)
  /-- FRAME_FORWARD (R422): A frame reaches the head of a receive buffer, is routed to its egress port or dropped, and frees buffer room. -/
  | frameForward (port : Fin 8) (cls : Fin 3)
  /-- STALL_DROP (R425): A class B or M frame that has waited more than 1 ms at a buffer head is discarded. -/
  | stallDrop (port : Fin 8) (cls : Fin 3)
  /-- IDENT_REQ (R397): The management core receives IDENT_REQ and answers with IDENT_RESP within 100 µs. -/
  | identReq (port : Fin 8) (f : Frame)
  /-- IDENT_RESP (R397): An IDENT_RESP arrives, and REMOTE_IDENT completes with its payload. -/
  | identResp (port : Fin 8) (f : Frame)
  /-- OPEN (R440): Stork command that checks and writes a window entry and sets VALID. -/
  | openWindow (tag : BitVec 12)
  /-- REVOKE (R442): Stork command that clears VALID, increments GENERATION and answers stalled frames with REVOKED. -/
  | revoke (tag : BitVec 12)
  /-- BIND (R442): Stork command that binds a send queue to a protection domain. -/
  | bindQueue (tag : BitVec 12)
  /-- PAGE_READY (R460): Stork command that rereads a page-map entry and applies the frames stalled on that page. -/
  | pageReady (tag : BitVec 12)
  /-- PAGE_UNMAP (R460): Stork command that drops Stork's translation of a page. -/
  | pageUnmap (tag : BitVec 12)
  /-- WRITE (R443): Stork operation that writes local data into a remote window, possibly compressed or sealed. -/
  | storkWrite (tag : BitVec 12)
  /-- READ (R448): Stork operation that reads a remote window into local memory. -/
  | storkRead (tag : BitVec 12)
  /-- FLAG (R456): Stork operation that writes one 8 B value after every earlier WRITE and FLAG of its queue has completed. -/
  | storkFlag (tag : BitVec 12)
  /-- FLAG_SEND (R457): The earlier operations of the queue complete, and the FLAG is sent, or completes with BATCH_FAILED. -/
  | flagSend (tag : BitVec 12)
  /-- WRITE_DATA (R452): A target checks a WRITE_DATA frame in the defined order and applies it or answers with a failure. -/
  | writeData (arrival : Arrival) (f : Frame)
  /-- FLAG_FRAME (R452): A target checks a FLAG frame and applies its 8 B store. -/
  | flagFrame (arrival : Arrival) (f : Frame)
  /-- READ_REQ (R448): A target checks a READ_REQ in 8,192 B pieces and returns READ_DATA or failure responses. -/
  | readReq (arrival : Arrival) (f : Frame)
  /-- READ_DATA (R450): The initiator verifies and writes READ_DATA of the current attempt, or discards a stale frame. -/
  | readData (arrival : Arrival) (f : Frame)
  /-- RESPONSE (R450): The initiator counts the bytes of a RESPONSE of the current attempt and stops sending on a failure. -/
  | response (arrival : Arrival) (f : Frame)
  /-- RESPONSE_COALESCE_TIMER (R449): 1 µs after the first covered frame, a coalesced RESPONSE is sent. -/
  | responseCoalesceTimer (arrival : Arrival)
  /-- STALL_EXPIRY (R462): A frame held 100 µs in the stall buffer is answered PAGE_MISS, STALL_EXPIRED. -/
  | stallExpiry
  /-- RESEND_ROUND (R463): The backoff delay expires, and the initiator resends the ranges answered PAGE_MISS. -/
  | resendRound (tag : BitVec 12)
  /-- PROGRESS_TIMEOUT (R471): PROGRESS_TIMEOUT passes without a covering frame, starting a replay or ending a failed operation. -/
  | progressTimeout (tag : BitVec 12)
  /-- REPLAY (R471): A route to DST_CHIP is available: the initiator increments ATTEMPT and sends the whole operation again. -/
  | replay (tag : BitVec 12)
  /-- ROUTE_WAIT_EXPIRY (R472): No route is found within ROUTE_WAIT, and the operation completes with LINK_DOWN, NO_ROUTE. -/
  | routeWaitExpiry (tag : BitVec 12)
  /-- COMPRESSED_WRITE_DISCARD (R469): A partly received compressed write gets no frame for 100 µs and is discarded without answer. -/
  | compressedWriteDiscard (arrival : Arrival)
  /-- KEY_LOAD (R484): KEY_OP LOAD installs a key in a slot and restarts its IV counter. -/
  | keyLoad (a : Access) (data : Word)
  /-- KEY_CLEAR (R484): KEY_OP CLEAR empties a key slot. -/
  | keyClear (a : Access) (data : Word)
  /-- KEY_OP_COMPLETE (R484): A LOAD or CLEAR completes within 10 µs, KEY_DATA is zeroed and KEY_BUSY clears. -/
  | keyOpComplete
  /-- CREATE (R500): Relay command that forms a group with TOPO and COMMIT over all members. -/
  | relayCreate (tag : BitVec 12)
  /-- STEP (R502): Relay command that runs one sum all-reduce step of a group. -/
  | relayStep (tag : BitVec 12)
  /-- REFORM (R526): Relay command that starts a re-form of a group. -/
  | relayReform (tag : BitVec 12)
  /-- DISSOLVE (R501): Relay command that waits for an active step, then frees the group on this chip. -/
  | relayDissolve (tag : BitVec 12)
  /-- DISSOLVE_RELEASE (R501): The awaited step completes, the staging is released, and the group becomes FREE. -/
  | dissolveRelease (group : Fin 64)
  /-- COUNT (R503): A COUNT record is added to a subtree sum or, at the root, decides the representation or ends the step on a mismatch. -/
  | count (port : Fin 8) (f : Frame)
  /-- UP (R505): An UP chunk is added exactly, by index, to the member's own contribution and forwarded toward the root. -/
  | up (port : Fin 8) (chunk : List Frame)
  /-- DOWN (R510): A DOWN chunk of finished sums is written to DST and forwarded to the children. -/
  | down (port : Fin 8) (chunk : List Frame)
  /-- END (R521): The END frame carries the final step status and agreed scales down the tree. -/
  | endFrame (port : Fin 8) (f : Frame)
  /-- DONE (R502): A DONE frame is received; a member that has written its result and holds every child's DONE sends DONE upward. -/
  | doneFrame (port : Fin 8) (f : Frame)
  /-- RELEASE (R520): A member completes the step on RELEASE and forwards it to its children. -/
  | release (port : Fin 8) (f : Frame)
  /-- ABORT (R526): A Relay ABORT of a higher epoch starts or moves a re-form; a lower epoch is dropped. -/
  | abort (port : Fin 8) (f : Frame)
  /-- TOPO (R526): A TOPO record of the re-form epoch is collected for the candidate set. -/
  | topo (port : Fin 8) (f : Frame)
  /-- COMMIT (R526): A COMMIT bitmap is collected; when all are equal the group becomes READY at the new epoch. -/
  | commit (port : Fin 8) (f : Frame)
  /-- FORM_WAIT (R526): FORM_WAIT expires: the candidates are fixed, quorum is checked, and COMMIT is sent or the attempt restarts. -/
  | formWait (group : Fin 64)
  /-- CREATE_WAIT (R500): Not every COMMIT arrives within CREATE_WAIT, and CREATE completes with TIMEOUT. -/
  | createWait (group : Fin 64)
  /-- STEP_WAIT (R523): The root does not hold every COUNT within STEP_WAIT and ends the step with TIMEOUT. -/
  | stepWait (group : Fin 64)
  /-- LEASE_EXPIRY (R517): A 10 ms credit lease expires, its slot is reclaimed, and a re-form starts. -/
  | leaseExpiry (group : Fin 64) (port : Fin 8)
  /-- GUN_ARM (R544): Writing GUN_ARM puts the start gun in ARMED. -/
  | gunArm (a : Access) (data : Word)
  /-- GUN_ABORT (R572): Writing GUN_ABORT returns the gun to IDLE and, on the master, sends ABORT. -/
  | gunAbort (a : Access) (data : Word)
  /-- GUN_READY (R544): An armed chip's running cores are all stalled in GUN.WAIT, so it sets GUN_READY and sends READY. -/
  | gunReady (now : Nat)
  /-- READY (R545): The master collects READY; when all members are ready it fixes f and sends FIRE. -/
  | ready (port : Fin 8) (f : Frame) (now : Nat)
  /-- FIRE (R547): A FIRE frame gives f = a + REMAIN − d, or is restamped and forwarded, or marks GUN_LATE. -/
  | fire (port : Fin 8) (f : Frame) (arrival : Nat)
  /-- GUN_ABORT_MESSAGE (R553): A member receives the gun ABORT and goes to FAILED with GUN_ABORTED. -/
  | gunAbortMessage (port : Fin 8) (f : Frame)
  /-- GUN_FIRE (R549): At the first frame edge at or after f the member fires, records F, and releases GUN.WAIT cores at F + 1. -/
  | gunFire (now : Nat)
  /-- GUN_ARM_WAIT (R545): The master is not ready within GUN_ARM_WAIT, so it sends ABORT and goes to FAILED. -/
  | gunArmWait
  /-- GUN_NO_FIRE (R553): An armed member gets neither FIRE nor ABORT within GUN_ARM_WAIT + GUN_LEAD and fails. -/
  | gunNoFire
  /-- DELAY_MEASUREMENT (R548): Every 1 ms an UP port sends DELAY_REQ to measure link delay. -/
  | delayMeasurement (port : Fin 8) (now : Nat)
  /-- DELAY_REQ (R548): A peer timestamps a DELAY_REQ and returns DELAY_RESP with t3 − t2. -/
  | delayReq (port : Fin 8) (f : Frame) (t2 : Nat) (t3 : Nat)
  /-- DELAY_RESP (R548): A DELAY_RESP yields a new link delay d, unless a frame was retransmitted. -/
  | delayResp (port : Fin 8) (f : Frame) (t4 : Nat)
  /-- PACER_ENABLE (R556): Setting PACER_ENABLE checks the pair requirements and sets WAITING or captures PACER_CONFIG. -/
  | pacerEnable (a : Access) (data : Word) (partner : PartnerMasks)
  /-- PACER_DISABLE (R572): Clearing PACER_ENABLE ends Pacer mode. -/
  | pacerDisable (a : Access) (data : Word)
  /-- PACER_RESPONSE_DELIVERY (R558): At PACER_DEADLINE frames an asynchronous response is delivered, or the chip stops with LATE. -/
  | pacerResponseDelivery (present : Bool)
  /-- PACE (R559): A partner's doorbell proposal arrives in a PACE frame. -/
  | pace (port : Fin 8) (f : Frame)
  /-- PACED_DOORBELL (R559): A doorbell is delivered at the later proposal, or the chip stops with LATE or INPUT. -/
  | pacedDoorbell (partition : Fin 4) (ring : Fin 16)
  /-- PACER_WINDOW_END (R562): A 1,024-cycle digest window ends and DIGEST is sent to the partner. -/
  | pacerWindowEnd (trace : List DWord)
  /-- DIGEST (R562): A partner digest is received and compared with the local one. -/
  | digest (port : Fin 8) (f : Frame)
  /-- PACER_STOP (R563): At the stop cycle after a mismatched or missing digest, every running core traps with BREAK and PACER_STATE becomes STOPPED. -/
  | pacerStop
  /-- RECORD_START (R567): REC_START in RECORD mode writes the header and starts recording external inputs. -/
  | recordStart (a : Access) (data : Word)
  /-- REPLAY_START (R569): REC_START in REPLAY mode starts replaying the recorded inputs in order. -/
  | replayStart (a : Access) (data : Word)
  /-- REC_STOP (R568): REC_STOP writes RECORD_COUNT and COMPLETE and returns to IDLE, or ends a replay. -/
  | recStop (a : Access) (data : Word)
  /-- RECORD_COUNT_REWRITE (R614): At least once per millisecond during recording, RECORD_COUNT in the header is rewritten. -/
  | recordCountRewrite
  /-- REPLAY_RELEASE (R569): A held live input whose record is next is matched and delivered, or causes DIVERGED. -/
  | replayRelease
  /-- REPLAY_INPUT_TIMEOUT (R570): A record's input has not arrived within 100 ms, so the replay diverges and cores trap. -/
  | replayInputTimeout
  /-- SQ_DB (R593): A write to SQ_DB sets the SQ tail of a ring. -/
  | sqDb (a : Access) (partition : Fin 4) (ring : Fin 16) (data : Word)
  /-- CQ_DB (R593): A write to CQ_DB sets the CQ head of a ring and frees CQ slots. -/
  | cqDb (a : Access) (partition : Fin 4) (ring : Fin 16) (data : Word)
  /-- RING_CFG_ENABLE (R592): Setting RING_CFG.ENABLE checks the fields and resets the ring's pointers and phase. -/
  | ringCfgEnable (a : Access) (partition : Fin 4) (ring : Fin 16) (data : Word)
  /-- RING_CFG_DISABLE (R616): Clearing ENABLE stops fetching, and fetched descriptors still complete. -/
  | ringCfgDisable (a : Access) (partition : Fin 4) (ring : Fin 16) (data : Word)
  /-- DESCRIPTOR_FETCH (R595): The device fetches the next descriptor of a non-empty ring, round robin, once a context is free. -/
  | descriptorFetch (partition : Fin 4) (answer : HostRead)
  /-- COMPLETION_WRITE (R598): A completion entry is written once a CQ slot is free, and its context is released. -/
  | completionWrite (tag : BitVec 12)
  /-- COALESCE_TIMER (R600): COALESCE.TIME µs after an uncovered entry, the ring sends an MSI-X message. -/
  | coalesceTimer (partition : Fin 4) (ring : Fin 16)
  /-- HOST_NOP (R601): Host command 0x00 that completes OK. -/
  | hostNop (tag : BitVec 12)
  /-- COPY (R602): Host command that copies between host memory and device memory. -/
  | copy (tag : BitVec 12) (answer : HostRead)
  /-- LAUNCH (R603): Host command that writes START_PC to the named cores and starts them. -/
  | launch (tag : BitVec 12)
  /-- REPARTITION (R606): Host command on a PF0 HOST ring that checks the conditions and starts a change between DAY and NIGHT. -/
  | repartition (tag : BitVec 12)
  /-- REPARTITION_COMPLETE (R607): The repartition zeroes state, applies the new mode, writes its completion and disables every ring. -/
  | repartitionComplete
  /-- RESET_REQUEST (R617): Writing 0x5A5A_0002 to RESET_REQUEST starts a drain that is followed by a full reset. -/
  | resetRequest (a : Access) (partition : Fin 4) (data : Word)
  /-- DRAIN_ACK (R617): A partition acknowledges the drain; the full reset starts when all have acknowledged. -/
  | drainAck (a : Access) (partition : Fin 4) (data : Word)
  /-- DRAIN_PERIOD_END (R617): The drain period expires, and the requested full reset starts. -/
  | drainPeriodEnd
  /-- GETS (R643): A home slice serves a request for a shared copy of a control-memory line. -/
  | gets (agent : Fin 19) (line : Nat)
  /-- GETM (R646): A home slice grants ownership of a line or answers RETRY under the reservation queue. -/
  | getm (agent : Fin 19) (line : Nat)
  /-- ATOMIC (R648): A home slice recalls all copies and applies an atomic operation to the home copy. -/
  | atomic (agent : Fin 19) (addr : Nat) (op : AtomicOp)
  /-- PUTM (R645): A modified line is merged into the home copy, or is dropped if its agent is fenced. -/
  | putm (agent : Fin 19) (line : Nat) (merge : BitVec 512)
  /-- PUTS (R643): An agent leaves the sharers of a line. -/
  | puts (agent : Fin 19) (line : Nat)
  /-- AGENT_FENCE (R650): The management core fences an agent, and every slice reclaims and poisons its owned lines. -/
  | agentFence (agent : Fin 19)
  /-- RETRY (R646): A RETRY reaches an agent, which asks again 16 FCLK cycles later. -/
  | retry (agent : Fin 19) (line : Nat)
  /-- RECALL (R648): 8 FCLK cycles after a grant, the home slice recalls the line so that it can be granted on. -/
  | recall (line : Nat)
  /-- RESERVATION_EXPIRY (R647): A queue head that has not asked again within 64 FCLK cycles is removed from the reservation queue. -/
  | reservationExpiry (line : Nat)
  /-- PARITY_ERROR (R642): An agent cache parity error discards a clean line or writes a modified line back poisoned. -/
  | parityError (agent : Fin 19) (line : Nat)
  /-- STACK_PHY_FAIL (R633): An HBM PHY fails to retrain within 10 ms, and the stack is fenced with PHY_FAIL. -/
  | stackPhyFail (stack : Fin 12)
  /-- HBM_SCRUB (R653): Patrol scrub reads and corrects the next HBM line. -/
  | hbmScrub (stack : Fin 12) (result : EccResult)
  /-- CM_SCRUB (R653): Control-memory scrub reads and corrects the next slice line. -/
  | cmScrub (slice : Fin 16) (result : EccResult)
  /-- SERDES_RECALIBRATION (R389): The background service recalibrates one Baton lane without stopping traffic. -/
  | serdesRecalibration (port : Fin 8) (lane : Fin 8)
  /-- SENSOR_CALIBRATION (R653): Every 10 s the temperature and voltage sensors are calibrated while readings hold. -/
  | sensorCalibration (begins : Bool)
  /-- FLASH_WEAR (R656): Wear management moves a sector or erases a spare sector, yielding to commits. -/
  | flashWear (action : WearAction)
  /-- TELEMETRY_SAMPLE (R720): Every 1 ms the sensors are sampled and the throttle level is updated. -/
  | telemetrySample (t : Telemetry)
  /-- BG_PAUSE (R654): Setting a BG_PAUSE bit stops a background service at the end of its current unit of work. -/
  | bgPause (a : Access) (data : Word)
  /-- AUTO_RESUME (R654): A limited pause expires, the service resumes, and its BG_PAUSE bit clears. -/
  | autoResume (service : Fin 5)
  /-- SAMPLE (R671): Every 1/16,000 s each enabled Bittern channel produces a filtered, clamped and flagged sample. -/
  | sample (chan : Fin 4) (inputs : List Int) (overRange : Nat)
  /-- BAND_FRAME (R682): A 256-sample frame ends, band powers are compared with thresholds, and hold counts advance. -/
  | bandFrame
  /-- TONE_BLOCK (R683): A 1,024-sample block ends, and the tone detectors compare tone power and ratio. -/
  | toneBlock
  /-- RING_BLOCK_WRITE (R692): Each millisecond, one 24 B block per recorded channel is written to the pre-wake ring. -/
  | ringBlockWrite
  /-- POSTFILL_END (R695): POST_MS after a wake, the ring becomes FROZEN. -/
  | postfillEnd
  /-- BIAS_FAULT (R669): An input draws more than 3 mA of bias for 1 ms, and its bias is switched off. -/
  | biasFault (input : Fin 2)
  /-- PDM_STUCK (R670): The PDM data wire shows no transition for 1 ms, and both PDM channels are marked not valid. -/
  | pdmStuck
  /-- LEVEL_UPDATE (R707): Each second, LEVEL_c takes the mean power of its channel. -/
  | levelUpdate
  /-- BIAS_CHANGE (R690): A write to BIAS_CODE or BIAS_EN takes effect and both analogue channels settle for 160 samples. -/
  | biasChange (a : Access) (data : Word)
  /-- WAKE_ACK (R701): Writing WAKE_ACK clears WAKE_PENDING and WAKE_CODE. -/
  | wakeAck (a : Access) (data : Word)
  /-- TEST_WAKE (R698): Writing TEST_WAKE raises a wake with code 0x01 that does not change the ring. -/
  | testWake (a : Access) (data : Word)
  /-- OVR_CLEAR (R688): Writing 1 to an OVR bit clears the sticky over-range flag. -/
  | ovrClear (a : Access) (data : Word)
  /-- RING_EN (R696): Setting RING_EN starts recording into an empty ring. -/
  | ringEn (a : Access) (data : Word)
  /-- RING_EN_CLEAR (R696): Clearing RING_EN zeroes the ring and sets RING_STATE OFF. -/
  | ringEnClear (a : Access) (data : Word)
  /-- RING_RELEASE (R696): RING_RELEASE zeroes the ring and resumes recording. -/
  | ringRelease (a : Access) (data : Word)
  /-- RING_DATA_READ (R700): Reading RING_DATA returns 4 B of a frozen readable ring and advances RING_ADDR. -/
  | ringDataRead (rq : Requester)
  /-- PANEL_COMMIT (R725): The management core erases the other sector, programs a new panel record and reads it back. -/
  | panelCommit
  /-- PANEL_DRAW (R727): When due, outside the hold range and after the interval, a three-phase draw of the committed record starts. -/
  | panelDraw
  /-- BUSY_FALL (R727): The panel BUSY line falls, ending a draw phase; after phase 3, DRAWN is programmed. -/
  | busyFall
  /-- PANEL_FAIL (R739): BUSY does not fall within 5 s, so the page captures FENCED, PANEL_FAIL and drawing stops. -/
  | panelFail
  /-- PANEL_REDRAW (R729): Within 3 s of readiness after standby power-up, the panel is cleared and redrawn from the committed record. -/
  | panelRedraw
  /-- PANEL_UPDATE (R738): Writing PANEL_UPDATE submits USER_TEXT as a record change. -/
  | panelUpdate (a : Access) (data : Word)
  /-- RECORD_DATA_READ (R738): Reading RECORD_DATA returns one word of the committed record and increments RECORD_INDEX. -/
  | recordDataRead (rq : Requester)
  /-- HEADER_DETECT (R738): DET# changes level, and HEADER_PRESENT follows. -/
  | headerDetect (low : Bool)
  /-- GET_IDENT (R736): SMBus block read of the card identity. -/
  | getIdent (pec : SmbusRead)
  /-- GET_STATE (R736): SMBus read of service state, power, throttle and trip status. -/
  | getState (pec : SmbusRead)
  /-- GET_DIE_TEMP (R736): SMBus read of DIE_TEMP_MAX. -/
  | getDieTemp (pec : SmbusRead)
  /-- GET_HBM_TEMP (R736): SMBus read of HBM_TEMP_MAX. -/
  | getHbmTemp (pec : SmbusRead)
  /-- GET_POWER (R736): SMBus read of CARD_POWER_W. -/
  | getPower (pec : SmbusRead)
  /-- GET_RETURN_CODE (R736): SMBus read of RETURN_CODE and PREV_RETURN_CODE. -/
  | getReturnCode (pec : SmbusRead)
  /-- GET_RECORD_LO (R736): SMBus read of bytes 0–127 of the committed record. -/
  | getRecordLo (pec : SmbusRead)
  /-- GET_RECORD_HI (R736): SMBus read of bytes 128–255 of the committed record. -/
  | getRecordHi (pec : SmbusRead)
  /-- GET_FAULT_SUMMARY (R736): SMBus read of the fault-log entry count and the latest entry. -/
  | getFaultSummary (pec : SmbusRead)
  /-- SET_POWER_LIMIT (R737): SMBus write of POWER_LIMIT_W, ignored while LOCK is set or out of range. -/
  | setPowerLimit (watts : BitVec 16) (pec : Option Byte)
  /-- SMBUS_UNKNOWN_COMMAND (R736): An unlisted SMBus command code is NACKed, and a command with a wrong PEC is ignored. -/
  | smbusUnknownCommand (code : Byte) (wrongPec : Bool)
  /-- STANDBY_POWER_LOSS (R610): 3.3 Vaux is lost: every standby register, counter, latched wake and the Bittern ring are lost, while the fault log and panel record in flash survive. -/
  | standbyPowerLoss
  /-- HBM_PHY_TRAINING_LOSS (R633): An HBM stack's PHY loses training and starts a retraining attempt, counted in RETRAINS, which either succeeds or leads to the 10 ms fence. -/
  | hbmPhyTrainingLoss (stack : Fin 12) (retrained : Bool)
  /-- PDM_TRANSITIONS_RESUME (R670): The PDM data wire shows transitions again, and the samples of both PDM channels become valid again. -/
  | pdmTransitionsResume
  /-- MINIMUM_SERVICE_SET_FAILURE (R89): The management core, boot flash or PCIe endpoint fails in service, and the device provides no function while the panel keeps its last image. -/
  | minimumServiceSetFailure (unit : VitalUnit)
  /-- FOREIGN_FRAME (R398): A received frame that fails the FCS or uncorrectable-codeword check, the TPID/EtherType check or the destination-MAC check is discarded and counted in FCS_ERRORS or FOREIGN_FRAMES. -/
  | foreignFrame (port : Fin 8) (f : Frame)
  /-- CLASS_D_COMPLETION (R151): A class D unit (Egret row or micro-program load, Sandpiper, tile move, group save, load or close, gather, scatter) finishes, writes its outputs and its destination or status register, and clears its busy state. -/
  | classDCompletion (core : Fin 16)
  deriving DecidableEq, Repr

end Sys2Proof
end

