-- ==== Sys2Proof/Decode.lean ====
section
/-! DEFINITION. Command words.  Every row of the opcode table is a command from outside and the table gives none of
them any bits; an instruction of a core is carried whole inside its command, as its 64-bit word (R145). -/

namespace Sys2Proof

/-- The command that a word spells by the table's bits: none, since no row has bits. -/
def decodeTableWord (_nbits _w : Nat) : Option Instr := none

end Sys2Proof
end

