-- ==== Sys2Proof/Config.lean ====
section
/-! DEFINITION. What one card or one implementation fixes, and the free values of the specification: constants with
no body, so that no proof can see their value. -/

namespace Sys2Proof.Config

/-- The 64-bit serial number of the card (R577, R724). -/
opaque serial : BitVec 64
/-- Firmware version reported by GET_IDENT and IDENT_RESP (R397, R736). -/
opaque firmwareMajor : Byte
/-- Firmware minor version. -/
opaque firmwareMinor : BitVec 16
/-- A fresh free value of the machine: the `n`-th value the specification leaves open. -/
opaque freeValue : Nat → BitVec 64
/-- The result of a micro-program (R275): its words, its steps per result, its FUNC_ID, the type code, the scale of L8 and
the input bits. (DESIGN CHOICE, entry 15). -/
opaque microResult : List (BitVec 64) → Nat → BitVec 32 → Nat → Int → Nat → Nat
/-- The TRC-1 result of a function in Rerda mode (R276): FN, type code and input bits. (DESIGN CHOICE, entry 17). -/
opaque rerdaResult : Nat → Nat → Nat → Nat
/-- Whether a micro-program image and signature verify under a key the device holds and has not revoked (R272).
(DESIGN CHOICE, entry 15). -/
opaque microSignature : List (BitVec 8) → Bool
/-- Level of one band of a 256-sample frame, as a threshold code (R681, R682): band, samples.
(DESIGN CHOICE, entry 18). -/
opaque bandLevel : Nat → List Int → Int
/-- Level of the tone power of a 1,024-sample block at a frequency in Hz, as a threshold code (R683).
(DESIGN CHOICE, entry 18). -/
opaque toneLevel : Nat → List Int → Int
/-- Tone power over the total power of the same windowed block, in half decibels below (R683).
(DESIGN CHOICE, entry 18). -/
opaque toneRatio : Nat → List Int → Int
/-- Mean power of the samples of one second, as a threshold code (R707).
(DESIGN CHOICE, entry 18). -/
opaque levelCode : List Int → BitVec 8
/-- The interpolated sample of a beam delay: eighths of a sample and the past samples, newest first (R678).
(DESIGN CHOICE, entry 18). -/
opaque beamInterp : Nat → List Int → Int

/-- Taps of the first half-band stage of the decimation chain, in units of no account (R673 gives no coefficients).
(DESIGN CHOICE, entry 134). -/
opaque halfBand1 : List Int
/-- Taps of the second half-band stage, which also compensates the droop of the CIC filter (R673).
(DESIGN CHOICE, entry 134). -/
opaque halfBand2 : List Int
/-- How much of the second stage's output is one unit of the 16-bit code (R673).  (DESIGN CHOICE, entry 134). -/
opaque chainUnit : Nat
/-- Pole and gain of the first-order high-pass filter, in units of 2^-16 (R673).  (DESIGN CHOICE, entry 134). -/
opaque highPassPole : Int
/-- Its gain. -/
opaque highPassGain : Int

/-- The bits of a long accumulator once its sum has left the range (R53 gives its read-out and state, not its bits):
width, bits before, and the integer added. (DESIGN CHOICE, entry 85). -/
opaque accOverflow : Nat → Nat → Int → Nat

/-- The word a sum of two E56 words outside the range of the format writes (R38, R39 state none): the exact sum.
(DESIGN CHOICE, entry 69). -/
opaque e56Overflow : Int → BitVec 56
/-- The result of a conversion to an integer type that the type cannot hold (no rule states one): type code, then 0 for
NaN or NaR, 1 and 2 for an infinity, 3 for a number m × 2^e.
(DESIGN CHOICE, entry 25). -/
opaque intResult : Nat → Nat → Int → Int → BitVec 32
/-- The status WAIT returns for a tag that is not in use (no rule states one): FN and tag.
(DESIGN CHOICE, entry 13). -/
opaque idleTag : Nat → Nat → BitVec 8
/-- What the four bits of CORE_COUNT show of a partition of 16 cores (R128 gives them no value).
(DESIGN CHOICE, entry 83). -/
opaque coreCount16 : BitVec 4
/-- The rank that SP.MERGE gives an entry of registers that are not sorted (R302 states none): FN, DT, the key and the index
registers, and the entry's number.  (DESIGN CHOICE, entry 90). -/
opaque mergeRank : Nat → Nat → List (BitVec 2048) → List (BitVec 2048) → Nat → Nat
/-- CUT_KEY where no candidate may be selected (R292 and R296 define none): the candidates' indices and keys.
(DESIGN CHOICE, entry 90). -/
opaque cutKey : List (Nat × Nat) → BitVec 64
/-- What the Global page shows during a reset with the link up of a field whose boot value the self-test decides (R612): offset
and full resets so far. (DESIGN CHOICE, entry 124). -/
opaque bootWord : Nat → Nat → BitVec 32
/-- A minimum or maximum over no element (R152, R153 state none): FN and type code.
(DESIGN CHOICE, entry 34). -/
opaque emptyReduce : Nat → Nat → BitVec 64

/-- The L32 word of the long-log path of one element (R256), where the specification does not give the path's value:
function, type code, scale, input bits, and what tells one use of a micro-program from another.
(DESIGN CHOICE, entry 40). -/
opaque longLog : Nat → Nat → Int → Nat → Nat → BitVec 32
/-- Which of two neighbouring results an evaluation takes that no computed precision decides: function and input.
(DESIGN CHOICE, entry 40). -/
opaque roundUp : Nat → Int → Int → Bool
/-- Which of the detail codes R446 allows a failure STATUS the header of a RESPONSE conveys (R447 gives it no place).
(DESIGN CHOICE, entry 96). -/
opaque responseDetail : BitVec 256 → BitVec 16
/-- Whether a RESPONSE with PAGE_MISS asks for a resend (R462, R463: how the initiator tells is not stated).
(DESIGN CHOICE, entry 96). -/
opaque responseResend : BitVec 256 → Bool
/-- The length of a sealed READ_REQ whose payload cannot be read, as its answers cover it (R448, R452: not stated).
(DESIGN CHOICE, entry 129). -/
opaque unreadLength : List Byte → Nat

/-- The detail code CORE_BUSY (R603 gives the name and no number).
(DESIGN CHOICE, entry 101). -/
opaque coreBusyDetail : BitVec 16

end Sys2Proof.Config
end

