-- ==== Sys2Proof/Machine/State.lean ====
section
/-! DEFINITION. The state of one device as plain data: every register, memory, queue, mode and pin the
specification names, and the queue of waiting commands.  Maps are sorted association lists in one canonical
form (`SMap`), so that equal contents are equal data. -/

namespace Sys2Proof.Machine

open Sys2Proof

/-- A sparse map from naturals: addresses strictly rising, no entry equal to the value an unlisted key reads as. -/
abbrev SMap (α : Type) := List (Nat × α)

/-- A byte memory with its poison marks: `cells` is the canonical list of (address, byte) pairs, and `marks` the
rising list of poisoned granules (32 B bank words of a scratchpad, R165; 64 B lines of HBM and control
memory, R627, R641). -/
structure Memory where
  cells : List Host.Cell := []
  marks : List Nat := []
  deriving DecidableEq, Repr

/-! ## Register pages -/

/-- One 4 KiB register page (R100).  `regs` holds the block-specific words by page offset, absent where the word is
at its reset value; `ctrs` the 64-bit counters by pair number (R114); `shadows` the counter shadow of
each requester, functions 0 to 3 and the management core as 4 (R115); a shadow that nothing has latched reads 0
(DESIGN CHOICE, entry 120). -/
structure Page where
  enable : Bool := false
  quiesce : Bool := false
  lock : Bool := false
  ready : Bool := false
  fenced : Bool := false
  error : Bool := false
  /-- CTRL.ENABLE has been cleared while the block was busy (R103). -/
  disabling : Bool := false
  irqRaw : Word := 0
  irqStatus : Word := 0
  irqEnable : Word := 0
  errCode : Word := 0
  errInfo0 : Word := 0
  errInfo1 : Word := 0
  errCount : Word := 0
  scratch : Word := 0
  regs : SMap Word := []
  ctrs : SMap DWord := []
  shadows : SMap Word := []
  deriving DecidableEq, Repr

/-- Number of register pages of R94 that have the common header. -/
abbrev pageCount : Nat := 155

/-! ## PCI Express -/

/-- One MSI-X table entry with its Pending Bit (R126, R577, R579). (PRESUMED, entry 6). -/
structure MsixVector where
  masked : Bool := true
  pending : Bool := false
  deriving DecidableEq, Repr

/-- Configuration-space state of one physical function (R577 to R581). -/
structure PcieFn where
  busMaster : Bool := false
  d3hot : Bool := false
  msixEnable : Bool := false
  msixFunctionMask : Bool := false
  vectors : Vector MsixVector 64 := Vector.replicate 64 {}
  deriving DecidableEq, Repr

/-- What leaves the device: everything the outside sees happen, oldest first. (DESIGN CHOICE, entries 109 and 110). -/
inductive Output where
  | msi (fn : Nat) (vector : Nat)                         -- R125
  | hostWrite (addr : Nat) (bytes : List Byte) (poisoned : Bool)  -- R597, R602
  | frame (port : Nat) (f : Frame)                        -- R391
  | pfc (port : Nat) (p : PfcFrame)                       -- R401
  | readData (value : DWord)                              -- the answer to a register read
  | configData (value : Word)                             -- the answer to a configuration read
  | configRetry                                           -- Request Retry Status (R583)
  | smbusData (bytes : List Byte)                         -- R736
  | smbusNack
  deriving DecidableEq, Repr

/-! ## Power and boot -/

/-- Where the device stands between power and service (R582 to R584, R611, R612). -/
inductive Phase where
  | noStandby        -- 3.3 Vaux absent
  | held             -- standby power only, or PERST# asserted, or rails not good
  | booting          -- boot after a fundamental or link-initiated reset: the link trains
  | resetting        -- boot after a requested or internal full reset: the link stays up (R612)
  | ready            -- Global STATUS.READY = 1
  | noFunction       -- R89, last row
  deriving DecidableEq, Repr

/-- Power, pins and clocks of the card. -/
structure Power where
  aux : Bool := true             -- 3.3 Vaux present (R608)
  main12v : Bool := false        -- 12 V within tolerance (R714)
  railsGood : Bool := false      -- R718
  railsOff : Bool := false       -- kept off by SENSE_CAP 150 W (R715) or a trip (R722)
  perst : Bool := true           -- PERST# asserted
  /-- R719: main power that returns is used only after PERST# is asserted (2) and deasserted (1) again. -/
  needPerst : Nat := 0
  railFailed : Bool := false     -- a rail has failed to come up (R733, R743)
  tripLatch : Bool := false      -- R722
  wakePin : Bool := false        -- WAKE# asserted (R704)
  rootLocked : Bool := false     -- R82
  released : Bool := false       -- dividers released (R82)
  mgmtOnSclk : Bool := false     -- R84
  spreadActive : Bool := false   -- R79
  refOffset : Nat := 0           -- R83
  phaseValid : Bool := false     -- FRAME_PHASE.VALID
  refExt : Bool := false         -- R711
  senseCap : Nat := 0            -- watts, R714
  maxPowerLimit : Nat := 0       -- watts, R714
  headerPresent : Bool := false  -- DET# low
  phase : Phase := .held
  /-- The reset now in progress sends vector 63 at readiness (R613). -/
  announce : Bool := false
  /-- The reset with the link up is an internal one (R748). -/
  internalReset : Bool := false
  vitalFailed : Option VitalUnit := none
  deriving DecidableEq, Repr

/-- What test and boot fixed about the units (R70, R88, R89): masks over physical units. -/
structure Units where
  fused : BitVec 16 := 0xFFFF       -- CORE fuses (R128)
  cores : BitVec 16 := 0
  hbms : BitVec 12 := 0
  slices : BitVec 16 := 0
  ports : BitVec 8 := 0
  service : BitVec 2 := 0           -- SERVICE_STATE
  failedCores : BitVec 16 := 0      -- fenced in service, disabled at the next full reset (R92)
  failedHbms : BitVec 12 := 0
  failedSlices : BitVec 16 := 0
  failedPorts : BitVec 8 := 0
  training : BitVec 12 := 0         -- stacks whose PHY has lost training (R633)
  deriving DecidableEq, Repr

/-! ## Heron cores -/

/-- STATE of a core (R190). -/
inductive CoreSt where
  | idle | running | halting | trapped | fenced
  deriving DecidableEq, Repr

/-- One entry of the loop stack: first and last instruction index of the body, passes left (R143). -/
structure LoopEntry where
  first : Nat
  last : Nat
  left : DWord
  deriving DecidableEq, Repr

/-- One pool entry of 320 bits with the state and poison mark of the element it begins (R211, R213). -/
structure AccEntry where
  bits : BitVec 320 := 0
  state : BitVec 2 := 0
  poison : Bool := false
  deriving DecidableEq, Repr

/-- An open accumulation group (R214, R215). -/
structure Group where
  base : Nat       -- first block of 64 entries
  blocks : Nat
  double : Bool
  deriving DecidableEq, Repr

/-- The run register of one MAC cell (R206): window base, contents, products held, and its element. -/
structure Run where
  base : Int
  val : BitVec 64
  count : Nat
  group : Nat
  elem : Nat
  deriving DecidableEq, Repr

/-- A class D operation that has issued and not completed (R151): its word and the operands read at issue. -/
structure DOp where
  w : DWord
  rd : DWord := 0
  ra : DWord := 0
  rb : DWord := 0
  rc : DWord := 0
  pred : DWord := 0
  va : List (BitVec 2048) := []
  vb : List (BitVec 2048) := []
  deriving DecidableEq, Repr

/-- A queued DMA descriptor, as read at issue, and its queue slot (R168 to R170); an engine that is quiesced does not start
the next one (R102). -/
structure DmaJob where
  desc : BitVec 256
  slot : Nat
  started : Bool := false
  deriving DecidableEq, Repr

/-- One DMA tag (R169). -/
inductive TagSt where
  | pending
  | done (code : Byte)
  deriving DecidableEq, Repr

/-- A 64 B message, by chip logical ids (R174, R175). -/
structure Msg where
  src : Nat
  dst : Nat
  chan : Nat
  data : List Byte
  poison : List Bool      -- marks of its two bank words
  deriving DecidableEq, Repr

/-- Kinds of a statistic slot (R265). -/
inductive SlotKind where
  | empty | rms | exp
  deriving DecidableEq, Repr

/-- One statistic slot of the Egret unit (R260, R265, R267). -/
structure StatSlot where
  kind : SlotKind := .empty
  sum : BitVec 4224 := 0
  n : DWord := 0
  poison : Bool := false
  nar : Bool := false
  range : Bool := false
  deriving DecidableEq, Repr

/-- A loaded micro-program (R271). -/
structure Micro where
  words : List DWord
  steps : Nat
  types : Nat
  func : Word
  deriving DecidableEq, Repr

/-- One entry of the top-k ladder: key lane bits and 48-bit index (R303, R306). -/
structure LadderEntry where
  key : Word
  idx : BitVec 48
  deriving DecidableEq, Repr

/-- The configured ladder, entries in rank order (R303 to R306). -/
structure Ladder where
  k : Nat
  dt : BitVec 4
  mag : Bool
  smallest : Bool
  tie : Bool
  entries : List LadderEntry
  deriving DecidableEq, Repr

/-- A FOLD between its last write and its conservation check (R314 to R317). -/
structure FoldPend where
  w : DWord
  descAddr : Nat
  summaryAddr : Nat
  rd : Nat
  summary : List Byte          -- the 256 B record, STATUS and CONSERVE_FAIL still clear
  flags : Nat
  status : Byte
  poisoned : Bool
  inputSide : Int              -- the two check accumulators, in residual units (R316)
  outputSide : Int
  elements : Nat
  selected : Nat
  saturated : Nat
  clamped : Nat
  quantZero : Nat
  nar : Nat
  deriving DecidableEq, Repr

/-- A queued packer instruction (R353). -/
structure PackOp where
  op : Nat                     -- 0 PACK, 1 UNPACK, 2 PACK.HIST
  addr : Nat
  tag : Nat
  deriving DecidableEq, Repr

/-- A TMMA whose runs have not been flushed (R204, R208). -/
structure ArrayOp where
  group : Nat
  steps : Nat
  deriving DecidableEq, Repr

/-- An instruction that has reached issue and waits there (R141, R151; DESIGN CHOICE, entry 11). -/
structure Waiting where
  w : DWord
  /-- it has issued, and stalls on an event of its own; before that it waits for its registers and its unit (R141, R195) -/
  issued : Bool := false
  /-- the start-gun fires counted when a GUN.WAIT began to wait (R550) -/
  fires : DWord := 0
  deriving DecidableEq, Repr

/-- A Heron core (R137) with its units. -/
structure Core where
  st : CoreSt := .idle
  halted : Bool := false                 -- IDLE was reached through HALT (R192)
  sregs : Vector DWord 32 := Vector.replicate 32 0
  vregs : Vector (BitVec 2048) 64 := Vector.replicate 64 0
  preds : Vector DWord 8 := Vector.replicate 8 0
  pc : DWord := 0
  runPc : DWord := 0                     -- start PC of the current run (R156)
  cycles : DWord := 0                    -- CCLK cycles since the core started (R152, RDCYC)
  loops : List LoopEntry := []           -- innermost first
  imem : SMap DWord := []                -- instruction store, by instruction index
  spad : Memory := {}
  waiting : Option Waiting := none
  resetPending : Bool := false           -- a CORE_RESET waits (R188)
  runPending : Bool := false             -- a RUN waits for QUIESCE to clear (R102)
  pendingTrap : Option (Nat × Nat) := none   -- CONSERVE_FAIL not yet taken (R317): detail, code
  -- trap record (R190)
  trapValid : Bool := false
  trapCause : Nat := 0
  trapCode : Nat := 0
  trapInstr : DWord := 0
  trapAddr : Nat := 0
  -- class D operations not yet complete, oldest first
  dops : List DOp := []
  -- DMA
  dmaQ : Vector (List DmaJob) 4 := Vector.replicate 4 []
  dmaTags : SMap TagSt := []
  lastErrTag : Nat := 0
  -- messages that have arrived and wait, in arrival order
  msgs : List Msg := []
  -- MAC array and accumulation
  pool : SMap AccEntry := []
  groups : SMap Group := []
  runs : SMap Run := []
  array : List ArrayOp := []             -- oldest first
  -- Egret
  slots : SMap StatSlot := []
  micro : SMap Micro := []
  l32 : SMap Word := []                  -- most recent long-log value of each lane (R256)
  -- Sandpiper and fold
  ladder : Option Ladder := none
  fold : Option FoldPend := none
  conserveFails : Nat := 0               -- since the last full reset, saturating at 3
  lastFlags : Nat := 0
  -- Curlew packer
  packQ : List PackOp := []
  lastStatus : Nat := 0
  lastDetail : Nat := 0
  lastLength : Nat := 0
  deriving DecidableEq, Repr

/-- A chained reduction in flight (R233, R234): the records taken by a send. -/
structure Chain where
  src : Nat
  dst : Nat
  chan : Nat
  group : Nat                 -- the sender's group
  double : Bool
  records : List AccEntry     -- one per pool entry of the group
  deriving DecidableEq, Repr

/-- A chain add that waits for its records (R236). -/
structure ChainAdd where
  src : Nat
  dst : Nat
  chan : Nat
  group : Nat
  deriving DecidableEq, Repr

/-! ## Flight contexts and rings -/

/-- Who took a flight context (R586). -/
inductive CtxOwner where
  | core (n : Nat)
  | ring (p r slot : Nat)
  deriving DecidableEq, Repr

/-- What a flight context tracks. -/
inductive CtxKind where
  | host | stork | relay | pack
  deriving DecidableEq, Repr

/-- The result an operation ended with, kept until WAIT or the completion entry takes it. -/
structure Result where
  code : Byte
  detail : Nat := 0
  object : Nat := 0           -- WINDOW or GROUP (R597)
  value : Nat := 0            -- VALUE of R597
  deriving DecidableEq, Repr

/-- One of the 4,096 flight contexts while it is held (R585 to R587). -/
structure Ctx where
  owner : CtxOwner
  kind : CtxKind
  part : Nat
  desc : Option (BitVec 512) := none      -- host descriptors are fetched whole; a core's is read later (R183)
  addr : Nat := 0                         -- scratchpad address of a core's descriptor
  fence : Bool := false                   -- HOST descriptor with FENCE (R596)
  started : Bool := false
  result : Option Result := none
  order : Nat := 0                        -- posting order among the contexts held
  deriving DecidableEq, Repr

/-- One submission and completion ring (R589 to R600). -/
structure Ring where
  enable : Bool := false
  fault : Bool := false
  sqHead : Nat := 0
  sqTail : Nat := 0
  cqHead : Nat := 0
  cqTail : Nat := 0
  phase : Bool := false
  unreported : Nat := 0        -- entries no message has covered yet (R600)
  deriving DecidableEq, Repr

/-- The drain before a requested full reset (R617, R618). -/
structure Drain where
  acked : BitVec 4
  remainMs : Nat
  frames : Nat := 0   -- alignment frames since it started
  deriving DecidableEq, Repr

/-! ## Control-memory coherence -/

/-- A request of an agent to the home slice of a line (R643). -/
inductive DirReq where
  | gets
  | getm
  | atomic (addr : Nat) (op : AtomicOp)
  deriving DecidableEq, Repr

/-- Directory state of a control-memory line (R643), its reservation queue (R647), and the data of a modified
copy; agents 0 to 15 are the cores' caches, 16 the management core, 17 Stork, 18 the Relay. -/
structure DirLine where
  sharers : BitVec 19 := 0
  owner : Option Nat := none
  cached : Option (BitVec 512) := none   -- the owner's copy, when it differs from the home copy
  cachedPoison : Bool := false
  resv : List Nat := []
  held : Bool := false                   -- granted, and the 8-cycle hold of R648 still runs
  wait : Option (Nat × DirReq) := none   -- an accepted request that waits for the hold to end
  retried : BitVec 19 := 0               -- agents that hold a RETRY and have not asked again (R646)
  deriving DecidableEq, Repr

/-! ## Baton ports -/

/-- STATE of a Baton port (before R382). -/
inductive PortSt where
  | down | an | training | aligning | hello | up | miswired
  deriving DecidableEq, Repr

/-- Go-back-N state of one class in one port (R405 to R414). -/
structure ClassState where
  -- sender
  nextSeq : BitVec 16 := 0
  oldest : BitVec 16 := 0
  txq : List Frame := []               -- frames not yet started
  retx : List Frame := []              -- sent and not acknowledged, oldest first
  resend : Nat := 0                    -- how many of the newest of `retx` are still to be sent again
  goBacks : Nat := 0                   -- consecutive go-backs without progress (R413)
  -- receiver
  expected : BitVec 16 := 0
  ackSent : BitVec 16 := 0             -- ACK_SENT
  nakSent : Bool := false
  rxbuf : List Frame := []             -- accepted frames in the receive buffer, oldest first
  ackedTo : BitVec 16 := 0             -- the first SEQ no acknowledgement sent has covered
  deriving DecidableEq, Repr

/-- A table slot as a packer or expander reads it, once, when it starts a stream (R344); a slot in a fenced slice gives no
bytes (DESIGN CHOICE, entry 127). -/
structure SlotImage where
  bytes : List Byte := []
  poison : Bool := false
  fenced : Bool := false
  deriving DecidableEq, Repr

/-- A class C chunk held by a port's link expander (R370, R371, R409, R509), with the table of its stream (R344). -/
structure HeldChunk where
  frames : List Frame
  complete : Bool
  refusedBefore : Bool
  table : Option SlotImage := none
  deriving DecidableEq, Repr

/-- One entry of a stream: element index and E56 word, with its poison mark. -/
structure E56Entry where
  idx : Nat
  word : BitVec 56
  poison : Bool := false
  deriving DecidableEq, Repr

/-- A chunk checked and handed to the Relay (R369, R371): damage detail, or none; its entries, and the index after the block
it covers (dense forms). -/
structure ReadyChunk where
  frames : List Frame
  damaged : Option Nat
  poisoned : Bool
  entries : List E56Entry := []
  next : Nat := 0
  deriving DecidableEq, Repr

/-- One Baton port with its link expander. -/
structure Port where
  st : PortSt := .down
  speed400 : Bool := false
  fecLock : Bool := false
  peerChip : Byte := 0
  peerPort : BitVec 3 := 0
  peerMac : BitVec 48 := 0
  ownCheck : Bool := false             -- this port's wiring check has passed
  peerOk : Bool := false
  peerPaused : BitVec 3 := 0           -- classes M, B, C
  localPaused : BitVec 3 := 0
  cls : Vector ClassState 3 := Vector.replicate 3 {}
  lastDown : Nat := 0                  -- LAST_DOWN_DETAIL
  chunkOpen : Bool := false            -- a class C chunk has been started and its LAST frame has not
  held : List HeldChunk := []
  readyChunks : List ReadyChunk := []
  refusedSeqs : List (BitVec 16) := [] -- first SEQ of chunks refused once (R371)
  drrTurn : BitVec 1 := 0              -- whose turn it is of classes B (0) and C (1) (R404)
  drrB : Nat := 8192                   -- deficit of class B, in payload bytes
  drrC : Nat := 0                      -- and of class C
  expDetail : Nat := 0                 -- LAST_DETAIL of the expander
  expTable : Nat := 0                  -- LAST_TABLE_ID
  delay : Option Nat := none           -- measured link delay, 1/16 ns (R548)
  delayT1 : Option Nat := none
  lastRetx : Bool := false             -- a frame of the running delay exchange was retransmitted
  deriving DecidableEq, Repr

/-! ## Stork -/

/-- A window table entry (R436). -/
structure Window where
  base : BitVec 48 := 0
  length : BitVec 48 := 0
  domain : Byte := 0
  rights : BitVec 2 := 0
  valid : Bool := false
  paged : Bool := false
  resend : Bool := false
  sealed : Bool := false
  keySlot : Byte := 0
  generation : BitVec 16 := 0
  pageMap : BitVec 48 := 0
  deriving DecidableEq, Repr

/-- A range of an operation, in bytes from its start. -/
structure Range where
  start : Nat
  len : Nat
  deriving DecidableEq, Repr

/-- An operation at its initiator (R443 to R451, R463, R471). -/
structure StorkOp where
  tag : Nat
  desc : BitVec 512
  part : Nat
  core : Option Nat            -- the posting core
  domain : Byte
  attempt : Nat := 0
  replayed : Bool := false
  counted : Nat := 0           -- bytes answered OK or read, in the current attempt
  covered : Nat := 0           -- bytes answered in any way, in the current attempt
  sent : Nat := 0              -- bytes sent in the current attempt
  failure : Option (Nat × Nat) := none       -- first-ranked failure code and detail
  generation : Nat := 0        -- reported by the target
  poisoned : Bool := false
  noCompress : Bool := false   -- SEALED_NO_COMPRESS applies
  awaitingRoute : Bool := false
  unanswered : List Range := []   -- ranges sent in the current attempt and not answered, in order (R463)
  missed : List Range := []    -- ranges answered PAGE_MISS since the previous round
  round : Nat := 0
  flagWaits : Bool := false    -- a FLAG not yet sent (R456)
  data : List (Byte × Bool) := []   -- WRITE data as it is to be sent, with its poison marks
  order : Nat := 0             -- place in the order of posting
  deriving DecidableEq, Repr

/-- A frame in the stall buffer (R462). -/
structure Stalled where
  arrival : Arrival
  frame : Frame
  page : Nat
  off : Nat                    -- window offset and length of the frame, or of the READ_REQ piece
  len : Nat
  data : List Byte             -- the plain payload to be written
  deriving DecidableEq, Repr

/-- A RESPONSE being coalesced at one arrival port (R449). -/
structure Coalesce where
  arrival : Arrival
  src : Byte
  tag : BitVec 12
  attempt : BitVec 2
  status : Byte
  bytes : Nat
  frames : Nat
  window : BitVec 16
  domain : Byte
  deriving DecidableEq, Repr

/-- A compressed write partly received by an expander (R468, R469), with the table of its stream (R344). -/
structure PartWrite where
  arrival : Arrival
  frames : List Frame
  table : Option SlotImage := none
  deriving DecidableEq, Repr

/-- A finished WRITE or FLAG that a later FLAG of its queue must look at (R457). -/
structure QueueFail where
  queue : Nat
  code : Nat
  order : Nat
  deriving DecidableEq, Repr

/-- The Stork engine. -/
structure Stork where
  windows : SMap Window := []
  queues : SMap (BitVec 9) := []            -- queue table entries (R437)
  ops : List StorkOp := []                  -- in posting order
  nextOrder : Nat := 0
  fails : List QueueFail := []              -- the first failed operation of each queue
  stall : List Stalled := []
  trans : List (Nat × Nat × Nat) := []      -- window, page, HBM address (R460)
  coal : List Coalesce := []
  parts : List PartWrite := []
  own : List Frame := []                    -- frames on the internal path of a chip that addresses itself
  keys : SMap (BitVec 256) := []            -- loaded key slots
  keyCtr : SMap DWord := []                 -- IV counters (R465)
  keyData : BitVec 256 := 0                 -- KEY_DATA0 to KEY_DATA7
  keyJob : Option (Nat × Bool) := none      -- slot, and whether LOAD (else CLEAR)
  keyHeld : Bool := false                   -- the operation was accepted while the page was quiesced (R102)
  logSeq : SMap DWord := []                 -- SEQUENCE of each log: 2p violation, 2p + 1 page-miss
  deriving DecidableEq, Repr

/-! ## Relay -/

/-- STATE of a group (R491). -/
inductive GroupSt where
  | free | forming | ready | active | reforming | failed
  deriving DecidableEq, Repr

/-- Phase of a step (R502). -/
inductive StepPhase where
  | count | up | down | done | release
  deriving DecidableEq, Repr

/-- What one child has sent so far in a step. -/
structure ChildState where
  port : Nat
  counted : Bool := false
  count : Nat := 0
  entries : List E56Entry := []
  finished : Bool := false
  done : Bool := false
  deriving DecidableEq, Repr

/-- A step in progress on this chip (R502 to R524). -/
structure StepState where
  number : Nat
  tag : Option Nat
  desc : BitVec 512
  core : Option Nat
  part : Nat
  phase : StepPhase := .count
  fixedOrder : Bool := false        -- PHOTO_FINISH_ACTIVE at the start (R519)
  refused : Option (Nat × Nat) := none
  elements : Nat := 0               -- E
  segCrc : Word := 0
  segments : List (Nat × Int) := [] -- count and scale of each segment
  ownCount : Nat := 0
  own : List E56Entry := []
  children : List ChildState := []
  mismatch : Bool := false
  anyRefused : Bool := false
  countSent : Bool := false
  upSent : Bool := false
  total : Nat := 0                  -- T
  dense : Bool := false
  result : List E56Entry := []
  resultComplete : Bool := false
  status : Nat := 0
  detail : Nat := 0
  nextScale : List Int := []
  ended : Bool := false
  doneSent : Bool := false
  stageFenced : Bool := false
  deriving DecidableEq, Repr

/-- The TOPO record of a member (R526, R530). -/
structure TopoRec where
  chip : Nat
  lastReady : BitVec 256
  peers : List Nat
  upMask : BitVec 8
  lastReleased : Nat
  activeStep : Nat
  deriving DecidableEq, Repr

/-- Credits and leases of one tree link (R514 to R517). -/
structure LinkCredit where
  port : Nat
  slots : Nat                -- credits this chip grants on the link
  granted : Nat              -- cumulative grant sent to the neighbour, current epoch
  leased : Nat               -- leases running now
  received : Nat             -- cumulative grant received from the neighbour
  used : Nat                 -- chunks started toward the neighbour
  deriving DecidableEq, Repr

/-- One Relay group (R489 to R491) with the progress of forming it. -/
structure RGroup where
  st : GroupSt := .free
  members : BitVec 256 := 0
  epoch : BitVec 16 := 0
  root : Nat := 0
  parent : Option Nat := none          -- PARENT_PORT
  childPorts : BitVec 8 := 0
  depth : Nat := 0
  stageCore : Nat := 0
  stageOffset : Nat := 0
  stageSize : Nat := 0
  nextStep : Nat := 0
  lastReleased : Nat := 0
  nextScale : List Int := []
  lastEnded : Nat := 0
  part : Nat := 0
  attempts : Nat := 0
  lastReady : BitVec 256 := 0          -- last READY set
  creating : Option Nat := none        -- tag of the CREATE
  reformTags : List Nat := []
  topos : List TopoRec := []
  commits : List (Nat × BitVec 256) := []
  candidates : Option (BitVec 256) := none
  links : List LinkCredit := []
  step : Option StepState := none
  posted : List (Nat × Nat) := []      -- tags and numbers of steps that wait their turn
  ended : List (Nat × Nat × Nat) := [] -- steps the root ended before this member posted them (R524)
  dissolving : Option (Nat × Nat) := none  -- tag of the DISSOLVE, and the number of the first step posted behind it
  endStatus : Option (Nat × Nat) := none   -- status of the latest END received
  early : List (Nat × Frame) := []     -- frames of a later step or epoch, with their arrival port
  deriving DecidableEq, Repr

/-! ## Determinism -/

/-- GUN_STATE (R572). -/
inductive GunSt where
  | idle | armed | fired | failed
  deriving DecidableEq, Repr

/-- The start gun (R543 to R553). -/
structure Gun where
  st : GunSt := .idle
  ready : Bool := false
  late : Bool := false
  fireFrame : DWord := 0
  fireAt : Option Nat := none          -- f, 1/16 ns
  readyFrom : BitVec 256 := 0          -- members whose READY the master holds
  fires : List (Nat × Nat × Nat) := []   -- FIRE frames under way from here: SRC_CHIP, DST_CHIP, f
  deriving DecidableEq, Repr

/-- PACER_STATE (R572). -/
inductive PacerSt where
  | off | waiting | running | stopped
  deriving DecidableEq, Repr

/-- A doorbell waiting for its agreed frame (R559). -/
structure PacedBell where
  part : Nat
  ring : Nat
  cq : Bool
  value : Word
  frame : Nat
  partner : Option (Nat × Word)     -- the partner's proposal and value
  deriving DecidableEq, Repr

/-- Pacer mode (R556 to R563). -/
structure Pacer where
  enable : Bool := false
  st : PacerSt := .off
  cause : Nat := 0
  stopOpen : Bool := false               -- the cycle of the stop is not over: another cause may still join it (R752)
  leader : Bool := false
  window : DWord := 0                    -- the window now running
  localDigests : List (Nat × DWord) := []
  peerDigests : List (Nat × DWord) := []
  stopWindow : DWord := 0
  localDigest : DWord := 0
  peerDigest : DWord := 0
  bells : List PacedBell := []
  proposals : List (Nat × Nat × Nat × Word) := []  -- partner proposals with no local doorbell yet
  deriving DecidableEq, Repr

/-- REC_STATE (R572). -/
inductive RecSt where
  | idle | recording | replaying | full | diverged | ended
  deriving DecidableEq, Repr

/-- An external input the Split recorder captures or replays (R567). -/
structure RecInput where
  kind : Nat
  source : Nat
  arg0 : Word
  arg1 : DWord
  deriving DecidableEq, Repr

/-- A live input held for replay, with what its delivery does (R569). -/
inductive HeldInput where
  | doorbell (part ring : Nat) (cq : Bool) (value : Word)
  | frame (port : Nat) (f : Frame)
  | wake (code : Nat)
  deriving DecidableEq, Repr

/-- The Split recorder (R564 to R571). -/
structure Recorder where
  st : RecSt := .idle
  count : Nat := 0                  -- records written or replayed
  total : Nat := 0                  -- RECORD_COUNT of the record under replay
  startFrame : DWord := 0
  held : List HeldInput := []
  checked : List Nat := []          -- positions of later records that PCIe read data has matched already
  deriving DecidableEq, Repr

/-! ## Management core, panel, Bittern -/

/-- One fault-log entry (R743). -/
structure LogEntry where
  seq : Word
  powerup : Word
  frame : DWord
  kind : Byte
  cls : Byte
  block : BitVec 16
  inst : Byte
  code : Byte
  detail : BitVec 16
  arg : DWord
  deriving DecidableEq, Repr

/-- A copy of the panel record in a flash sector (R724), 256 bytes. -/
structure RecordCopy where
  bytes : List Byte
  deriving DecidableEq, Repr

/-- PANEL_STATE is worked out from these (R727 to R732). -/
structure Panel where
  drawing : Option Nat := none          -- phase 1 to 3 of the draw in progress
  drawSeq : Word := 0                   -- SEQUENCE of the record being drawn
  drawDue : Bool := false
  held : Bool := false
  failed : Bool := false                -- PANEL_FAIL (R739)
  barDrawn : Bool := false              -- the commit bar on the panel is complete (R728)
  shownSeq : Word := 0                  -- record the image shows
  shownHold : Bool := false             -- TEMP HOLD on line 4
  temp : Int := 200                     -- PANEL_TEMP, 0.125 °C
  tempHold : Bool := false              -- a crossing of 45 °C rising or 5 °C falling not yet committed (R731)
  userText : List Byte := []            -- USER_TEXT as submitted by PANEL_UPDATE
  drawLines : List (List Char) := []    -- the four lines of the draw in progress
  shownLines : List (List Char) := []   -- the four lines of the image (pixel rows 0 to 95)
  redrawPending : Bool := false         -- R729
  deriving DecidableEq, Repr

/-- The management core and what it keeps in flash and in the card's sensors. (DESIGN CHOICE, entry 9). -/
structure Mgmt where
  log : List LogEntry := []             -- oldest first, at most 2,048
  logNext : Word := 0                   -- SEQUENCE of the next entry
  sincePowerup : Word := 0
  powerups : Word := 0
  returnCode : BitVec 40 := 0xA5
  prevReturnCode : BitVec 40 := 0xA5
  sectorA : Option RecordCopy := none
  sectorB : Option RecordCopy := none
  panel : Panel := {}
  throttle : Nat := 0
  critical : Bool := false
  reason : BitVec 4 := 0
  dieTemp : Int := 0
  hbmTemp : Int := 0
  stackTemps : List Int := []
  vcoreMv : Nat := 0
  powers : List Nat := []               -- the last 100 power samples (R661: averaged over 100 ms)
  calibrating : Bool := false
  erasing : Bool := false
  scrubPos : SMap Nat := []             -- next line of each stack
  cmScrubPos : SMap Nat := []           -- next line of each slice
  identWait : Option Word := none       -- REQ_ID of the REMOTE_IDENT in progress
  identNext : Word := 0                 -- REQ_ID of the next one (DESIGN CHOICE, entry 10)
  deriving DecidableEq, Repr

/-- RING_STATE (R707). -/
inductive WakeRing where
  | off | recording | postfill | frozen
  deriving DecidableEq, Repr

/-- A channel sample with its flags (R671, R693); `none` is *not valid*. -/
structure Smp where
  x : Option Int
  ovr : Bool := false
  settling : Bool := false
  deriving DecidableEq, Repr

/-- The decimation chain of one channel (R673). -/
structure Decimator where
  acc : List Int := [0, 0, 0, 0, 0]    -- integrators of the CIC filter, at 3.072 MHz
  comb : List Int := [0, 0, 0, 0, 0]   -- its combs' last inputs, at 64 kHz
  mid : List Int := []                 -- newest first: inputs of the first half-band stage, at 64 kHz
  low : List Int := []                 -- newest first: inputs of the second half-band stage, at 32 kHz
  flat : Int := 0                      -- last output before the high-pass filter
  high : Int := 0                      -- last output of the high-pass filter
  deriving DecidableEq, Repr

/-- One Bittern channel (R664 to R679, R688 to R690). -/
structure Chan where
  chain : Decimator := {}
  n : Nat := 0                    -- output samples since the channel was enabled
  hist : List (Option Int) := []  -- newest first: inputs of the matching filter
  ovrLeft : Nat := 0              -- samples that still carry OVR
  settleLeft : Nat := 0           -- samples that still carry SETTLING
  biasFault : Bool := false
  out : List Smp := []            -- channel samples not yet in a ring block, oldest first
  past : List (Option Int) := []  -- newest first: channel samples for the beam delays
  coefs : SMap (BitVec 16) := []  -- matching taps that differ from reset
  second : List Int := []         -- valid channel samples since the last LEVEL update
  level : Byte := 0xFF
  deriving DecidableEq, Repr

/-- The Bittern monitor, on standby power. -/
structure Bittern where
  chans : Vector Chan 4 := Vector.replicate 4 {}
  weights : SMap (BitVec 16) := []   -- W_b,c at 4b + c
  pdmStuck : Bool := false
  frame : List (Option Int) := []    -- detector samples of the running 256-sample frame
  block : List (Option Int) := []    -- and of the running 1,024-sample block
  bandHold : SMap Nat := []
  toneHold : SMap Nat := []
  ovr : BitVec 4 := 0
  ovrWakes : BitVec 4 := 0           -- OVR wakes of the running instant, not yet taken (R685, R687)
  wakePending : Bool := false
  wakeCode : Byte := 0
  ring : SMap (BitVec 192) := []     -- blocks of 24 B by index
  ringState : WakeRing := .off
  ringWrite : Nat := 0               -- index of the next block
  ringCount : Nat := 0
  deriving DecidableEq, Repr

/-- A mailbox command in progress (R130). -/
structure Mailbox where
  busy : Bool := false
  done : Bool := false
  result : Byte := 0
  detail : BitVec 16 := 0
  data : List Byte := []
  deriving DecidableEq, Repr

/-- Why the machine stops.  No meaning raises one: the specification gives every command an effect. -/
inductive Fault where
  /-- Raised by nobody; kept so that the type of faults is not empty.  Safe. -/
  | none
  deriving DecidableEq, Repr

/-- Why a command has no meaning. -/
inductive Refusal where
  /-- A command that the model does not give a meaning yet, by its mnemonic.  Safe: nothing is claimed of it. -/
  | notModelled (mnemonic : String)
  deriving DecidableEq, Repr

/-- The whole device and the commands that wait for it. -/
structure State where
  pending : List Instr
  power : Power
  units : Units
  pages : Vector Page pageCount
  fns : Vector PcieFn 4
  mode : BitVec 1                     -- 0 NIGHT, 1 DAY
  pfRequest : Option Bool             -- a Photo-finish request not yet in effect (R539)
  pfActive : Bool                     -- PHOTO_FINISH_ACTIVE
  cores : Vector Core 16              -- by chip logical id
  mesh : List Msg                     -- messages on their way (R180)
  chains : List Chain
  chainAdds : List ChainAdd
  ctxs : SMap Ctx                     -- flight contexts held, by tag
  rings : Vector Ring 64              -- ring r of partition p at 16p + r
  rrNext : Vector Nat 4               -- round robin position of each partition (R595)
  drain : Option Drain
  queuedReset : Option Nat            -- the partition whose reset request waits for a repartition (R622)
  repart : Option (Nat × Bool × Bool) -- REPARTITION in progress: tag, new MODE is DAY, ZERO_HBM
  hbm : Memory                        -- stack k, local address a, at k × 2^36 + a
  hbmFlaws : SMap Bool                -- errors no read has met, by line of `hbm`: uncorrectable or not (R628, R629)
  cmFlaws : SMap Bool                 -- the same of control-memory lines (R641)
  cm : Memory                         -- control memory, home copies, by chip address
  dir : SMap DirLine                  -- directory, by line number
  fencedAgents : BitVec 19
  ports : Vector Port 8
  stork : Stork
  relay : SMap RGroup                 -- groups not FREE, or with early messages, by number
  gun : Gun
  pacer : Pacer
  recorder : Recorder
  mgmt : Mgmt
  mailbox : Mailbox
  bittern : Bittern
  out : List Output
  edges : List Nat                    -- vectors, as 64 fn + v, a source has sent a message on in this SCLK cycle (R125)
  granted : List Nat                  -- lines on which a GETM or ATOMIC has been granted in this cycle (R646)
  /-- The model's own field: how many free values have been drawn (DESIGN CHOICE, entry 7). -/
  freeIdx : Nat
  deriving DecidableEq, Repr

/-- The device right after standby power-up (R608, R609): every page at its reset value, every memory empty, main
power off and PERST# asserted (DESIGN CHOICE, entries 2, 3, 4 and 9; PRESUMED, entry 6). -/
def State.reset : State where
  pending := []
  power := {}
  units := {}
  pages := Vector.replicate pageCount {}
  fns := Vector.replicate 4 {}
  mode := 0
  pfRequest := none
  pfActive := false
  cores := Vector.replicate 16 {}
  mesh := []
  chains := []
  chainAdds := []
  ctxs := []
  rings := Vector.replicate 64 {}
  rrNext := Vector.replicate 4 0
  drain := none
  queuedReset := none
  repart := none
  hbm := {}
  hbmFlaws := []
  cmFlaws := []
  cm := {}
  dir := []
  fencedAgents := 0
  ports := Vector.replicate 8 {}
  stork := {}
  relay := []
  gun := {}
  pacer := {}
  recorder := {}
  mgmt := {}
  mailbox := {}
  bittern := {}
  out := []
  edges := []
  granted := []
  freeIdx := 0

end Sys2Proof.Machine
end

