-- ==== Sys2Proof/Machine/Bits.lean ====
section
/-! DEFINITION. Bit fields, bytes, sparse maps, byte memories and cyclic redundancy checks. -/

namespace Sys2Proof.Machine

open Sys2Proof

/-! ## Bit fields and signed readings -/

/-- Bits `[hi:lo]` of a natural. -/
def bitsOf (n hi lo : Nat) : Nat := (n >>> lo) % 2 ^ (hi + 1 - lo)

/-- Bits `[hi:lo]` of a bit vector, as a natural. -/
def fld {k : Nat} (w : BitVec k) (hi lo : Nat) : Nat := bitsOf w.toNat hi lo

/-- Two's-complement reading of the low `w` bits. -/
def sgn (w n : Nat) : Int :=
  let m := n % 2 ^ w
  if m < 2 ^ (w - 1) then (m : Int) else (m : Int) - (2 ^ w : Nat)

/-- The `w`-bit two's-complement pattern of an integer. -/
def wrap (w : Nat) (i : Int) : Nat := (i % ((2 ^ w : Nat) : Int)).toNat

/-- Replace bits `[hi:lo]` of a natural below 2^32. -/
def putBits (n hi lo v : Nat) : Nat :=
  let m := 2 ^ (hi + 1 - lo)
  n - (bitsOf n hi lo) * 2 ^ lo + (v % m) * 2 ^ lo

def bit01 (b : Bool) : Nat := if b then 1 else 0

/-- Number of one bits among the low `k`. -/
def popCount (n : Nat) : Nat → Nat
  | 0 => 0
  | k + 1 => popCount n k + bit01 (n.testBit k)

/-- The positions of the one bits among the low `k`, ascending. -/
def bitList (n k : Nat) : List Nat := (List.range k).filter (fun i => n.testBit i)

/-! ## Bytes (little-endian, R9) -/

/-- The low `n` bytes of a natural, byte 0 first. -/
def leBytes : Nat → Nat → List Byte
  | 0, _ => []
  | n + 1, v => BitVec.ofNat 8 v :: leBytes n (v >>> 8)

/-- The natural a list of bytes spells, byte 0 lowest. -/
def leNat : List Byte → Nat
  | [] => 0
  | b :: bs => b.toNat + 256 * leNat bs

/-- `n` bytes from position `i`, zeros past the end. -/
def sliceB (bs : List Byte) (i n : Nat) : List Byte :=
  let t := (bs.drop i).take n
  t ++ List.replicate (n - t.length) 0

/-- The little-endian field of `n` bytes at byte `i`. -/
def leField (bs : List Byte) (i n : Nat) : Nat := leNat (sliceB bs i n)

/-! ## Sparse maps: sorted association lists -/

variable {α : Type}

/-- The value of a key, if listed. -/
def mget : SMap α → Nat → Option α
  | [], _ => none
  | (k, v) :: m, i => if i = k then some v else if i < k then none else mget m i

/-- Set a key. -/
def mput : SMap α → Nat → α → SMap α
  | [], i, x => [(i, x)]
  | (k, v) :: m, i, x =>
    if i = k then (i, x) :: m else if i < k then (i, x) :: (k, v) :: m else (k, v) :: mput m i x

/-- Remove a key. -/
def mdel : SMap α → Nat → SMap α
  | [], _ => []
  | (k, v) :: m, i => if i = k then m else if i < k then (k, v) :: m else (k, v) :: mdel m i

/-- The value of a key, or the value an unlisted key reads as. -/
def mgetD (m : SMap α) (d : α) (i : Nat) : α := (mget m i).getD d

/-- Set a key, removing the entry when the value is the one an unlisted key reads as. -/
def mputD [DecidableEq α] (m : SMap α) (d : α) (i : Nat) (x : α) : SMap α :=
  if x = d then mdel m i else mput m i x

/-- Change the value of a key, where unlisted keys read as `d`. -/
def mmodD [DecidableEq α] (m : SMap α) (d : α) (i : Nat) (f : α → α) : SMap α := mputD m d i (f (mgetD m d i))

/-- Keys strictly rising. -/
def mwf : SMap α → Bool
  | [] => true
  | [_] => true
  | a :: b :: m => decide (a.1 < b.1) && mwf (b :: m)

/-! ## Byte memories -/

/-- What a byte no write has set reads as: 0 (R609 for memories a reset clears; DESIGN CHOICE for HBM after power-up,
entry 3). -/
def Memory.empty : Byte := 0

def Memory.byte (m : Memory) (a : Nat) : Byte := mgetD m.cells Memory.empty a

def Memory.setByte (m : Memory) (a : Nat) (b : Byte) : Memory :=
  { m with cells := mputD m.cells Memory.empty a b }

/-- `n` bytes from address `a`. -/
def Memory.read (m : Memory) (a n : Nat) : List Byte := (List.range n).map (fun i => m.byte (a + i))

/-- Store bytes from address `a` upward. -/
def Memory.write (m : Memory) (a : Nat) : List Byte → Memory
  | [] => m
  | b :: bs => (m.setByte a b).write (a + 1) bs

/-- The little-endian natural of `n` bytes. -/
def Memory.readLE (m : Memory) (a n : Nat) : Nat := leNat (m.read a n)

def Memory.writeLE (m : Memory) (a n v : Nat) : Memory := m.write a (leBytes n v)

def nInsert : List Nat → Nat → List Nat
  | [], i => [i]
  | k :: l, i => if i = k then k :: l else if i < k then i :: k :: l else k :: nInsert l i

def nErase : List Nat → Nat → List Nat
  | [], _ => []
  | k :: l, i => if i = k then l else if i < k then k :: l else k :: nErase l i

/-- Set or clear the poison mark of a granule. -/
def Memory.setMark (m : Memory) (g : Nat) (b : Bool) : Memory :=
  { m with marks := if b then nInsert m.marks g else nErase m.marks g }

def Memory.marked (m : Memory) (g : Nat) : Bool := m.marks.contains g

/-- Any poison mark among the granules of size `sz` that bytes `a` to `a + n - 1` touch. -/
def Memory.poisonedAt (m : Memory) (sz a n : Nat) : Bool :=
  n != 0 && m.marks.any (fun g => a / sz ≤ g && g ≤ (a + n - 1) / sz)

/-- Store bytes and settle the marks of the granules of size `sz` they touch: a granule written whole takes the mark
`poison` (R167, R631); one written in part keeps a mark it had and takes a new one from poisoned data. -/
def Memory.store (m : Memory) (sz a : Nat) (bs : List Byte) (poison : Bool) : Memory :=
  let n := bs.length
  if n = 0 then m else
    let g0 := a / sz
    let g1 := (a + n - 1) / sz
    let m' := m.write a bs
    (List.range (g1 + 1 - g0)).foldl (fun m i =>
      let g := g0 + i
      let whole := a ≤ g * sz && g * sz + sz ≤ a + n
      if whole then m.setMark g poison else if poison then m.setMark g true else m) m'

/-- Marks strictly rising. -/
def nwf : List Nat → Bool
  | [] => true
  | [_] => true
  | a :: b :: l => decide (a < b) && nwf (b :: l)

/-- The canonical form of a memory: addresses strictly rising, no listed byte equal to what an unlisted one reads
as, marks strictly rising. -/
def Memory.wf (m : Memory) : Bool :=
  mwf m.cells && m.cells.all (fun c => c.2 != Memory.empty) && nwf m.marks

/-! ## Cyclic redundancy checks -/

/-- One byte of a reflected CRC with polynomial `poly` (bits already reflected). -/
def crcBits (poly : Nat) : Nat → Nat → Nat
  | 0, c => c
  | n + 1, c => crcBits poly n (if c % 2 = 1 then (c >>> 1) ^^^ poly else c >>> 1)

/-- A reflected CRC: initial value and final inversion `init`. -/
def crcReflected (poly init : Nat) (bs : List Byte) : Nat :=
  (bs.foldl (fun c b => crcBits poly 8 (c ^^^ b.toNat)) init) ^^^ init

/-- CRC-32C (Castagnoli): R27, R335, R724. -/
def crc32c (bs : List Byte) : Nat := crcReflected 0x82F63B78 0xFFFFFFFF bs

/-- One byte of an unreflected 64-bit CRC. -/
def crc64Bits : Nat → Nat → Nat
  | 0, c => c
  | n + 1, c => crc64Bits n (if c.testBit 63 then ((c <<< 1) % 2 ^ 64) ^^^ 0x42F0E1EBA9EA3693 else (c <<< 1) % 2 ^ 64)

/-- CRC-64-ECMA from a running value (R561). -/
def crc64Ecma (init : Nat) (bs : List Byte) : Nat :=
  bs.foldl (fun c b => crc64Bits 8 (c ^^^ (b.toNat <<< 56))) init

def crc8Bits : Nat → Nat → Nat
  | 0, c => c
  | n + 1, c => crc8Bits n (if c.testBit 7 then ((c <<< 1) % 256) ^^^ 0x07 else (c <<< 1) % 256)

/-- The SMBus packet error code: CRC-8 with polynomial x^8 + x^2 + x + 1 (R736). -/
def crc8 (bs : List Byte) : Nat := bs.foldl (fun c b => crc8Bits 8 (c ^^^ b.toNat)) 0

/-- Stable insertion of an entry. -/
def insertBy {α : Type} (before : α → α → Bool) (x : α) : List α → List α
  | [] => [x]
  | y :: l => if before x y then x :: y :: l else y :: insertBy before x l

def sortBy {α : Type} (before : α → α → Bool) (l : List α) : List α := l.reverse.foldl (fun acc x =>
  insertBy (fun a b => !before b a) x acc) []

end Sys2Proof.Machine
end

