-- ==== Sys2Proof/Machine/Aes.lean ====
section
/-! DEFINITION. AES-256 in Galois/Counter Mode, which R464 takes from NIST SP 800-38D (PRESUMED from that standard and
FIPS 197, entry 57): blocks are lists of 16 bytes. -/

namespace Sys2Proof.Machine

open Sys2Proof

/-! ## AES-256 -/

/-- Multiplication by x in GF(2^8). -/
def xtime (a : Nat) : Nat := if 128 ≤ a then ((2 * a) % 256) ^^^ 0x1B else 2 * a

/-- Product in GF(2^8), over the low `n` bits of the second factor. -/
def gmulGo : Nat → Nat → Nat → Nat
  | 0, _, _ => 0
  | n + 1, a, b => (if b % 2 = 1 then a else 0) ^^^ gmulGo n (xtime a) (b / 2)

def gmul (a b : Nat) : Nat := gmulGo 8 a b

def gsq (a : Nat) : Nat := gmul a a

/-- The inverse a^254 in GF(2^8), 0 for 0. -/
def ginv (a : Nat) : Nat :=
  let a2 := gsq a
  let a4 := gsq a2
  let a8 := gsq a4
  let a16 := gsq a8
  let a32 := gsq a16
  let a64 := gsq a32
  let a128 := gsq a64
  gmul a2 (gmul a4 (gmul a8 (gmul a16 (gmul a32 (gmul a64 a128)))))

def rotl8 (a k : Nat) : Nat := ((a <<< k) % 256) ||| (a >>> (8 - k))

/-- SubBytes of one byte. -/
def sboxOf (a : Nat) : Nat :=
  let b := ginv a
  b ^^^ rotl8 b 1 ^^^ rotl8 b 2 ^^^ rotl8 b 3 ^^^ rotl8 b 4 ^^^ 0x63

/-- The S-box as a table. -/
def aesTable : List Nat := (List.range 256).map sboxOf

def xorL : List Nat → List Nat → List Nat
  | a :: l, b :: r => (a ^^^ b) :: xorL l r
  | _, _ => []

/-- Words `i` onward of the key schedule: `n` more words after the (reversed) list so far. -/
def expandGo (tbl : List Nat) : Nat → Nat → Nat → List (List Nat) → List (List Nat)
  | 0, _, _, acc => acc
  | n + 1, i, rcon, acc =>
    let prev := acc.headD []
    let back := acc.getD 7 []
    let sub := fun (w : List Nat) => w.map (fun x => tbl.getD x 0)
    let t :=
      if i % 8 = 0 then xorL (sub (prev.drop 1 ++ prev.take 1)) [rcon, 0, 0, 0]
      else if i % 8 = 4 then sub prev
      else prev
    expandGo tbl n (i + 1) (if i % 8 = 0 then xtime rcon else rcon) (xorL back t :: acc)

/-- The 15 round keys of a 32-byte key. -/
def roundKeys (tbl : List Nat) (key : List Nat) : List (List Nat) :=
  let w0 := ((List.range 8).map (fun i => (key.drop (4 * i)).take 4)).reverse
  let ws := (expandGo tbl 52 8 1 w0).reverse
  (List.range 15).map (fun i => ((ws.drop (4 * i)).take 4).flatten)

/-- SubBytes and ShiftRows. -/
def subShift (tbl st : List Nat) : List Nat :=
  (List.range 16).map (fun i => tbl.getD (st.getD ((i + 4 * (i % 4)) % 16) 0) 0)

def mixCols (st : List Nat) : List Nat :=
  (List.range 16).map (fun i =>
    let b := fun (k : Nat) => st.getD (i / 4 * 4 + (i + k) % 4) 0
    xtime (b 0) ^^^ (xtime (b 1) ^^^ b 1) ^^^ b 2 ^^^ b 3)

/-- Encrypt one block under expanded keys. -/
def aesBlock (tbl : List Nat) (keys : List (List Nat)) (blk : List Nat) : List Nat :=
  let mid := (keys.drop 1).dropLast.foldl (fun st k => xorL (mixCols (subShift tbl st)) k) (xorL blk (keys.headD []))
  xorL (subShift tbl mid) (keys.getLastD [])

/-! ## GCM -/

/-- The natural a big-endian byte list spells. -/
def beNum (l : List Nat) : Nat := l.foldl (fun n b => 256 * n + b) 0

/-- The big-endian bytes of a natural. -/
def beList : Nat → Nat → List Nat
  | 0, _ => []
  | n + 1, v => beList n (v / 256) ++ [v % 256]

/-- Product in GF(2^128) with the bit order of GCM; bit 127 of the naturals is the first bit. -/
def ghashMul : Nat → Nat → Nat → Nat → Nat
  | 0, z, _, _ => z
  | n + 1, z, v, x =>
    let z' := if x.testBit n then z ^^^ v else z
    ghashMul n z' (if v % 2 = 1 then (v / 2) ^^^ (0xE1 * 2 ^ 120) else v / 2) x

/-- Zero-padded 16-byte blocks of a byte list. -/
def padBlocks : Nat → List Nat → List (List Nat)
  | 0, _ => []
  | n + 1, l => if l.isEmpty then [] else (l.take 16 ++ List.replicate (16 - l.length) 0) :: padBlocks n (l.drop 16)

def blocksOf (l : List Nat) : List (List Nat) := padBlocks (l.length / 16 + 1) l

def ghash (h : Nat) (blocks : List (List Nat)) : Nat :=
  blocks.foldl (fun y b => ghashMul 128 0 h (y ^^^ beNum b)) 0

/-- The key stream applied to data, from counter `c`. -/
def gctr (enc : List Nat → List Nat) (iv : List Nat) : Nat → Nat → List Nat → List Nat
  | 0, _, _ => []
  | n + 1, c, l =>
    if l.isEmpty then [] else
      xorL (l.take 16) (enc (iv ++ beList 4 (c % 2 ^ 32))) ++ gctr enc iv n (c + 1) (l.drop 16)

/-- The cipher of a key. -/
def aesEnc (key : BitVec 256) : List Nat → List Nat :=
  let tbl := aesTable
  aesBlock tbl (roundKeys tbl ((leBytes 32 key.toNat).map (·.toNat)))

/-- The tag over additional data and ciphertext. -/
def gcmTag (enc : List Nat → List Nat) (iv aad ct : List Nat) : List Nat :=
  let h := beNum (enc (List.replicate 16 0))
  let s := ghash h (blocksOf aad ++ blocksOf ct ++ [beList 8 (8 * aad.length) ++ beList 8 (8 * ct.length)])
  xorL (beList 16 s) (enc (iv ++ [0, 0, 0, 1]))

def nats (l : List Byte) : List Nat := l.map (·.toNat)
def bytesOf (l : List Nat) : List Byte := l.map (BitVec.ofNat 8)

/-- Seal: ciphertext and tag (R464). -/
def gcmSeal (key : BitVec 256) (iv aad pt : List Byte) : List Byte × List Byte :=
  let enc := aesEnc key
  let ct := gctr enc (nats iv) (pt.length / 16 + 1) 2 (nats pt)
  (bytesOf ct, bytesOf (gcmTag enc (nats iv) (nats aad) ct))

/-- Open: the plaintext, if the tag verifies. -/
def gcmOpen (key : BitVec 256) (iv aad ct tag : List Byte) : Option (List Byte) :=
  let enc := aesEnc key
  if bytesOf (gcmTag enc (nats iv) (nats aad) (nats ct)) = tag then
    some (bytesOf (gctr enc (nats iv) (ct.length / 16 + 1) 2 (nats ct)))
  else none

end Sys2Proof.Machine
end

