-- ==== Sys2Proof/Machine/Numbers.lean ====
section
/-! DEFINITION. The number formats of chapter 01: log codes and their images, IEEE formats, E56, exact dyadic
values, and every rounding of the chapter. -/

namespace Sys2Proof.Machine

open Sys2Proof

/-! ## The image tables -/

/-- Entries 0 to 31 of m16 (R25). -/
def m16Part0 : List Nat :=
  [0x800000, 0x8058D8, 0x80B1ED, 0x810B41, 0x8164D2, 0x81BEA1, 0x8218AF, 0x8272FC,
   0x82CD87, 0x832850, 0x838359, 0x83DEA1, 0x843A29, 0x8495F0, 0x84F1F6, 0x854E3D,
   0x85AAC3, 0x86078A, 0x866491, 0x86C1D9, 0x871F62, 0x877D2B, 0x87DB35, 0x883981,
   0x88980F, 0x88F6DD, 0x8955EE, 0x89B541, 0x8A14D5, 0x8A74AD, 0x8AD4C6, 0x8B3523]

/-- Entries 32 to 63 of m16 (R25). -/
def m16Part1 : List Nat :=
  [0x8B95C2, 0x8BF6A4, 0x8C57CA, 0x8CB933, 0x8D1ADF, 0x8D7CD0, 0x8DDF04, 0x8E417D,
   0x8EA43A, 0x8F073B, 0x8F6A81, 0x8FCE0C, 0x9031DC, 0x9095F2, 0x90FA4D, 0x915EED,
   0x91C3D3, 0x922900, 0x928E72, 0x92F42C, 0x935A2B, 0x93C072, 0x9426FF, 0x948DD4,
   0x94F4F0, 0x955C53, 0x95C3FF, 0x962BF2, 0x96942D, 0x96FCB1, 0x97657D, 0x97CE92]

/-- Entries 64 to 95 of m16 (R25). -/
def m16Part2 : List Nat :=
  [0x9837F0, 0x98A197, 0x990B88, 0x9975C2, 0x99E046, 0x9A4B13, 0x9AB62B, 0x9B218D,
   0x9B8D3A, 0x9BF931, 0x9C6573, 0x9CD201, 0x9D3EDA, 0x9DABFE, 0x9E196E, 0x9E872A,
   0x9EF532, 0x9F6387, 0x9FD228, 0xA04116, 0xA0B051, 0xA11FD9, 0xA18FAF, 0xA1FFD2,
   0xA27043, 0xA2E102, 0xA3520F, 0xA3C36B, 0xA43516, 0xA4A70F, 0xA51958, 0xA58BEF]

/-- Entries 96 to 127 of m16 (R25). -/
def m16Part3 : List Nat :=
  [0xA5FED7, 0xA6720E, 0xA6E595, 0xA7596C, 0xA7CD94, 0xA8420C, 0xA8B6D5, 0xA92BEF,
   0xA9A15B, 0xAA1718, 0xAA8D26, 0xAB0387, 0xAB7A3A, 0xABF13F, 0xAC6897, 0xACE041,
   0xAD583F, 0xADD090, 0xAE4934, 0xAEC22D, 0xAF3B79, 0xAFB519, 0xB02F0E, 0xB0A957,
   0xB123F6, 0xB19EE9, 0xB21A32, 0xB295D0, 0xB311C4, 0xB38E0E, 0xB40AAF, 0xB487A6]

/-- Entries 128 to 159 of m16 (R25). -/
def m16Part4 : List Nat :=
  [0xB504F3, 0xB58298, 0xB60094, 0xB67EE7, 0xB6FD92, 0xB77C95, 0xB7FBF0, 0xB87BA3,
   0xB8FBAF, 0xB97C14, 0xB9FCD2, 0xBA7DEA, 0xBAFF5B, 0xBB8126, 0xBC034A, 0xBC85CA,
   0xBD08A4, 0xBD8BD8, 0xBE0F68, 0xBE9353, 0xBF179A, 0xBF9C3C, 0xC0213B, 0xC0A695,
   0xC12C4D, 0xC1B261, 0xC238D2, 0xC2BFA1, 0xC346CD, 0xC3CE57, 0xC4563F, 0xC4DE85]

/-- Entries 160 to 191 of m16 (R25). -/
def m16Part5 : List Nat :=
  [0xC5672A, 0xC5F02E, 0xC67991, 0xC70353, 0xC78D75, 0xC817F7, 0xC8A2D8, 0xC92E1B,
   0xC9B9BE, 0xCA45C1, 0xCAD226, 0xCB5EED, 0xCBEC15, 0xCC799F, 0xCD078C, 0xCD95DA,
   0xCE248C, 0xCEB3A1, 0xCF4319, 0xCFD2F4, 0xD06334, 0xD0F3D7, 0xD184DF, 0xD2164C,
   0xD2A81E, 0xD33A54, 0xD3CCF1, 0xD45FF3, 0xD4F35B, 0xD58729, 0xD61B5E, 0xD6AFFA]

/-- Entries 192 to 223 of m16 (R25). -/
def m16Part6 : List Nat :=
  [0xD744FD, 0xD7DA67, 0xD87039, 0xD90673, 0xD99D16, 0xDA3421, 0xDACB94, 0xDB6371,
   0xDBFBB8, 0xDC9468, 0xDD2D82, 0xDDC706, 0xDE60F5, 0xDEFB4E, 0xDF9613, 0xE03143,
   0xE0CCDF, 0xE168E7, 0xE2055B, 0xE2A23C, 0xE33F89, 0xE3DD44, 0xE47B6D, 0xE51A03,
   0xE5B907, 0xE65879, 0xE6F85B, 0xE798AB, 0xE8396A, 0xE8DA99, 0xE97C38, 0xEA1E47]

/-- Entries 224 to 255 of m16 (R25). -/
def m16Part7 : List Nat :=
  [0xEAC0C7, 0xEB63B7, 0xEC0719, 0xECAAEC, 0xED4F30, 0xEDF3E7, 0xEE9910, 0xEF3EAB,
   0xEFE4BA, 0xF08B3B, 0xF13231, 0xF1D99A, 0xF28177, 0xF329C9, 0xF3D290, 0xF47BCC,
   0xF5257D, 0xF5CFA4, 0xF67A41, 0xF72555, 0xF7D0DF, 0xF87CE1, 0xF9295A, 0xF9D64A,
   0xFA83B3, 0xFB3194, 0xFBDFED, 0xFC8EC0, 0xFD3E0C, 0xFDEDD2, 0xFE9E11, 0xFF4ECB]

/-- The image table m16 (R25, R26). -/
def m16Table : List Nat :=
  m16Part0 ++ m16Part1 ++ m16Part2 ++ m16Part3 ++ m16Part4 ++ m16Part5 ++ m16Part6 ++ m16Part7

def m16 (k : Nat) : Nat := m16Table.getD k 0

/-- The image table m8 (R35). -/
def m8Table : List Nat := [0x800000, 0x8B95C2, 0x9837F0, 0xA5FED7, 0xB504F3, 0xC5672A, 0xD744FD, 0xEAC0C7]

def m8 (k : Nat) : Nat := m8Table.getD k 0

/-! ## Exact values -/

/-- A value: not a real (NaR, NaN), an infinity, or the dyadic number `m * 2 ^ e`. -/
inductive Val where
  | nan
  | inf (neg : Bool)
  | num (m : Int) (e : Int)
  deriving DecidableEq, Repr

/-- `m * 2 ^ k` rounded toward minus infinity when `k` is negative. -/
def scaleI (m : Int) (k : Int) : Int :=
  match k with
  | .ofNat n => m * ((2 ^ n : Nat) : Int)
  | .negSucc n => m / ((2 ^ (n + 1) : Nat) : Int)

/-- `m * 2 ^ k` rounded to the nearest integer, ties to even. -/
def scaleRne (m : Int) (k : Int) : Int :=
  match k with
  | .ofNat n => m * ((2 ^ n : Nat) : Int)
  | .negSucc n =>
    let d : Int := ((2 ^ (n + 1) : Nat) : Int)
    let q := m / d
    let r := m % d
    if 2 * r < d then q else if d < 2 * r then q + 1 else if q % 2 = 0 then q else q + 1

/-- Sum of two dyadic numbers. -/
def dyAdd (m₁ e₁ m₂ e₂ : Int) : Int × Int :=
  let e := min e₁ e₂
  (scaleI m₁ (e₁ - e) + scaleI m₂ (e₂ - e), e)

/-- Order of two dyadic numbers. -/
def dyLt (m₁ e₁ m₂ e₂ : Int) : Bool :=
  let e := min e₁ e₂
  scaleI m₁ (e₁ - e) < scaleI m₂ (e₂ - e)

def dyEq (m₁ e₁ m₂ e₂ : Int) : Bool :=
  let e := min e₁ e₂
  scaleI m₁ (e₁ - e) = scaleI m₂ (e₂ - e)

/-- Order of two values; false when either is not a real. -/
def Val.lt : Val → Val → Bool
  | .nan, _ | _, .nan => false
  | .inf n, .inf m => n && !m
  | .inf n, .num _ _ => n
  | .num _ _, .inf n => !n
  | .num m₁ e₁, .num m₂ e₂ => dyLt m₁ e₁ m₂ e₂

def Val.eq : Val → Val → Bool
  | .nan, _ | _, .nan => false
  | .inf n, .inf m => n = m
  | .inf _, .num _ _ | .num _ _, .inf _ => false
  | .num m₁ e₁, .num m₂ e₂ => dyEq m₁ e₁ m₂ e₂

def Val.isNan : Val → Bool
  | .nan => true
  | _ => false

def Val.isZero : Val → Bool
  | .num m _ => m = 0
  | _ => false

def Val.neg : Val → Val
  | .nan => .nan
  | .inf n => .inf (!n)
  | .num m e => .num (-m) e

def Val.abs : Val → Val
  | .nan => .nan
  | .inf _ => .inf false
  | .num m e => .num m.natAbs e

/-- IEEE addition of exact values; infinities of opposite sign give NaN (R61). -/
def Val.add : Val → Val → Val
  | .nan, _ | _, .nan => .nan
  | .inf n, .inf m => if n = m then .inf n else .nan
  | .inf n, .num _ _ | .num _ _, .inf n => .inf n
  | .num m₁ e₁, .num m₂ e₂ => let p := dyAdd m₁ e₁ m₂ e₂; .num p.1 p.2

def Val.sub (a b : Val) : Val := a.add b.neg

/-- IEEE multiplication of exact values; zero times an infinity gives NaN (R61). -/
def Val.mul : Val → Val → Val
  | .nan, _ | _, .nan => .nan
  | .inf n, .inf m => .inf (n != m)
  | .inf n, .num m _ | .num m _, .inf n => if m = 0 then .nan else .inf (n != decide (m < 0))
  | .num m₁ e₁, .num m₂ e₂ => .num (m₁ * m₂) (e₁ + e₂)

/-! ## Results of a conversion -/

/-- A conversion's pattern and the events it counts (R59, R60). -/
structure Conv where
  bits : Nat
  ovf : Bool := false
  unf : Bool := false
  deriving DecidableEq, Repr

/-! ## Log codes -/

/-- Number of table entries not above `x` when scaled by `2 ^ sh`. -/
def tblRank (tbl : List Nat) (sh x : Nat) : Nat := (tbl.filter (fun t => t <<< sh ≤ x)).length

/-- The magnitude code nearest to the positive dyadic `a * 2 ^ e`, ties to even (R58): a table of `n` steps an octave,
code `bias` at 1.0 and `maxc` the largest code; with the events of R59. -/
def encLogMag (tbl : List Nat) (n bias maxc : Nat) (a : Nat) (e : Int) : Conv :=
  if a = 0 then ⟨0, false, false⟩ else
    let l₀ := Nat.log2 a
    let o : Int := l₀ + e
    let x := if l₀ < 24 then a <<< (24 - l₀) else a
    let l := if l₀ < 24 then 24 else l₀
    let sh := l - 23
    let k := tblRank tbl sh x - 1
    let lo := (tbl.getD k 0) <<< sh
    let hi := (if k + 1 < n then tbl.getD (k + 1) 0 else 2 ^ 24) <<< sh
    let c : Int := bias + n * o + k
    if c ≤ 0 then
      -- between code 0 (zero) and code 1: the nearer of zero and the smallest image, zero at a tie
      let d₁ : Int := 1 - bias
      let small : Int := tbl.getD (d₁ % n).toNat 0
      if dyLt small (d₁ / n - 23) (2 * a : Nat) e then ⟨1, false, false⟩ else ⟨0, false, true⟩
    else if (maxc : Int) ≤ c then ⟨maxc, (maxc : Int) < c || lo < x, false⟩
    else
      let dlo := x - lo
      let dhi := hi - x
      let up := dhi < dlo || (dhi = dlo && c % 2 = 1)
      ⟨(if up then c + 1 else c).toNat, false, false⟩

/-- A signed log code: the sign bit stands above the magnitude code; zero is positive (R56). -/
def withSign (sb : Nat) (neg : Bool) (c : Conv) : Conv :=
  if c.bits = 0 then c else { c with bits := if neg then c.bits + 2 ^ sb else c.bits }

/-- Conversion to L16 (R57 to R59). -/
def encL16 : Val → Conv
  | .nan | .inf _ => ⟨0x8000, false, false⟩
  | .num m e => withSign 15 (m < 0) (encLogMag m16Table 256 16384 32767 m.natAbs e)

/-- Conversion to L8 with scale `s` (R57 to R59). -/
def encL8 (s : Int) : Val → Conv
  | .nan | .inf _ => ⟨0x80, false, false⟩
  | .num m e => withSign 7 (m < 0) (encLogMag m8Table 8 128 127 m.natAbs (e - s))

/-- The image of the log distance `d`, in steps of 1/256 octave (R24, R29). -/
def img16 (neg : Bool) (d : Int) : Val :=
  let e := d / 256
  let k := (d % 256).toNat
  .num (if neg then -(m16 k : Int) else (m16 k : Int)) (e - 23)

/-- The value of an L16 word (R22 to R24). -/
def valL16 (w : Nat) : Val :=
  let neg := w.testBit 15
  let c : Nat := w % 2 ^ 15
  if c = 0 then (if neg then .nan else .num 0 0) else img16 neg ((c : Int) - 16384)

/-- The value of an L8 word of scale `s` (R32 to R34). -/
def valL8 (s : Int) (w : Nat) : Val :=
  let neg := w.testBit 7
  let c : Nat := w % 2 ^ 7
  if c = 0 then (if neg then .nan else .num 0 0) else
    let d : Int := (c : Int) - 128
    let k := (d % 8).toNat
    .num (if neg then -(m8 k : Int) else (m8 k : Int)) (d / 8 - 23 + s)

/-- The product of two L16 words (R29, R31). -/
def mulL16 (a b : Nat) : Val :=
  let ca : Nat := a % 2 ^ 15
  let cb : Nat := b % 2 ^ 15
  let na := a.testBit 15
  let nb := b.testBit 15
  if (ca = 0 && na) || (cb = 0 && nb) then .nan
  else if ca = 0 || cb = 0 then .num 0 0
  else img16 (na != nb) ((ca : Int) - 16384 + ((cb : Int) - 16384))

/-- Widening of an L8 word of scale `s` to an L16 word, and whether R37 counts it (R36, R37). -/
def widenL8 (s : Int) (w : Nat) : Nat × Bool :=
  let neg := w.testBit 7
  let c : Nat := w % 2 ^ 7
  if c = 0 then (if neg then 0x8000 else 0, false) else
    let c16 : Int := 16384 + 256 * s + 32 * ((c : Int) - 128)
    if c16 < 1 then (0, true)
    else if 32767 < c16 then (if neg then 0xFFFF else 0x7FFF, true)
    else (if neg then c16.toNat + 0x8000 else c16.toNat, false)

/-- The product of two L8 words of scale `s` in the log domain: the R29 product of the words widened by R36 and R37
(DEDUCED, entry 24). -/
def mulL8 (s : Int) (a b : Nat) : Val := mulL16 (widenL8 s a).1 (widenL8 s b).1

/-! ## IEEE formats -/

/-- An IEEE 754 binary format by the widths of its fields. -/
structure FloatFmt where
  eb : Nat
  mb : Nat
  deriving DecidableEq, Repr

def binary32 : FloatFmt := ⟨8, 23⟩
def bfloat16 : FloatFmt := ⟨8, 7⟩
def binary16 : FloatFmt := ⟨5, 10⟩

def FloatFmt.bias (f : FloatFmt) : Nat := 2 ^ (f.eb - 1) - 1
/-- The pattern of +infinity. -/
def FloatFmt.infBits (f : FloatFmt) : Nat := (2 ^ f.eb - 1) * 2 ^ f.mb
/-- The canonical NaN (R55, R57). -/
def FloatFmt.nanBits (f : FloatFmt) : Nat := f.infBits + 2 ^ (f.mb - 1)

/-- The value of an IEEE pattern; −0 reads as zero (R56). -/
def valFloat (f : FloatFmt) (w : Nat) : Val :=
  let neg := w.testBit (f.eb + f.mb)
  let ex := bitsOf w (f.eb + f.mb - 1) f.mb
  let fr := w % 2 ^ f.mb
  if ex = 2 ^ f.eb - 1 then (if fr = 0 then .inf neg else .nan)
  else
    let m : Int := if ex = 0 then fr else fr + 2 ^ f.mb
    let e : Int := (if ex = 0 then 1 else (ex : Int)) - f.bias - f.mb
    .num (if neg then -m else m) e

/-- Rounding to an IEEE format, ties to even, subnormals included; `sat` writes the largest finite value for a
result beyond it (R60), else an infinity is written (R61).  No negative zero (R56). -/
def encFloat (f : FloatFmt) (sat : Bool) : Val → Conv
  | .nan => ⟨f.nanBits, false, false⟩
  | .inf neg =>
    if sat then ⟨f.infBits - 1 + (if neg then 2 ^ (f.eb + f.mb) else 0), true, false⟩
    else ⟨f.infBits + (if neg then 2 ^ (f.eb + f.mb) else 0), false, false⟩
  | .num m e =>
    if m = 0 then ⟨0, false, false⟩ else
      let a := m.natAbs
      let emin : Int := 1 - (f.bias : Int)
      let q : Int := max ((Nat.log2 a : Int) + e) emin - f.mb
      let n := (scaleRne a (e - q)).toNat
      let b := ((q + f.mb + f.bias - 1) * (2 ^ f.mb : Nat)).toNat + n
      let s := if m < 0 then 2 ^ (f.eb + f.mb) else 0
      if f.infBits ≤ b then ⟨(if sat then f.infBits - 1 else f.infBits) + s, true, false⟩
      else if b = 0 then ⟨0, false, true⟩
      else ⟨b + s, false, false⟩

/-! ## E56 (R38 to R41) -/

def e56Nar : Nat := 2 ^ 55

/-- The value of an E56 word with scale `s` (R38, R39). -/
def valE56 (s : Int) (w : Nat) : Val :=
  if w % 2 ^ 56 = e56Nar then .nan else .num (sgn 56 w) (s - 48)

/-- Clamp at entry (R40): the clamped integer and whether it was clamped. -/
def e56Clamp (n : Int) : Int × Bool :=
  let mx : Int := 2 ^ 47 - 1
  if mx < n then (mx, true) else if n < -mx then (-mx, true) else (n, false)

/-- Entry of a value into E56 with scale `s` (R40, R62): the word, and whether it was clamped. -/
def encE56 (s : Int) : Val → Nat × Bool
  | .nan | .inf _ => (e56Nar, false)
  | .num m e =>
    let p := e56Clamp (scaleRne m (e - (s - 48)))
    (wrap 56 p.1, p.2)

/-- Sum of two E56 words; a NaR operand gives NaR (R39); of a sum outside the format the word is free. -/
def addE56 (a b : Nat) : Nat :=
  let n := sgn 56 a + sgn 56 b
  if a = e56Nar || b = e56Nar then e56Nar
  else if n ≤ -(2 ^ 55) || 2 ^ 55 ≤ n then (Config.e56Overflow n).toNat
  else wrap 56 n

/-! ## Integer square roots and quotients with a sticky bit -/

/-- Integer square root, bit by bit: `fuel` bits of the root. -/
def isqrtGo : Nat → Nat → Nat → Nat
  | 0, _, r => r
  | i + 1, n, r => let t := r + 2 ^ i; isqrtGo i n (if t * t ≤ n then t else r)

def isqrt (n : Nat) : Nat := isqrtGo (Nat.log2 n / 2 + 1) n 0

/-- The quotient `a / b` to at least `p` bits below the point, with a sticky last bit: a dyadic that rounds as the exact
quotient does at any coarser precision. -/
def divSticky (p : Nat) (a : Int) (b : Nat) : Int × Int :=
  let n := a.natAbs * 2 ^ p
  let q := 2 * (n / b) + (if n % b = 0 then 0 else 1)
  ((if a < 0 then -(q : Int) else (q : Int)), -((p : Int) + 1))

/-- The square root of the non-negative dyadic `a * 2 ^ e` to at least `p` fraction bits of the significand, with a
sticky last bit. -/
def sqrtSticky (p : Nat) (a : Nat) (e : Int) : Int × Int :=
  let a' := if e % 2 = 0 then a else 2 * a
  let e' := if e % 2 = 0 then e else e - 1
  let n := a' * 2 ^ (2 * p)
  let r := isqrt n
  (((2 * r + (if r * r = n then 0 else 1) : Nat) : Int), e' / 2 - p - 1)

end Sys2Proof.Machine
end

