-- ==== Sys2Proof/Machine/Regs.lean ====
section
/-! DEFINITION. The writable registers of every page, from the register tables of the specification: which bits a
write changes (RW), which only while the page is not locked (RWL), and the reset value. -/

namespace Sys2Proof.Machine

open Sys2Proof

/-- A register with stored fields: masks of its RW and its RWL bits, and its reset value. -/
structure RegRow where
  off : Nat
  rw : Nat
  rwl : Nat
  rst : Nat
  deriving DecidableEq, Repr

/-- Global (R128). -/
def regs0001 : List RegRow :=
  [⟨0x040, 0x0, 0xFF, 0x0⟩,
   ⟨0x068, 0x1, 0x0, 0x0⟩]

/-- Clock and reset (R86). -/
def regs0002 : List RegRow :=
  [⟨0x044, 0x0, 0x1, 0x1⟩]

/-- Management mailbox (R129). -/
def regs0003 : List RegRow :=
  [⟨0x040, 0xFF, 0x0, 0x0⟩,
   ⟨0x044, 0xFFFFFFFF, 0x0, 0x0⟩,
   ⟨0x048, 0xFFFFFFFF, 0x0, 0x0⟩]

/-- Determinism (R572). -/
def regs0004 : List RegRow :=
  [⟨0x048, 0xFFFFFF03, 0x0, 0x640A00⟩,
   ⟨0x060, 0x0, 0xFFFFFFFF, 0x0⟩,
   ⟨0x064, 0x0, 0xFFFFFFFF, 0x0⟩,
   ⟨0x068, 0x0, 0xFFFFFFFF, 0x0⟩,
   ⟨0x06C, 0x0, 0xFFFFFFFF, 0x0⟩,
   ⟨0x070, 0x0, 0xFFFFFFFF, 0x0⟩,
   ⟨0x074, 0x0, 0xFFFFFFFF, 0x0⟩,
   ⟨0x078, 0x0, 0xFFFFFFFF, 0x0⟩,
   ⟨0x07C, 0x0, 0xFFFFFFFF, 0x0⟩,
   ⟨0x080, 0x3FF0000, 0x70, 0x800000⟩,
   ⟨0x084, 0x3FF, 0x0, 0x40⟩,
   ⟨0x0C0, 0x3, 0x0, 0x0⟩,
   ⟨0x0C8, 0xFFE00000, 0x0, 0x0⟩,
   ⟨0x0CC, 0xFFFF, 0x0, 0x0⟩,
   ⟨0x0D0, 0xFFF, 0x0, 0x0⟩]

/-- Core (R190). -/
def regs0101 : List RegRow :=
  [⟨0x048, 0x1FFF8, 0x0, 0x0⟩,
   ⟨0x060, 0xFFFFFF, 0x0, 0x10000⟩,
   ⟨0x064, 0x0, 0xFF, 0x0⟩,
   ⟨0x068, 0x0, 0xFF, 0x0⟩,
   ⟨0x06C, 0x3FFF, 0x0, 0x0⟩,
   ⟨0x074, 0x3FFF, 0x0, 0x0⟩,
   ⟨0x078, 0xFFFFFFFF, 0x0, 0x0⟩,
   ⟨0x07C, 0xFFFFFFFF, 0x0, 0x0⟩]

/-- MAC and accumulation (R246). -/
def regs0102 : List RegRow :=
  [⟨0x048, 0x1F, 0x0, 0x0⟩,
   ⟨0x060, 0xFFFF007E, 0x1, 0x0⟩]

/-- Egret (R280). -/
def regs0103 : List RegRow :=
  [⟨0x040, 0xFF, 0x0, 0x0⟩,
   ⟨0x04C, 0x0, 0x1, 0x1⟩,
   ⟨0x064, 0x3F00, 0x1, 0x0⟩]

/-- Sandpiper and fold (R325). -/
def regs0104 : List RegRow :=
  []

/-- Curlew packer (R375). -/
def regs0105 : List RegRow :=
  []

/-- DMA (R193). -/
def regs0106 : List RegRow :=
  []

/-- Baton port (R427). -/
def regs0201 : List RegRow :=
  [⟨0x040, 0x1, 0x1C, 0x0⟩,
   ⟨0x048, 0x0, 0xFF03, 0x0⟩,
   ⟨0x04C, 0x0, 0xFFFF, 0x88B5⟩,
   ⟨0x050, 0x0, 0xFFFFFF, 0x20000⟩,
   ⟨0x054, 0x0, 0x777, 0x536⟩,
   ⟨0x058, 0xFFF0FFF, 0x0, 0x400080⟩,
   ⟨0x05C, 0xFFF0FFF, 0x0, 0x1C00200⟩,
   ⟨0x060, 0xFFF0FFF, 0x0, 0x1C00200⟩,
   ⟨0x064, 0xFFFF, 0x0, 0xFF10⟩]

/-- Relay (R532). -/
def regs0202 : List RegRow :=
  [⟨0x040, 0x3F, 0x0, 0x0⟩,
   ⟨0x054, 0xFFFF, 0x0, 0x3E8⟩,
   ⟨0x058, 0xFFFF, 0x0, 0x7D0⟩,
   ⟨0x05C, 0xFFFF, 0x0, 0x64⟩,
   ⟨0x060, 0xF, 0x0, 0x4⟩]

/-- Link expander (R377). -/
def regs0203 : List RegRow :=
  []

/-- Stork (R480). -/
def regs0301 : List RegRow :=
  [⟨0x040, 0xFFFF, 0x0, 0x7D0⟩,
   ⟨0x044, 0xFFFF, 0x0, 0x2710⟩]

/-- Window table control (R482). -/
def regs0302 : List RegRow :=
  [⟨0x040, 0xFFFF, 0x0, 0x0⟩,
   ⟨0x068, 0xFF, 0x0, 0x0⟩]

/-- Sealing keys (R483). -/
def regs0303 : List RegRow :=
  []

/-- HBM controller (R657). -/
def regs0401 : List RegRow :=
  [⟨0x044, 0x0, 0xFFFF, 0x40⟩]

/-- Control-memory slice (R659). -/
def regs0402 : List RegRow :=
  []

/-- Host queues (R619). -/
def regs0501 : List RegRow :=
  [⟨0x04C, 0x1FFF, 0x0, 0x1F4⟩]

/-- The registers of one ring, relative to its base 0x100 + 0x40 r (R619). -/
def regsRing : List RegRow :=
  [⟨0x000, 0xFFFFF000, 0x0, 0x0⟩,
   ⟨0x004, 0xFFFFFFFF, 0x0, 0x0⟩,
   ⟨0x008, 0xFFFFF000, 0x0, 0x0⟩,
   ⟨0x00C, 0xFFFFFFFF, 0x0, 0x0⟩,
   ⟨0x010, 0x13F0FF6, 0x0, 0x0⟩,
   ⟨0x014, 0xFFFFF, 0x0, 0x0⟩]

/-- Bittern (R707). -/
def regs0601 : List RegRow :=
  [⟨0x040, 0x1F, 0x0, 0x10⟩,
   ⟨0x044, 0x3F, 0x0, 0x4⟩,
   ⟨0x048, 0xF03, 0x0, 0x0⟩,
   ⟨0x050, 0xFF, 0x0, 0x0⟩,
   ⟨0x054, 0xFF, 0x0, 0x0⟩,
   ⟨0x058, 0xFF, 0x0, 0x0⟩,
   ⟨0x05C, 0xFF, 0x0, 0x0⟩,
   ⟨0x060, 0x31, 0x0, 0x0⟩,
   ⟨0x068, 0x7, 0x0, 0x0⟩,
   ⟨0x06C, 0xFFFFFFFF, 0x0, 0x3C3C3C3C⟩,
   ⟨0x070, 0xFFFFFFFF, 0x0, 0x3C3C3C3C⟩,
   ⟨0x074, 0xFFFF, 0x0, 0x800⟩,
   ⟨0x078, 0x80FF1FFF, 0x0, 0x140000⟩,
   ⟨0x07C, 0x80FF1FFF, 0x0, 0x140000⟩,
   ⟨0x080, 0x80FF1FFF, 0x0, 0x140000⟩,
   ⟨0x084, 0x80FF1FFF, 0x0, 0x140000⟩,
   ⟨0x088, 0xFFFFF, 0x0, 0x478⟩,
   ⟨0x08C, 0x10000, 0x0, 0x0⟩,
   ⟨0x098, 0xFFF00F1, 0x80000000, 0x83E800F0⟩,
   ⟨0x0A8, 0xFFFFC, 0x0, 0x0⟩]

/-- Status panel (R738). -/
def regs0602 : List RegRow :=
  [⟨0x048, 0x3F, 0x0, 0x0⟩,
   ⟨0x060, 0xFFFFFFFF, 0x0, 0x0⟩,
   ⟨0x064, 0xFFFFFFFF, 0x0, 0x0⟩,
   ⟨0x068, 0xFFFFFFFF, 0x0, 0x0⟩,
   ⟨0x06C, 0xFFFFFFFF, 0x0, 0x0⟩,
   ⟨0x070, 0xFFFFFFFF, 0x0, 0x0⟩,
   ⟨0x074, 0xFFFFFFFF, 0x0, 0x0⟩,
   ⟨0x078, 0xFFFFFFFF, 0x0, 0x0⟩,
   ⟨0x07C, 0xFFFFFFFF, 0x0, 0x0⟩,
   ⟨0x088, 0x0, 0x3FF, 0x0⟩]

/-- Background services (R661). -/
def regs0603 : List RegRow :=
  [⟨0x040, 0x1F, 0x0, 0x0⟩,
   ⟨0x048, 0xFF, 0x0, 0x18⟩]

/-- The stored registers of a page, by block type code. -/
def regTable (ty : Nat) : List RegRow :=
  match ty with
  | 0x0001 => regs0001
  | 0x0002 => regs0002
  | 0x0003 => regs0003
  | 0x0004 => regs0004
  | 0x0101 => regs0101
  | 0x0102 => regs0102
  | 0x0103 => regs0103
  | 0x0104 => regs0104
  | 0x0105 => regs0105
  | 0x0106 => regs0106
  | 0x0201 => regs0201
  | 0x0202 => regs0202
  | 0x0203 => regs0203
  | 0x0301 => regs0301
  | 0x0302 => regs0302
  | 0x0303 => regs0303
  | 0x0401 => regs0401
  | 0x0402 => regs0402
  | 0x0501 => regs0501
  | 0x0601 => regs0601
  | 0x0602 => regs0602
  | 0x0603 => regs0603
  | _ => []

/-- The row of the register at a page offset. -/
def regRow (ty off : Nat) : Option RegRow :=
  if ty = 0x0001 ∧ 0x200 ≤ off ∧ off < 0x400 then some ⟨off, 0xFFFFFFFF, 0, 0x803F803F⟩
  else if ty = 0x0501 ∧ 0x100 ≤ off ∧ off < 0x500 then
    (regsRing.find? (fun r => r.off = off % 0x40)).map (fun r => { r with off := off })
  else (regTable ty).find? (fun r => r.off = off)

/-- The page has RWL fields (PAGE_CAPS.HAS_LOCK). -/
def hasLock (ty : Nat) : Bool := (regTable ty).any (fun r => r.rwl != 0)

/-- Number of defined counter pairs of a page (PAGE_CAPS.COUNTER_PAIRS). -/
def counterPairs (ty : Nat) : Nat :=
  match ty with
  | 0x0002 => 3
  | 0x0003 => 2
  | 0x0004 => 7
  | 0x0101 => 7
  | 0x0102 => 13
  | 0x0103 => 11
  | 0x0104 => 13
  | 0x0105 => 10
  | 0x0106 => 6
  | 0x0201 => 25
  | 0x0202 => 14
  | 0x0203 => 7
  | 0x0301 => 15
  | 0x0302 => 8
  | 0x0303 => 3
  | 0x0401 => 10
  | 0x0402 => 12
  | 0x0501 => 8
  | 0x0601 => 8
  | 0x0602 => 6
  | 0x0603 => 7
  | _ => 0

end Sys2Proof.Machine
end

