-- ==== Sys2Proof/Machine/Ops.lean ====
section
/-! DEFINITION. The named operations every meaning is built from: pages, interrupts, error capture, counters,
partitions, HBM and control memory, scratchpads, the fault log, flight contexts, free values. -/

namespace Sys2Proof.Machine

open Sys2Proof

/-- A step's next state. -/
abbrev Res := Host.Outcome State Fault Refusal

/-! ## Shared status codes (chapter 00) -/

def stOk : Byte := 0x00
def stDamaged : Byte := 0x01
def stRevoked : Byte := 0x02
def stProtection : Byte := 0x03
def stPageMiss : Byte := 0x04
def stPoison : Byte := 0x05
def stReformed : Byte := 0x06
def stTimeout : Byte := 0x07
def stConserve : Byte := 0x08
def stSaturated : Byte := 0x09
def stForbidden : Byte := 0x0A
def stFenced : Byte := 0x0B
def stLinkDown : Byte := 0x0C
def stSealedNoCompress : Byte := 0x0D
def stUnsupported : Byte := 0x0E

/-- Failure and hardware-fault codes, the ones a page captures (R109). -/
def isFailure (c : Byte) : Bool := c != 0x00 && c != 0x09 && c != 0x0D && c.toNat < 0x0F

/-! ## Free values -/

/-- Draw the next value the specification leaves open. -/
def drawFree (s : State) : BitVec 64 × State := (Config.freeValue s.freeIdx, { s with freeIdx := s.freeIdx + 1 })

/-- `n` bytes the specification leaves open. (DESIGN CHOICE, entry 104). -/
def freeBytes : Nat → State → List Byte × State
  | 0, s => ([], s)
  | n + 1, s =>
    let d := drawFree s
    let r := freeBytes n d.2
    (d.1.setWidth 8 :: r.1, r.2)

/-- Something leaves the device. -/
def emit (o : Output) (s : State) : State := { s with out := s.out ++ [o] }

/-! ## Pages -/

/-- Place of a page in `State.pages`; core pages by chip logical core. -/
def pageIdx : PageId → Fin pageCount
  | .global => 0
  | .clock => 1
  | .mailbox => 2
  | .determinism => 3
  | .core n j => ⟨4 + 6 * n.val + j.val, by simp only [pageCount]; omega⟩
  | .baton m => ⟨100 + m.val, by simp only [pageCount]; omega⟩
  | .relay => 108
  | .expander m => ⟨109 + m.val, by simp only [pageCount]; omega⟩
  | .stork => 117
  | .windows => 118
  | .keys => 119
  | .hbm k => ⟨120 + k.val, by simp only [pageCount]; omega⟩
  | .slice j => ⟨132 + j.val, by simp only [pageCount]; omega⟩
  | .queues p => ⟨148 + p.val, by simp only [pageCount]; omega⟩
  | .bittern => 152
  | .panel => 153
  | .background => 154

/-- Block type code (R94). -/
def pageType : PageId → Nat
  | .global => 0x0001
  | .clock => 0x0002
  | .mailbox => 0x0003
  | .determinism => 0x0004
  | .core _ j => 0x0101 + j.val
  | .baton _ => 0x0201
  | .relay => 0x0202
  | .expander _ => 0x0203
  | .stork => 0x0301
  | .windows => 0x0302
  | .keys => 0x0303
  | .hbm _ => 0x0401
  | .slice _ => 0x0402
  | .queues _ => 0x0501
  | .bittern => 0x0601
  | .panel => 0x0602
  | .background => 0x0603

/-- INSTANCE of PAGE_ID: chip logical core id for core pages, otherwise the index in the page map (R100). -/
def pageInst : PageId → Nat
  | .core n _ => n.val
  | .baton m | .expander m => m.val
  | .hbm k => k.val
  | .slice j => j.val
  | .queues p => p.val
  | _ => 0

/-- IRQ source number (R94). -/
def pageSrc : PageId → Nat
  | .global => 0
  | .clock => 1
  | .mailbox => 2
  | .determinism => 3
  | .core n j => 16 + 8 * n.val + j.val
  | .baton m => 144 + m.val
  | .relay => 152
  | .expander m => 160 + m.val
  | .stork => 168
  | .windows => 169
  | .keys => 170
  | .hbm k => 176 + k.val
  | .slice j => 192 + j.val
  | .queues p => 208 + p.val
  | .bittern => 224
  | .panel => 225
  | .background => 226

def getPage (s : State) (pg : PageId) : Page := s.pages[pageIdx pg]

def setPage (s : State) (pg : PageId) (p : Page) : State := { s with pages := s.pages.set (pageIdx pg) p }

def modPage (s : State) (pg : PageId) (f : Page → Page) : State := setPage s pg (f (getPage s pg))

/-- The value of a stored register word. -/
def pageReg (p : Page) (ty off : Nat) : Nat :=
  match mget p.regs off with
  | some w => w.toNat
  | none => (regRow ty off).elim 0 (·.rst)

/-- The stored bits of the register at an offset of a page. -/
def regOf (s : State) (pg : PageId) (off : Nat) : Nat := pageReg (getPage s pg) (pageType pg) off

/-- Set a stored register word. -/
def putReg (s : State) (pg : PageId) (off v : Nat) : State :=
  let d := BitVec.ofNat 32 ((regRow (pageType pg) off).elim 0 (·.rst))
  modPage s pg (fun p => { p with regs := mputD p.regs d off (BitVec.ofNat 32 v) })

/-- Add to counter pair `i` (R114, R116). (DEDUCED, entry 89). -/
def bump (s : State) (pg : PageId) (i : Nat) (n : Nat := 1) : State :=
  if n = 0 then s else
    modPage s pg (fun p => { p with ctrs := mmodD p.ctrs 0 i (· + BitVec.ofNat 64 n) })

def ctrOf (s : State) (pg : PageId) (i : Nat) : DWord := mgetD (getPage s pg).ctrs 0 i

/-- FRAME_COUNT (R86). -/
def frameCount (s : State) : Nat := (ctrOf s .clock 0).toNat

/-! ## Cores and partitions -/

def getCore (s : State) (c : Fin 16) : Core := s.cores[c]

def modCore (s : State) (c : Fin 16) (f : Core → Core) : State := { s with cores := s.cores.set c (f s.cores[c]) }

/-- N, the cores in service (R70). -/
def numCores (s : State) : Nat := popCount s.units.cores.toNat 16

def isDay (s : State) : Bool := s.mode = 1

/-- Core count of partition `p` (R604). -/
def partCount (s : State) (p : Nat) : Nat :=
  let n := numCores s
  if isDay s then n / 4 + bit01 (p < n % 4) else if p = 0 then n else 0

/-- Chip logical id of the partition's core 0, CORE_BASE (R604). -/
def partBase (s : State) (p : Nat) : Nat :=
  if isDay s then ((List.range p).map (partCount s)).sum else 0

/-- The partition of a chip logical core; 0 when no partition holds it. -/
def partOfCore (s : State) (c : Nat) : Nat :=
  if isDay s then
    ((List.range 4).find? (fun p => partBase s p ≤ c && c < partBase s p + partCount s p)).getD 0
  else 0

/-- Whether function `f` owns a partition (R98, R604). -/
def ownsPart (s : State) (f : Nat) : Bool := isDay s || f = 0

/-- Number of partitions. -/
def partitions (s : State) : Nat := if isDay s then 4 else 1

def coreFin (n : Nat) : Fin 16 := ⟨n % 16, Nat.mod_lt _ (by decide)⟩
def partFin (n : Nat) : Fin 4 := ⟨n % 4, Nat.mod_lt _ (by decide)⟩
def portFin (n : Nat) : Fin 8 := ⟨n % 8, Nat.mod_lt _ (by decide)⟩

/-- The chip logical core that a partition logical id names in the partition of core `c`, if there is one.
(DEDUCED, entry 87). -/
def peerCore (s : State) (c : Fin 16) (k : Nat) : Option (Fin 16) :=
  let p := partOfCore s c
  if k < partCount s p then some (coreFin (partBase s p + k)) else none

/-- Partition logical id of a core (R71). -/
def partLogical (s : State) (c : Nat) : Nat := c - partBase s (partOfCore s c)

/-- CHIP_ID (R128). -/
def chipId (s : State) : Nat := regOf s .global 0x040

/-! ## Interrupts (R107 to R127) -/

/-- Whether a message on this vector must wait in its Pending Bit (R126, R581). -/
def msixHeld (f : PcieFn) (v : Fin 64) : Bool :=
  f.msixFunctionMask || f.d3hot || !f.busMaster || (f.vectors[v]).masked

/-- Send one MSI-X message on a vector, or set its Pending Bit (R125, R126). -/
def sendMsi (s : State) (fn : Fin 4) (v : Nat) : State :=
  let f := s.fns[fn]
  let vec : Fin 64 := ⟨v % 64, Nat.mod_lt _ (by decide)⟩
  if !f.msixEnable then s
  else if msixHeld f vec then
    { s with fns := s.fns.set fn { f with vectors := f.vectors.set vec { f.vectors[vec] with pending := true } } }
  else emit (.msi fn vec) s

/-- Send the pending message of one vector if it may now go (R126). -/
def flushVector (s : State) (fn : Fin 4) (v : Fin 64) : State :=
  let f := s.fns[fn]
  if f.msixEnable && (f.vectors[v]).pending && !msixHeld f v then
    emit (.msi fn v) { s with fns := s.fns.set fn { f with vectors := f.vectors.set v { f.vectors[v] with pending := false } } }
  else s

/-- Send every pending message that may now go, in vector order. -/
def flushFn (s : State) (fn : Fin 4) : State :=
  (List.finRange 64).foldl (fun s v => flushVector s fn v) s

/-- The 16-bit route entry of a source (R122). -/
def routeEntry (s : State) (src : Nat) : Nat :=
  let w := regOf s .global (0x200 + 4 * (src / 2))
  if src % 2 = 0 then bitsOf w 15 0 else bitsOf w 31 16

/-- The function a source delivers to (R123). -/
def srcOwner (s : State) (src : Nat) : Fin 4 :=
  if 16 ≤ src ∧ src < 144 then partFin (partOfCore s ((src - 16) / 8))
  else if 208 ≤ src ∧ src < 212 ∧ isDay s then partFin (src - 208)
  else 0

/-- A rising edge of a page line reaches its vector (R121 to R125); never while the device is not ready or for a page
that does not respond in the recovery state (R751; DEDUCED, entry 86).  Edges of one SCLK cycle on one vector send one
message: the cycle is the model's frame (R76; DESIGN CHOICE, entry 123). -/
def deliverSrc (s : State) (src : Nat) : State :=
  let e := routeEntry s src
  let fn := srcOwner s src
  let v := 64 * fn.val + bitsOf e 5 0
  if e.testBit 15 && !s.edges.contains v then sendMsi { s with edges := nInsert s.edges v } fn (bitsOf e 5 0) else s

/-- The page line (R112). -/
def pageLine (p : Page) : Bool := p.irqStatus &&& p.irqEnable != 0

/-- A page presents its line to the interrupt tree: only in service, and Bittern not in the recovery state (R706, R751). -/
def linePresented (s : State) (pg : PageId) : Bool :=
  s.power.phase = .ready && !(pg = .bittern && s.units.service = 3)

/-- The block starts no new work: QUIESCE, or ENABLE cleared while busy (R102, R103). -/
def quiesced (p : Page) : Bool := p.quiesce || p.disabling

/-- Change the interrupt state of a page and deliver a rising edge of its line. -/
def updIrq (s : State) (pg : PageId) (f : Page → Page) : State :=
  let p := getPage s pg
  let p' := f p
  let s' := setPage s pg p'
  if !pageLine p && pageLine p' && linePresented s pg then deliverSrc s' (pageSrc pg) else s'

/-- A one-cycle condition: IRQ_RAW rises and falls, leaving IRQ_STATUS set (R111). -/
def pulseIrq (s : State) (pg : PageId) (bit : Nat) : State :=
  updIrq s pg (fun p => { p with irqStatus := p.irqStatus ||| BitVec.ofNat 32 (2 ^ bit) })

/-- A level condition takes a value; its rising edge sets IRQ_STATUS (R111). -/
def levelIrq (s : State) (pg : PageId) (bit : Nat) (v : Bool) : State :=
  let m := BitVec.ofNat 32 (2 ^ bit)
  updIrq s pg (fun p =>
    let was := p.irqRaw.toNat.testBit bit
    { p with irqRaw := if v then p.irqRaw ||| m else p.irqRaw &&& ~~~m,
             irqStatus := if v && !was then p.irqStatus ||| m else p.irqStatus })

/-- A page meets an error (R107 to R109): counted always, captured while no error is held. -/
def captureError (s : State) (pg : PageId) (code : Byte) (detail info0 info1 : Nat) : State :=
  if !isFailure code then s else
    updIrq s pg (fun p =>
      let p := { p with errCount := if p.errCount = 0xFFFFFFFF then p.errCount else p.errCount + 1 }
      if p.error then p else
        { p with error := true, errCode := BitVec.ofNat 32 (code.toNat + (detail % 65536) * 256),
                 errInfo0 := BitVec.ofNat 32 info0, errInfo1 := BitVec.ofNat 32 info1,
                 irqRaw := p.irqRaw ||| 1, irqStatus := p.irqStatus ||| 1 })

/-- `captureError` where the chapter of the block defines no context for ERR_INFO1: that is a free value (entry 27). -/
def captureOpen1 (s : State) (pg : PageId) (code : Byte) (detail info0 : Nat) : State :=
  let d := drawFree s
  captureError d.2 pg code detail info0 d.1.toNat

/-- `captureError` where the chapter of the block defines no context at all: ERR_INFO0 and ERR_INFO1 are free values
(entry 27). -/
def captureOpen (s : State) (pg : PageId) (code : Byte) (detail : Nat) : State :=
  let d := drawFree s
  captureOpen1 d.2 pg code detail d.1.toNat

/-- IRQ_STATUS bits are cleared; bit 0 also clears the captured error (R110). -/
def clearIrq (s : State) (pg : PageId) (m : Word) : State :=
  updIrq s pg (fun p =>
    let p := { p with irqStatus := p.irqStatus &&& ~~~m }
    if m.toNat.testBit 0 then
      { p with error := false, errCode := 0, errInfo0 := 0, errInfo1 := 0, irqRaw := p.irqRaw &&& ~~~1 }
    else p)

/-! ## Refused register writes -/

/-- A dropped or refused write: BAD_ACCESS counts, and BAD_ACCESS_ADDR takes its offset (R119, R128); past its width the
count saturates (DESIGN CHOICE, entry 119). -/
def badAccess (s : State) (addr : Nat) : State :=
  let n := regOf s .global 0x070
  putReg (putReg s .global 0x070 (if n = 0xFFFFFFFF then n else n + 1)) .global 0x074 (addr % 2 ^ 26)

/-! ## Fault log and return codes (R733, R734, R743, R744) -/

/-- The CHECK byte of a return code, and the code whole (R733). -/
def returnCodeOf (cls block code : Nat) : BitVec 40 :=
  let chk := (cls % 256) ^^^ (block / 256 % 256) ^^^ (block % 256) ^^^ (code % 256) ^^^ 0xA5
  BitVec.ofNat 40 ((cls % 256) * 2 ^ 32 + (block % 65536) * 2 ^ 16 + (code % 256) * 256 + chk)

/-- One fault-log entry is written; RETURN_CODE follows (R734, R744); an erase in progress is suspended (R656).
(DESIGN CHOICE, entry 88). -/
def logFault (s : State) (kind cls block inst : Nat) (code : Byte) (detail arg : Nat) : State :=
  let s := if s.mgmt.erasing then bump s .background 4 else s
  let m := s.mgmt
  let e : LogEntry := {
    seq := m.logNext, powerup := m.powerups,
    frame := if s.power.railsGood then ctrOf s .clock 0 else 0,
    kind := BitVec.ofNat 8 kind, cls := BitVec.ofNat 8 cls, block := BitVec.ofNat 16 block,
    inst := BitVec.ofNat 8 inst, code := code, detail := BitVec.ofNat 16 detail, arg := BitVec.ofNat 64 arg }
  let log := m.log ++ [e]
  { s with mgmt := { m with
      log := if 2048 < log.length then log.drop 1 else log,
      logNext := m.logNext + 1, sincePowerup := m.sincePowerup + 1,
      returnCode := if fld m.returnCode 39 32 < cls then returnCodeOf cls block code.toNat else m.returnCode } }

/-- As `logFault`, for an event whose CODE the specification does not give: it is a free value (entry 65). -/
def logOpen (s : State) (kind cls block inst detail arg : Nat) : State :=
  let d := drawFree s
  logFault d.2 kind cls block inst (d.1.setWidth 8) detail arg

/-- The 32 bytes of a fault-log entry (R743). -/
def logBytes (e : LogEntry) : List Byte :=
  leBytes 4 e.seq.toNat ++ leBytes 4 e.powerup.toNat ++ leBytes 8 e.frame.toNat ++ [e.kind, e.cls] ++
    leBytes 2 e.block.toNat ++ [e.inst, e.code] ++ leBytes 2 e.detail.toNat ++ leBytes 8 e.arg.toNat

/-! ## HBM (R604, R605, R624 to R635) -/

def stackFin (k : Nat) : Fin 12 := ⟨k % 12, Nat.mod_lt _ (by decide)⟩
def sliceFin (j : Nat) : Fin 16 := ⟨j % 16, Nat.mod_lt _ (by decide)⟩

/-- Bytes of one stack: 36 GiB. -/
def stackBytes : Nat := 36 * 2 ^ 30

/-- The stacks of a partition, ascending (R604, R624). -/
def partStacks (s : State) (p : Nat) : List Nat :=
  (bitList s.units.hbms.toNat 12).filter (fun k => !isDay s || k / 3 = p)

/-- Capacity of the partition HBM space (R605). -/
def hbmCap (s : State) (p : Nat) : Nat := (partStacks s p).length * stackBytes

/-- Where a partition HBM address lies: stack and stack-local address (R624). -/
def hbmLoc (s : State) (p a : Nat) : Nat × Nat :=
  let l := partStacks s p
  let g := a / 512
  (l.getD (g % l.length) 0, g / l.length * 512 + a % 512)

/-- The key of a stack-local byte in `State.hbm`. -/
def hbmKey (k a : Nat) : Nat := k * 2 ^ 36 + a

def hbmAddr (s : State) (p a : Nat) : Nat := let l := hbmLoc s p a; hbmKey l.1 l.2

/-- A stack that answers every request with FENCED (R634): fenced, or with a PHY that fails to retrain (R633; DEDUCED,
entry 64). -/
def stackFenced (s : State) (k : Nat) : Bool := (getPage s (.hbm (stackFin k))).fenced || s.units.training.toNat.testBit k

/-- Bytes `a` to `a + n - 1` lie inside the partition's HBM. -/
def hbmInside (s : State) (p a n : Nat) : Bool := a + n ≤ hbmCap s p

/-- The 512 B pieces of a range: start and length of each part inside one granule. -/
def granules (g a n : Nat) : List (Nat × Nat) :=
  let first := a / g
  let last := (a + n - 1) / g
  if n = 0 then [] else (List.range (last + 1 - first)).map (fun i =>
    let lo := max a ((first + i) * g)
    let hi := min (a + n) ((first + i + 1) * g)
    (lo, hi - lo))

/-- A stack fenced under the range, if any. -/
def hbmFencedIn (s : State) (p a n : Nat) : Bool :=
  (granules 512 a n).any (fun g => stackFenced s (hbmLoc s p g.1).1)

/-- A byte with the poison mark of the granule it came from or goes to. -/
abbrev PByte := Byte × Bool

/-- Bytes that all carry one mark. -/
def withMark (poison : Bool) (bs : List Byte) : List PByte := bs.map (fun b => (b, poison))

def plain (bs : List PByte) : List Byte := bs.map (·.1)
def anyMark (bs : List PByte) : Bool := bs.any (·.2)

/-- `n` bytes of a memory whose granules are `sz` bytes, with their marks. -/
def Memory.readP (m : Memory) (sz a n : Nat) : List PByte :=
  (List.range n).map (fun i => (m.byte (a + i), m.marked ((a + i) / sz)))

/-- Store marked bytes, granule by granule: a granule is poisoned by any poisoned byte stored into it (R166, R631). -/
def Memory.storeP (m : Memory) (sz a : Nat) (bs : List PByte) : Memory :=
  (granules sz a bs.length).foldl (fun m g =>
    let piece := (bs.drop (g.1 - a)).take g.2
    m.store sz g.1 (plain piece) (anyMark piece)) m

/-- Set a pair of address registers of a stack page. -/
def putAddr (s : State) (pg : PageId) (off a : Nat) : State :=
  putReg (putReg s pg off (a % 2 ^ 32 / 64 * 64)) pg (off + 4) (a / 2 ^ 32 % 16)

/-- A correctable error of a stack's line (R628). -/
def hbmCorrectable (s : State) (k : Fin 12) (a : Nat) : State :=
  pulseIrq (putAddr (bump s (.hbm k) 2) (.hbm k) 0x050 a) (.hbm k) 1

/-- An uncorrectable error of a stack's line is found: the line takes its poison mark (R629). -/
def hbmUncorrectable (s : State) (k : Fin 12) (a : Nat) : State :=
  let s := { s with hbm := s.hbm.setMark (hbmKey k a / 64) true }
  let s := pulseIrq (putAddr (bump s (.hbm k) 3) (.hbm k) 0x048 a) (.hbm k) 2
  captureError s (.hbm k) stPoison 1 (a % 2 ^ 32 / 64 * 64) (a / 2 ^ 32 % 16)

/-- A read meets the error that the line of a stack-local address has taken, if any (R628, R629). -/
def hbmFind (s : State) (k : Fin 12) (a : Nat) : State :=
  let line := hbmKey k a / 64
  match mget s.hbmFlaws line with
  | none => s
  | some hard =>
    let s := { s with hbmFlaws := mdel s.hbmFlaws line }
    if hard then hbmUncorrectable s k a else hbmCorrectable s k a

/-- Read a partition HBM range with its marks; the stacks count the lines read, the errors and the poisoned lines (R628 to
R630). -/
def hbmRead (s : State) (p a n : Nat) : List PByte × State :=
  (granules 64 a n).foldl (fun (acc : List PByte × State) g =>
    let l := hbmLoc s p g.1
    let key := hbmKey l.1 l.2
    let s' := bump acc.2 (.hbm (stackFin l.1)) 0
    let s' := if acc.2.hbm.marked (key / 64) then bump s' (.hbm (stackFin l.1)) 4 else s'
    let s' := hbmFind s' (stackFin l.1) l.2
    (acc.1 ++ s'.hbm.readP 64 key g.2, s')) ([], s)

/-- Write a partition HBM range, line by line (R631): a line written in part is read and merged; one written whole takes what
error it had with it. -/
def hbmWrite (s : State) (p a : Nat) (bs : List PByte) : State :=
  (granules 64 a bs.length).foldl (fun s g =>
    let l := hbmLoc s p g.1
    let key := hbmKey l.1 l.2
    let s := if g.2 = 64 then { s with hbmFlaws := mdel s.hbmFlaws (key / 64) } else hbmFind s (stackFin l.1) l.2
    let m := s.hbm.storeP 64 key ((bs.drop (g.1 - a)).take g.2)
    let s' := bump { s with hbm := m } (.hbm (stackFin l.1)) 1
    if m.marked (key / 64) then bump s' (.hbm (stackFin l.1)) 5 else s') s

/-! ## Control memory (R636 to R652) -/

/-- k, the slices in service, and the capacity k MiB (R637). -/
def cmSlices (s : State) : List Nat := bitList s.units.slices.toNat 16
def cmCap (s : State) : Nat := (cmSlices s).length * 0x100000

/-- The home slice of a line (R640). -/
def cmHome (s : State) (line : Nat) : Nat := let l := cmSlices s; l.getD (line % l.length) 0

/-- Slice-local offset of a line (R640). -/
def cmLocal (s : State) (line : Nat) : Nat := line / (cmSlices s).length * 64

def sliceFenced (s : State) (j : Nat) : Bool := (getPage s (.slice (sliceFin j))).fenced

/-- Owner of a general-region address: partition `p` holds it (R637). -/
def cmGeneral (s : State) (p a : Nat) : Bool :=
  if isDay s then
    let g := (cmCap s - 0x500000) / 4 / 0x10000 * 0x10000
    0x500000 + p * g ≤ a && a < 0x500000 + (p + 1) * g
  else 0x500000 ≤ a && a < cmCap s

/-- Whether partition `p` may access one control-memory address: reading (R435, R491, R636, R638) and writing
(R340, R435, R491, R636). -/
def cmMay (s : State) (p a : Nat) (write : Bool) : Bool :=
  if cmCap s ≤ a then false
  else if a < 0x10000 then !isDay s || a / 0x4000 = p
  else if a < 0x200000 then !write
  else if a < 0x400800 then false
  else if a < 0x410000 then !write
  else if a < 0x414000 then !write && (!isDay s || (a - 0x410000) / 0x1000 = p)
  else if a < 0x440000 then !write
  else if a < 0x450000 then !write && (!isDay s || (a - 0x440000) / 0x4000 = p)
  else if a < 0x500000 then !write
  else cmGeneral s p a

/-- The whole range is accessible: its ends and every 64 B line between them. -/
def cmMayRange (s : State) (p a n : Nat) (write : Bool) : Bool :=
  n = 0 || (cmMay s p (a + n - 1) write && (granules 64 a n).all (fun g => cmMay s p g.1 write))

def dirLine (s : State) (line : Nat) : DirLine := mgetD s.dir {} line
def setDir (s : State) (line : Nat) (d : DirLine) : State := { s with dir := mputD s.dir {} line d }

/-- The 64 bytes of a Relay group table entry line (R491), little-endian as one natural of 1 KiB. -/
def groupEntry (g : RGroup) : List Byte :=
  let st : Nat := match g.st with
    | .free => 0 | .forming => 1 | .ready => 2 | .active => 3 | .reforming => 4 | .failed => 5
  if g.st = .free then List.replicate 128 0 else
  let head := leBytes 32 g.members.toNat ++ leBytes 2 g.epoch.toNat ++
    [BitVec.ofNat 8 st, BitVec.ofNat 8 g.root, BitVec.ofNat 8 (g.parent.getD 0xFF), g.childPorts,
     BitVec.ofNat 8 g.stageCore, 0] ++ leBytes 4 g.stageOffset ++ leBytes 4 g.stageSize ++
    leBytes 4 g.nextStep ++ leBytes 4 g.lastReleased
  sliceB head 0 64 ++ sliceB (g.nextScale.map (fun i => BitVec.ofInt 8 i)) 0 64

/-- A byte of control memory as every agent sees it: the owner's copy of a modified line, else the home copy (R644);
the Relay group table shows the groups (R491). -/
def cmByte (s : State) (a : Nat) : Byte :=
  if 0x440000 ≤ a ∧ a < 0x450000 then
    match mget s.relay ((a - 0x440000) / 0x400) with
    | some g => (groupEntry g).getD (a % 0x400) 0
    | none => 0
  else match (dirLine s (a / 64)).cached with
    | some d => BitVec.ofNat 8 (fld d (8 * (a % 64) + 7) (8 * (a % 64)))
    | none => s.cm.byte a

def cmBytes (s : State) (a n : Nat) : List Byte := (List.range n).map (fun i => cmByte s (a + i))

/-- Poison of a line: of the home copy, which an uncorrectable error poisons too, or of the owner's copy (R629, R641). -/
def cmPoison (s : State) (line : Nat) : Bool :=
  s.cm.marked line || mget s.cmFlaws line = some true || (dirLine s line).cachedPoison

/-- Poison among the lines a range touches. -/
def cmPoisonIn (s : State) (a n : Nat) : Bool := (granules 64 a n).any (fun g => cmPoison s (g.1 / 64))

/-- Fewer than 5 slices are in service: Stork and the Relay are disabled (R639). -/
def fewSlices (s : State) : Bool := popCount (s.units.slices &&& ~~~s.units.failedSlices).toNat 16 < 5

/-- A range of control memory touches a slice that is fenced. -/
def cmFencedIn (s : State) (a n : Nat) : Bool :=
  (granules 64 a n).any (fun g => sliceFenced s (cmHome s (g.1 / 64)))

/-- The 64 bytes of a line value. -/
def lineBytes (d : BitVec 512) : List Byte := leBytes 64 d.toNat

/-- Bring the owner's copy of a line home: a recall (R648) or a writeback; the line is left with no owner. -/
def cmMerge (s : State) (line : Nat) : State :=
  let d := dirLine s line
  let s := match d.cached with
    | some v => { s with cm := s.cm.write (64 * line) (lineBytes v) }
    | none => s
  let s := if d.cachedPoison then { s with cm := s.cm.setMark line true } else s
  setDir s line { d with owner := none, cached := none, cachedPoison := false, held := false }

/-- Recall or invalidate every cached copy of a line, counting the recalls and invalidations sent (R648, R660). -/
def cmRecallAll (s : State) (line : Nat) : State :=
  let d := dirLine s line
  let sent := popCount d.sharers.toNat 19 + bit01 d.owner.isSome
  let s := bump s (.slice (sliceFin (cmHome s line))) 4 sent
  let s := cmMerge s line
  setDir s line { dirLine s line with sharers := 0 }

/-- A slice reads the home copy of a line: a poisoned one counts and raises POISON_READ, and an error is met (R628 to R630,
R641, R659, R660). -/
def cmFind (s : State) (line : Nat) : State :=
  let pg := PageId.slice (sliceFin (cmHome s line))
  let s := if s.cm.marked line then pulseIrq (bump s pg 11) pg 2 else s
  match mget s.cmFlaws line with
  | none => s
  | some hard =>
    let s := { s with cmFlaws := mdel s.cmFlaws line }
    if hard then captureOpen1 (bump { s with cm := s.cm.setMark line true } pg 10) pg stPoison 1 (64 * line)
    else bump s pg 9

/-- An engine reads the lines of a range (R641, R644). -/
def cmMeet (s : State) (a n : Nat) : State := (granules 64 a n).foldl (fun s g => cmFind s (g.1 / 64)) s

/-- A DMA engine, the host or a unit writes control memory: cached copies are recalled, and a line written whole from
clean data loses its poison mark (R641, R649; DEDUCED that a write recalls, entry 23). -/
def cmWrite (s : State) (a : Nat) (bs : List PByte) : State :=
  (granules 64 a bs.length).foldl (fun s g =>
    let s := cmRecallAll s (g.1 / 64)
    let s := if g.2 = 64 then { s with cmFlaws := mdel s.cmFlaws (g.1 / 64) } else cmFind s (g.1 / 64)
    { s with cm := s.cm.storeP 64 g.1 ((bs.drop (g.1 - a)).take g.2) }) s

/-- Control-memory bytes with the marks of their lines. -/
def cmRead (s : State) (a n : Nat) : List PByte :=
  (List.range n).map (fun i => (cmByte s (a + i), cmPoison s ((a + i) / 64)))

/-! ## Scratchpads (R158 to R167) -/

def spadBytes : Nat := 0xC00000

/-- First and last byte (exclusive) of the reserved region of a core's scratchpad (R164, R190). -/
def spadResv (s : State) (c : Fin 16) : Nat × Nat :=
  (regOf s (.core c 0) 0x064 * 0x10000, regOf s (.core c 0) 0x068 * 0x10000)

/-- A byte range is one the core's instructions and engines may address: inside the scratchpad and outside the
reserved region (R164); an empty one reaches no byte (R324). -/
def spadOk (s : State) (c : Fin 16) (a n : Nat) : Bool :=
  let r := spadResv s c
  n = 0 || (a + n ≤ spadBytes && (r.2 ≤ r.1 || a + n ≤ r.1 || r.2 ≤ a))

/-- Any poison among the bank words of a range. -/
def spadPoison (s : State) (c : Fin 16) (a n : Nat) : Bool := (getCore s c).spad.poisonedAt 32 a n

def spadRead (s : State) (c : Fin 16) (a n : Nat) : List Byte := (getCore s c).spad.read a n

/-- Store clean bytes to a scratchpad; bank words written whole lose their mark (R167). -/
def spadWrite (s : State) (c : Fin 16) (a : Nat) (bs : List Byte) : State :=
  modCore s c (fun k => { k with spad := k.spad.store 32 a bs false })

/-- Scratchpad bytes with the marks of their bank words (R166). -/
def spadReadP (s : State) (c : Fin 16) (a n : Nat) : List PByte := (getCore s c).spad.readP 32 a n

/-- Store marked bytes to a scratchpad (R166). -/
def spadWriteP (s : State) (c : Fin 16) (a : Nat) (bs : List PByte) : State :=
  modCore s c (fun k => { k with spad := k.spad.storeP 32 a bs })

/-! ## Flight contexts (R585 to R588) -/

/-- First tag and number of contexts of a partition (R585). -/
def ctxRange (s : State) (p : Nat) : Nat × Nat := if isDay s then (1024 * p, 1024) else (0, 4096)

/-- The lowest key in `[i, i + n)` that a map does not list. -/
def lowestFree {α : Type} : SMap α → Nat → Nat → Option Nat
  | _, _, 0 => none
  | [], i, _ + 1 => some i
  | (k, _) :: m, i, n + 1 =>
    if k < i then lowestFree m i (n + 1) else if k = i then lowestFree m (i + 1) n else some i

/-- The lowest free tag of a partition (R586). -/
def freeTag (s : State) (p : Nat) : Option Nat := let r := ctxRange s p; lowestFree s.ctxs r.1 r.2

/-- Take a context; its place in the posting order is after every context held. -/
def takeCtx (s : State) (tag : Nat) (x : Ctx) : State :=
  let n := s.ctxs.foldl (fun n y => max n (y.2.order + 1)) 0
  { s with ctxs := mput s.ctxs tag { x with order := n } }

/-- Record the result of the operation that holds a context. -/
def finishCtx (s : State) (tag : Nat) (r : Result) : State :=
  match mget s.ctxs tag with
  | some x => if x.result.isNone then { s with ctxs := mput s.ctxs tag { x with result := some r } } else s
  | none => s

def freeCtx (s : State) (tag : Nat) : State := { s with ctxs := mdel s.ctxs tag }

/-- Contexts a partition holds, CTX_USED (R619). -/
def ctxUsed (s : State) (p : Nat) : Nat := (s.ctxs.filter (fun x => x.2.part = p)).length

end Sys2Proof.Machine
end

