-- ==== Sys2Proof/Machine/Operands.lean ====
section
/-! DEFINITION. The operand forms of a Heron core: instruction formats (R145, R146), element types (R148), registers
(R137, R138), lane masks (R139), typed arithmetic of one element, and which registers an opcode names (R147). -/

namespace Sys2Proof.Machine

open Sys2Proof

/-! ## Instruction fields -/

def fOp (w : DWord) : Nat := fld w 63 56
def fPr (w : DWord) : Nat := fld w 55 53
def fPn (w : DWord) : Bool := w.toNat.testBit 52
def fRd (w : DWord) : Nat := fld w 51 46
def fRa (w : DWord) : Nat := fld w 45 40
def fRb (w : DWord) : Nat := fld w 39 34
def fRc (w : DWord) : Nat := fld w 33 28
def fnA (w : DWord) : Nat := fld w 27 20
def dtA (w : DWord) : Nat := fld w 19 16
def zeroA (w : DWord) : Bool := fld w 15 0 = 0
def fnI (w : DWord) : Nat := fld w 39 32
/-- IMM, OFF and DISP, sign-extended (R146). -/
def imm32 (w : DWord) : Int := sgn 32 (fld w 31 0)
def immU (w : DWord) : Nat := fld w 31 0
def fnM (w : DWord) : Nat := fld w 39 36
def dtM (w : DWord) : Nat := fld w 35 32
def fnB (w : DWord) : Nat := fld w 45 40
def zeroB (w : DWord) : Bool := fld w 39 32 = 0
def coreX (w : DWord) : Nat := fld w 39 36
def chanX (w : DWord) : Nat := fld w 35 32
def fnX (w : DWord) : Nat := fld w 31 24
def imm24 (w : DWord) : Nat := fld w 23 0

/-! ## Element types (R148) -/

/-- A defined DT code. -/
def dtOk (dt : Nat) : Bool := dt < 0xE

/-- Width of an element in bits, as it sits in a register or in memory; E56 is held in a scalar register. -/
def dtWidth (dt : Nat) : Nat :=
  match dt with
  | 0x0 | 0x8 | 0xC => 32
  | 0x1 | 0x2 | 0x3 | 0x7 | 0xB => 16
  | 0x4 | 0x6 | 0xA => 8
  | 0x5 => 56
  | _ => 64

/-- A type a vector instruction may name: a 32-, 16- or 8-bit element. -/
def dtVec (dt : Nat) : Bool := dtOk dt && dtWidth dt ≤ 32

def dtInt (dt : Nat) : Bool := 6 ≤ dt && dt < 0xE
def dtSigned (dt : Nat) : Bool := 6 ≤ dt && dt ≤ 9
/-- The IEEE types. -/
def dtIeee (dt : Nat) : Bool := dt < 3
/-- The types of EFN, EROW, SP.THR, tile moves: IEEE and L formats. -/
def dtReal (dt : Nat) : Bool := dt < 5

def dtFloat (dt : Nat) : FloatFmt :=
  match dt with
  | 0x1 => bfloat16
  | 0x2 => binary16
  | _ => binary32

/-- The value of an element pattern; `s` is the scale of L8 (and of a scalar E56 word). -/
def valOf (dt : Nat) (s : Int) (b : Nat) : Val :=
  match dt with
  | 0x0 => valFloat binary32 b
  | 0x1 => valFloat bfloat16 b
  | 0x2 => valFloat binary16 b
  | 0x3 => valL16 b
  | 0x4 => valL8 s b
  | 0x5 => valE56 s b
  | _ => if dtSigned dt then .num (sgn (dtWidth dt) b) 0 else .num ((b % 2 ^ dtWidth dt : Nat) : Int) 0

/-- Conversion to an integer type: nearest, ties to even (DEDUCED, entry 25); of a value the type cannot hold the result is
free. -/
def encInt (dt : Nat) (v : Val) : Conv :=
  let w := dtWidth dt
  let lo : Int := if dtSigned dt then -(2 ^ (w - 1) : Nat) else 0
  let hi : Int := if dtSigned dt then (2 ^ (w - 1) : Nat) - 1 else (2 ^ w : Nat) - 1
  let free := fun (kind : Nat) (m e : Int) => (⟨(Config.intResult dt kind m e).toNat % 2 ^ w, false, false⟩ : Conv)
  match v with
  | .nan => free 0 0 0
  | .inf neg => free (if neg then 2 else 1) 0 0
  | .num m e =>
    let n := scaleRne m e
    if n < lo || hi < n then free 3 m e else ⟨wrap w n, false, n = 0 && m != 0⟩

/-- Encoding of a value in type `dt`; `sat` as in `encFloat`. -/
def encOf (dt : Nat) (s : Int) (sat : Bool) (v : Val) : Conv :=
  match dt with
  | 0x0 => encFloat binary32 sat v
  | 0x1 => encFloat bfloat16 sat v
  | 0x2 => encFloat binary16 sat v
  | 0x3 => encL16 v
  | 0x4 => encL8 s v
  | 0x5 => let p := encE56 s v; ⟨p.1, p.2, false⟩
  | _ => encInt dt v

/-- NaR, or the canonical NaN (R55, R57). -/
def nanBits (dt : Nat) : Nat := (encOf dt 0 true .nan).bits

/-! ## Arithmetic of one element (R150, R61, R29, R58) -/

inductive ArithOp where
  | add | sub | mul
  deriving DecidableEq, Repr

def arithVal (op : ArithOp) (a b : Val) : Val :=
  match op with
  | .add => a.add b
  | .sub => a.sub b
  | .mul => a.mul b

def arithInt (op : ArithOp) (a b : Int) : Int :=
  match op with
  | .add => a + b
  | .sub => a - b
  | .mul => a * b

/-- One element of VADD, VSUB, VMUL and of the scalar forms: integers wrap; IEEE results round once; L16 and L8 products
are the log-domain products of R29; L sums are exact sums of images, then R58. -/
def arith (op : ArithOp) (dt : Nat) (s : Int) (a b : Nat) : Nat :=
  if dtInt dt then wrap (dtWidth dt) (arithInt op (sgn (dtWidth dt) a) (sgn (dtWidth dt) b))
  else if dt = 0x3 && op = .mul then (encL16 (mulL16 a b)).bits
  else if dt = 0x4 && op = .mul then (encL8 s (mulL8 s a b)).bits
  else if dt = 0x5 && op != .mul then
    addE56 (a % 2 ^ 56) (if op = .add || b % 2 ^ 56 = e56Nar then b % 2 ^ 56 else wrap 56 (-(sgn 56 b)))
  else (encOf dt s false (arithVal op (valOf dt s a) (valOf dt s b))).bits

/-- Multiply-add rounded once; IEEE types only (VFMA). -/
def fma (dt : Nat) (a b c : Nat) : Nat :=
  (encOf dt 0 false (((valOf dt 0 a).mul (valOf dt 0 b)).add (valOf dt 0 c))).bits

/-- Bitwise operations: FN 0 AND, 1 OR, 2 XOR, 3 AND-NOT, on `w` bits. -/
def logicOp (fn w a b : Nat) : Nat :=
  let a := a % 2 ^ w
  let b := b % 2 ^ w
  match fn with
  | 0 => a &&& b
  | 1 => a ||| b
  | 2 => a ^^^ b
  | _ => a &&& (2 ^ w - 1 - b)

/-- Shifts by the low six bits of `b`: FN 0 left, 1 right logical, 2 right arithmetic, on `w` bits. -/
def shiftOp (fn w a b : Nat) : Nat :=
  let n := b % 64
  match fn with
  | 0 => (a <<< n) % 2 ^ w
  | 1 => (a % 2 ^ w) >>> n
  | _ => wrap w (scaleI (sgn w a) (-(n : Int)))

/-! ## Registers (R137) -/

/-- Scalar register: s0 reads 0. -/
def getS (k : Core) (i : Nat) : DWord := if h : 0 < i ∧ i < 32 then k.sregs[i]'h.2 else 0

/-- Write a scalar register; writes to s0 are discarded. -/
def setS (k : Core) (i : Nat) (v : DWord) : Core :=
  if h : 0 < i ∧ i < 32 then { k with sregs := k.sregs.set i v h.2 } else k

def getV (k : Core) (i : Nat) : BitVec 2048 := if h : i < 64 then k.vregs[i]'h else 0

def setV (k : Core) (i : Nat) (v : BitVec 2048) : Core :=
  if h : i < 64 then { k with vregs := k.vregs.set i v h } else k

/-- Predicate register: p0 reads all ones. -/
def getP (k : Core) (i : Nat) : DWord := if h : 0 < i ∧ i < 8 then k.preds[i]'h.2 else BitVec.allOnes 64

/-- Write a predicate register; writes to p0 are discarded. -/
def setP (k : Core) (i : Nat) (v : DWord) : Core :=
  if h : 0 < i ∧ i < 8 then { k with preds := k.preds.set i v h.2 } else k

/-- The lane mask of an instruction: its predicate register, inverted by PN (R139, R145). -/
def laneMask (k : Core) (w : DWord) : DWord := if fPn w then ~~~(getP k (fPr w)) else getP k (fPr w)

/-- Whether a scalar instruction executes (R140). -/
def predHolds (k : Core) (w : DWord) : Bool := (laneMask k w).toNat.testBit 0

/-! ## Vectors (R138) -/

/-- Number of elements of width `w` in a vector register. -/
def elems (w : Nat) : Nat := 2048 / w

/-- Element `j` of width `w`. -/
def elem (w : Nat) (v : BitVec 2048) (j : Nat) : Nat := bitsOf v.toNat (w * j + w - 1) (w * j)

/-- The lane that holds element `j` of width `w`. -/
def laneOf (w j : Nat) : Nat := j * w / 32

/-- The elements of a vector, element 0 first. -/
def elemList (w : Nat) (v : BitVec 2048) : List Nat := (List.range (elems w)).map (elem w v)

/-- A vector from its elements. -/
def ofElems (w : Nat) (l : List Nat) : BitVec 2048 :=
  BitVec.ofNat 2048 (l.foldr (fun e acc => acc * 2 ^ w + e % 2 ^ w) 0)

/-- A vector whose governed elements are computed and whose others keep their old value (R139). -/
def vmap (w : Nat) (mask : DWord) (old : BitVec 2048) (f : Nat → Nat) : BitVec 2048 :=
  ofElems w ((List.range (elems w)).map (fun j => if mask.toNat.testBit (laneOf w j) then f j else elem w old j))

/-- The bytes of a vector register, byte 0 first. -/
def vecBytes (v : BitVec 2048) : List Byte := leBytes 256 v.toNat

/-- The indices of the elements the mask governs. -/
def active (w : Nat) (mask : DWord) : List Nat :=
  (List.range (elems w)).filter (fun j => mask.toNat.testBit (laneOf w j))

/-- The scale of an L8 operand in scalar RC (R149). -/
def scaleOf (k : Core) (r : Nat) : Int := sgn 8 (getS k r).toNat

/-! ## Which registers an opcode names (R147) -/

inductive RegFile where
  | s | v | p
  deriving DecidableEq, Repr

/-- A register an instruction names: its file, its number, and whether it is written. -/
structure RegUse where
  file : RegFile
  num : Nat
  dest : Bool := false
  deriving DecidableEq, Repr

/-- The registers an instruction word names in the fields its row uses (R152 and the owning chapters); a register field
its row does not use is ignored, whatever it holds (DESIGN CHOICE, entry 21). -/
def regUses (w : DWord) : List RegUse :=
  let d := fRd w
  let a := fRa w
  let b := fRb w
  let c := fRc w
  let f := fnM w
  let l8 : List RegUse := if dtA w = 0x4 then [⟨.s, c, false⟩] else []
  match fOp w with
  | 0x00 | 0x01 | 0x02 | 0x03 | 0x04 => [⟨.s, d, true⟩, ⟨.s, a, false⟩, ⟨.s, b, false⟩]
  | 0x05 => [⟨.s, d, true⟩, ⟨.s, a, false⟩]
  | 0x06 => [⟨.p, d, true⟩, ⟨.s, a, false⟩, ⟨.s, b, false⟩]
  | 0x07 => [⟨.s, d, true⟩, ⟨.s, a, false⟩, ⟨.s, b, false⟩, ⟨.p, c, false⟩]
  | 0x09 | 0x0A | 0x0B => [⟨.s, d, true⟩]
  | 0x11 => [⟨.s, 31, true⟩]
  | 0x12 | 0x13 => [⟨.s, d, false⟩]
  | 0x20 | 0x21 | 0x22 | 0x24 => [⟨.v, d, true⟩, ⟨.v, a, false⟩, ⟨.v, b, false⟩] ++ l8
  | 0x23 => [⟨.v, d, true⟩, ⟨.v, a, false⟩, ⟨.v, b, false⟩, ⟨.v, c, false⟩]
  | 0x25 => [⟨.v, d, true⟩, ⟨.v, a, false⟩] ++ l8
  | 0x26 => [⟨.p, d, true⟩, ⟨.v, a, false⟩, ⟨.v, b, false⟩] ++ l8
  | 0x27 => [⟨.v, d, true⟩, ⟨.v, a, false⟩, ⟨.v, b, false⟩, ⟨.p, c, false⟩]
  | 0x28 => [⟨.v, d, true⟩, ⟨.v, a, false⟩] ++
      (if dtA w = 0x4 ∨ fnA w = 0x4 then [⟨.s, c, false⟩] else [])
  | 0x29 => [⟨.v, d, true⟩, ⟨.s, a, false⟩]
  | 0x2A | 0x2B => [⟨.v, d, true⟩, ⟨.v, a, false⟩, ⟨.v, b, false⟩]
  | 0x2C => [⟨.s, d, true⟩, ⟨.v, a, false⟩] ++ l8
  | 0x2D => [⟨.v, d, true⟩]
  | 0x2E => match fnA w with
    | 0 | 1 => [⟨.p, d, true⟩, ⟨.p, a, false⟩, ⟨.p, b, false⟩]
    | 2 => [⟨.p, d, true⟩, ⟨.p, a, false⟩]
    | _ => [⟨.s, d, true⟩, ⟨.p, a, false⟩]
  | 0x40 => [⟨.s, d, true⟩, ⟨.s, a, false⟩]
  | 0x41 => [⟨.s, d, false⟩, ⟨.s, a, false⟩]
  | 0x42 => [⟨.v, d, true⟩, ⟨.s, a, false⟩]
  | 0x43 => [⟨.v, d, false⟩, ⟨.s, a, false⟩]
  | 0x44 => [⟨.v, d, true⟩, ⟨.s, a, false⟩, ⟨.s, f, false⟩]
  | 0x45 => [⟨.v, d, false⟩, ⟨.s, a, false⟩, ⟨.s, f, false⟩]
  | 0x46 => [⟨.v, d, true⟩, ⟨.s, a, false⟩, ⟨.v, f, false⟩]
  | 0x47 => [⟨.v, d, false⟩, ⟨.s, a, false⟩, ⟨.v, f, false⟩]
  | 0x48 | 0x74 | 0x75 | 0x7A | 0x7C | 0x7D => [⟨.s, d, true⟩, ⟨.s, a, false⟩]
  | 0x50 | 0x51 | 0x52 => [⟨.s, d, false⟩, ⟨.s, a, false⟩, ⟨.s, b, false⟩, ⟨.s, c, false⟩]
  | 0x53 => [⟨.s, d, false⟩, ⟨.s, c, false⟩]
  | 0x5A | 0x5B => [⟨.s, a, false⟩]
  | 0x5C => [⟨.s, d, true⟩]
  | 0x60 => [⟨.v, d, true⟩, ⟨.v, a, false⟩] ++ l8
  | 0x61 => if bitsOf (fnA w) 3 2 = 3 then [] else
      [⟨.s, d, false⟩, ⟨.s, a, false⟩, ⟨.s, b, false⟩, ⟨.s, c, false⟩]
  | 0x62 => [⟨.s, d, true⟩, ⟨.s, a, false⟩]
  | 0x68 | 0x70 => [⟨.s, d, true⟩, ⟨.s, a, false⟩, ⟨.s, b, false⟩]
  | 0x69 => [⟨.v, d, true⟩, ⟨.v, c, true⟩, ⟨.v, a, false⟩, ⟨.v, b, false⟩]
  | 0x6A => (List.range (fnA w % 32 + 1)).flatMap (fun i =>
      [⟨.v, d + i, true⟩, ⟨.v, c + i, true⟩, ⟨.v, a + i, false⟩, ⟨.v, b + i, false⟩])
  | 0x6B => [⟨.v, a, false⟩, ⟨.v, b, false⟩, ⟨.s, c, false⟩] ++
      (if (fnA w).testBit 0 then [⟨.s, d, false⟩] else [])
  | 0x6C => [⟨.s, d, true⟩, ⟨.s, a, false⟩]
  | 0x78 | 0x79 => [⟨.s, a, false⟩]
  | 0x7B => [⟨.s, d, true⟩]
  | 0x81 | 0x82 | 0x83 => [⟨.s, d, true⟩, ⟨.s, a, false⟩]
  | 0x85 => [⟨.s, d, true⟩, ⟨.s, a, false⟩]
  | 0x86 | 0x87 => [⟨.s, d, false⟩, ⟨.s, a, false⟩]
  | 0x88 => [⟨.s, d, true⟩, ⟨.s, a, false⟩] ++ (if fnM w = 2 ∧ d < 31 then [⟨.s, d + 1, false⟩] else [])
  | _ => []

/-- Every register field names a register: scalars below 32, predicates below 8 (R147).  Vector fields always do; the
ranges of SP.MERGE have their own check (R302). -/
def regsOk (w : DWord) : Bool :=
  (regUses w).all (fun u => match u.file with
    | .s => u.num < 32
    | .p => u.num < 8
    | .v => true)

/-- The opcodes of the instruction list (R152). -/
def opDefined (op : Nat) : Bool :=
  op ≤ 0x07 || (0x09 ≤ op && op ≤ 0x0B) || (0x10 ≤ op && op ≤ 0x14) || (0x20 ≤ op && op ≤ 0x2E) ||
    (0x40 ≤ op && op ≤ 0x48) || (0x50 ≤ op && op ≤ 0x53) || (0x58 ≤ op && op ≤ 0x5C) ||
    (0x60 ≤ op && op ≤ 0x62) || (0x68 ≤ op && op ≤ 0x6C) || op = 0x70 || op = 0x74 || op = 0x75 ||
    (0x78 ≤ op && op ≤ 0x7D) || (0x80 ≤ op && op ≤ 0x89) || op = 0xF0 || op = 0xF1

end Sys2Proof.Machine
end

