-- ==== Sys2Proof/Machine/Flags.lean ====
section
/-! DEFINITION. Comparisons: what the machine has in place of flags are predicate registers, written by CMP and VCMP
(R152), and the selection of the larger or smaller element. -/

namespace Sys2Proof.Machine

open Sys2Proof

/-- The comparisons of CMP and VCMP, FN 0 EQ, 1 NE, 2 LT, 3 LE, 4 LTU, 5 LEU, on two elements of a type.  An ordered
comparison with NaN or NaR is false; LTU and LEU compare integers as unsigned patterns, and act as LT and LE on a type that
is no integer (DESIGN CHOICE, entry 111). -/
def cmpOp (fn dt : Nat) (s : Int) (a b : Nat) : Bool :=
  let x := valOf dt s a
  let y := valOf dt s b
  let ua := a % 2 ^ dtWidth dt
  let ub := b % 2 ^ dtWidth dt
  match fn with
  | 0 => x.eq y
  | 1 => !x.eq y
  | 2 => x.lt y
  | 3 => x.lt y || x.eq y
  | 4 => if dtInt dt then ua < ub else x.lt y
  | _ => if dtInt dt then ua ≤ ub else x.lt y || x.eq y

/-- An element as a unit writes it: no negative zero (R56). -/
def plusZero (dt a : Nat) : Nat := if dtInt dt || !(valOf dt 0 a).isZero then a else 0

/-- Minimum, maximum (FN 0, 1) and larger magnitude (FN 2) of two elements; NaN and NaR propagate, and equal
magnitudes keep the first (DESIGN CHOICE, entry 26). -/
def minmaxOp (fn dt : Nat) (s : Int) (a b : Nat) : Nat :=
  let x := valOf dt s a
  let y := valOf dt s b
  if x.isNan || y.isNan then nanBits dt
  else match fn with
    | 0 => plusZero dt (if y.lt x then b else a)
    | 1 => plusZero dt (if x.lt y then b else a)
    | _ => plusZero dt (if x.abs.lt y.abs then b else a)

/-- A predicate of all ones or zero (CMP). -/
def predOf (b : Bool) : DWord := if b then BitVec.allOnes 64 else 0

end Sys2Proof.Machine
end

