-- ==== Sys2Proof/Machine/Issue.lean ====
section
/-! DEFINITION. Issue of one instruction by one core: traps, stalls, predication, retirement, loops, and the order between
an instruction and the class D operations that have not finished. -/

namespace Sys2Proof.Machine

open Sys2Proof

/-- What an instruction does once it may issue. -/
inductive Act where
  /-- an undefined field: ILLEGAL (R185) -/
  | ill
  /-- a trap: cause, TRAP_CODE, shared code (0 when the cause has none), TRAP_ADDR -/
  | trap (cause code shared addr : Nat)
  /-- a trap of an access that has been counted in the state given -/
  | trapIn (s : State) (cause code shared addr : Nat)
  /-- a unit fault: sub-page `j`, shared code, detail, and for the packer, whose page defines a context (R375),
  ERR_INFO0 and ERR_INFO1 -/
  | fault (j shared detail info0 info1 : Nat)
  /-- it has issued, and waits for an event -/
  | wait (s : State)
  /-- it has not issued: a register it names or its unit is not ready (R141) -/
  | hold (s : State)
  /-- it completes, and the next instruction follows -/
  | done (s : State)
  /-- a taken branch -/
  | goto (s : State) (pc : DWord)
  /-- it sets the program counter itself -/
  | stay (s : State)
  deriving DecidableEq, Repr

/-- The shared code a trap cause captures (R185); 0 for SOFTWARE and BREAK. -/
def causeCode (cause : Nat) : Nat :=
  match cause with
  | 0x01 | 0x02 | 0x06 | 0x0B | 0x0E => 0x0E
  | 0x03 => 0x03
  | 0x04 => 0x05
  | 0x05 => 0x0A
  | 0x07 => 0x07
  | 0x0A | 0x0D => 0x0B
  | _ => 0

/-- A trap (R184 to R186): the core stops with its state kept; the cause, code, instruction and address are recorded, TRAP
rises, and a cause with a shared code is captured with the cause in DETAIL.  ERR_INFO0 holds the unit's code for UNIT_FAULT;
what it and ERR_INFO1 hold otherwise is not stated and is free (entry 27). -/
def takeTrap (s : State) (c : Fin 16) (w : DWord) (cause code shared addr : Nat) : State :=
  let s := modCore s c (fun k => { k with
    st := .trapped, halted := false, waiting := none, trapValid := true, trapCause := cause,
    trapCode := code % 65536, trapInstr := w, trapAddr := addr % 2 ^ 24 })
  let s := levelIrq s (.core c 0) 2 false
  let s := levelIrq s (.core c 0) 1 true
  if cause = 0x0C then captureOpen1 s (.core c 0) (BitVec.ofNat 8 shared) cause shared
  else captureOpen s (.core c 0) (BitVec.ofNat 8 shared) cause

/-- The loop back-edge of R143: the loop stack and the next instruction index after the instruction at `idx` completed
without being a taken branch; a popped loop leaves an enclosing loop that ends there to its own back-edge. -/
def loopNext (idx : Nat) : List LoopEntry → List LoopEntry × Option Nat
  | [] => ([], none)
  | e :: es =>
    if e.last = idx then
      if e.left = 0 then loopNext idx es else ({ e with left := e.left - 1 } :: es, some e.first)
    else (e :: es, none)

/-- An instruction completes (R192): counters, and the waiting mark is dropped. -/
def retire (s : State) (c : Fin 16) (v : Bool) : State :=
  let s := modCore s c (fun k => { k with waiting := none })
  let s := bump s (.core c 0) 0
  if v then bump s (.core c 0) 6 else s

/-- The program counter moves past an instruction that was no taken branch (R143). -/
def advance (s : State) (c : Fin 16) : State :=
  modCore s c (fun k =>
    let r := loopNext (k.pc.toNat / 8) k.loops
    { k with loops := r.1, pc := match r.2 with
        | some i => BitVec.ofNat 64 (8 * i)
        | none => k.pc + 8 })

/-- A core withholds issue in this frame (R721). -/
def withheld (s : State) : Bool := frameCount s % 8 < s.mgmt.throttle

/-! ## Class D operations in flight -/

/-- The accumulation group a tile or group instruction names, given the value of scalar RD. -/
def groupOf (w : DWord) (rd : DWord) : Option Nat :=
  match fOp w with
  | 0x50 | 0x51 | 0x52 | 0x53 => some (fld rd 4 0)
  | 0x58 | 0x59 => some (fnI w % 32)
  | 0x5A | 0x5B => some (fRd w % 32)
  | 0x5C => some (imm24 w % 32)
  | _ => none

/-- Tile and group operations that write their group. -/
def groupWrites (w : DWord) : Bool :=
  match fOp w with
  | 0x50 | 0x51 | 0x53 | 0x58 | 0x59 | 0x5B => true
  | 0x5C => fnX w = 1
  | _ => false

/-- Class D operations that read or write the scratchpad. -/
def dopSpad (op : Nat) : Bool :=
  op = 0x46 || op = 0x47 || op = 0x51 || op = 0x52 || op = 0x5A || op = 0x5B || op = 0x61 || op = 0x62 ||
    op = 0x68 || op = 0x6C || op = 0x70

/-- Instructions that read or write scratchpad bytes when they issue: loads, stores, gathers and scatters (whose elements
are checked then), EMPLD, SP.THR and FOLD (whose image or descriptor is read then) and messages. -/
def spadAtIssue (op : Nat) : Bool :=
  (0x40 ≤ op && op ≤ 0x47) || op = 0x62 || op = 0x68 || op = 0x70 || (0x78 ≤ op && op ≤ 0x7A)

/-- Two byte ranges, each a start and an end, share a byte. -/
def rangesMeet (x y : Nat × Nat) : Bool := x.1 < y.2 && y.1 < x.2

/-- The bytes a queued accumulation instruction writes to the scratchpad, from its first to its last: the tile of TMOV.OUT,
the records and state map of AG.SAVE (R220, R229, R230). -/
def dopWrites (k : Core) (d : DOp) : Option (Nat × Nat) :=
  match fOp d.w with
  | 0x52 => some (d.ra.toNat,
      d.ra.toNat + fld d.rc 6 0 * d.rb.toNat + (fld d.rc 14 8 + 1) * (dtWidth (dtA d.w) / 8))
  | 0x5A => (mget k.groups (fRd d.w % 32)).map (fun g =>
      let a := (d.ra + BitVec.ofInt 64 (imm32 d.w)).toNat
      (a, a + 2560 * g.blocks + ((if g.double then 8 else 16) * g.blocks + 31) / 32 * 32))
  | _ => none

/-- The bytes a TMMA reads, operand A and operand B (R201). -/
def tmmaReads (k : Core) (w : DWord) : List (Nat × Nat) :=
  let rc := getS k (fRc w)
  let a := (getS k (fRa w)).toNat
  let b := (getS k (fRb w)).toNat
  let l8 := dtA w = 0x4
  [(a, a + fld rc 31 16 * (if l8 then 128 else 256) + (fld rc 6 0 + 1) * (if l8 then 1 else 2)),
   (b, b + fld rc 31 16 * 256 + (fld rc 14 8 + 1) * 2)]

/-- A TMMA waits for queued work on the scratchpad other than accumulation instructions, and for those of them that write
bytes it reads; instructions on other groups do not delay it otherwise (R163, R218). -/
def tmmaHazard (k : Core) (w : DWord) : Bool :=
  k.fold.isSome || k.dops.any (fun d =>
    if 0x50 ≤ fOp d.w && fOp d.w ≤ 0x5C then
      match dopWrites k d with
      | some x => (tmmaReads k w).any (rangesMeet x)
      | none => false
    else dopSpad (fOp d.w))

/-- The entries an AG.OPEN names belong to a group whose AG.CLOSE has not completed (R217). -/
def closingMeet (k : Core) (w : DWord) : Bool :=
  let b := bitsOf (immU w) 15 6
  k.dops.any (fun d => fOp d.w = 0x59 && match mget k.groups (fnI d.w % 32) with
    | some g => rangesMeet (b, b + bitsOf (immU w) 25 16 + 1) (g.base, g.base + g.blocks)
    | none => false)

/-- A pending operation's destination is a register the instruction names (R141, R151). -/
def regHazard (k : Core) (w : DWord) : Bool :=
  let uses := regUses w
  let pend := k.dops.map (·.w) ++ (k.fold.map (·.w)).toList
  pend.any (fun d => (regUses d).any (fun u => u.dest && uses.any (fun x => x.file = u.file && x.num = u.num)))

/-- Order with respect to accumulation groups (R217, R218, R235, R236): earlier writers first; a TMMA or a chain also after
earlier readers; every instruction on a group after an add that waits on it; an AG.OPEN after the AG.CLOSE that frees its
entries. -/
def groupHazard (s : State) (c : Fin 16) (w : DWord) : Bool :=
  let k := getCore s c
  let op := fOp w
  let g := groupOf w (getS k (fRd w))
  let pend := k.dops.filter (fun d => groupOf d.w d.rd = g)
  let arr := op != 0x50 && k.array.any (fun a => g = some a.group)
  g.isSome && (arr || pend.any (fun d => groupWrites d.w) || ((op = 0x50 || op = 0x5C) && !pend.isEmpty) ||
    (op = 0x58 && closingMeet k w) ||
    s.chainAdds.any (fun a => a.dst = c.val && some a.group = g))

/-- An instruction must wait for a class D operation: for its registers, its scratchpad bytes (R163, R269, R289), its
group, its micro-program slot (R282) or an occupied unit. -/
def hazard (s : State) (c : Fin 16) (w : DWord) : Bool :=
  let k := getCore s c
  let op := fOp w
  regHazard k w || groupHazard s c w ||
    (spadAtIssue op && (k.dops.any (fun d => dopSpad (fOp d.w)) || k.fold.isSome)) ||
    (op = 0x50 && tmmaHazard k w) || (op = 0x60 && k.dops.any (fun d => fOp d.w = 0x62)) ||
    (op = 0x61 && k.dops.any (fun d => fOp d.w = 0x61)) ||
    ((op = 0x6B || op = 0x6C) && k.dops.any (fun d => fOp d.w = 0x6B)) || (dopSpad op && k.fold.isSome)

/-- The sub-page of the unit an opcode belongs to, if it is not the core itself. -/
def unitOf (op : Nat) : Option (Fin 6) :=
  if op = 0x48 then some 5
  else if 0x50 ≤ op ∧ op ≤ 0x5C then some 1
  else if 0x60 ≤ op ∧ op ≤ 0x62 then some 2
  else if 0x68 ≤ op ∧ op ≤ 0x70 then some 3
  else if op = 0x74 ∨ op = 0x75 then some 4
  else none

/-- The address RA + IMM24 of format X. -/
def addrX (k : Core) (w : DWord) : Nat := (getS k (fRa w) + BitVec.ofNat 64 (imm24 w)).toNat

/-- What stands in front of the instruction's own effect, first cause first: the unit's page (R102, R103), hazards. -/
def gateUnit (s : State) (c : Fin 16) (w : DWord) (a : Act) : Act :=
  match unitOf (fOp w) with
  | none => if hazard s c w then .hold s else a
  | some j =>
    let p := getPage s (.core c j)
    if p.disabling || p.quiesce then .hold s
    else if !p.enable then .fault j.val 0x0E 0 (if j.val = 4 then addrX (getCore s c) w else 0) 0
    else if hazard s c w then .hold s else a

/-- Whether the instruction's predicate stops it: a scalar-kind instruction whose predicate does not hold has no effect
(R140).  Element-wise vector instructions and BR look at their predicate themselves (R139); VPRED, which names no lanes, is
taken as a scalar instruction (DESIGN CHOICE, entry 114). -/
def laneWise (op : Nat) : Bool :=
  op = 0x10 || (0x20 ≤ op && op ≤ 0x2D) || (0x42 ≤ op && op ≤ 0x47) || op = 0x60 || op = 0x6B

/-- The outcome of an `Act` on the machine. -/
def runAct (s : State) (c : Fin 16) (w : DWord) (v : Bool) (a : Act) : State :=
  match a with
  | .ill => takeTrap s c w 0x01 0 0x0E 0
  | .trap cause code shared addr =>
    let s := if cause = 0x05 then bump s .determinism 6 else s
    takeTrap s c w cause code shared addr
  | .trapIn s' cause code shared addr => takeTrap s' c w cause code shared addr
  | .fault j shared detail i0 i1 =>
    let pg := PageId.core c ⟨j % 6, Nat.mod_lt _ (by decide)⟩
    let s := if j = 4 then captureError s pg (BitVec.ofNat 8 shared) detail i0 i1
      else captureOpen s pg (BitVec.ofNat 8 shared) detail
    takeTrap s c w 0x0C detail shared 0
  | .wait s' =>
    if (getCore s' c).waiting.any (·.issued) then s'
    else modCore s' c (fun k => { k with waiting := some { w := w, issued := true, fires := ctrOf s' .determinism 0 } })
  | .hold s' =>
    if (getCore s' c).waiting.isSome then s' else modCore s' c (fun k => { k with waiting := some { w := w } })
  | .done s' => advance (retire s' c v) c
  | .goto s' pc => modCore (retire s' c v) c (fun k => { k with pc := pc })
  | .stay s' => s'

/-- The instruction may not be offered now: the core is not running, is held by the throttle, or waits on another
instruction. -/
def notIssuing (s : State) (c : Fin 16) (w : DWord) : Bool :=
  let k := getCore s c
  k.st != .running || withheld s || (k.waiting.any (fun x => x.w != w))

/-- Issue of the instruction word `w` by core `c` as the instruction with opcode `op` and sub-function test `fnok`; `v`
says that it carries the V mark; `legal` is the row's own field checks; `a` is its effect.  In order: a word of another
row is not this command (an undefined opcode is ILLEGAL); a PC outside the store; a CONSERVE_FAIL that waits (R317); the
field checks (R147, R152); the V mark (R157, checked only when the instruction first issues, R195); the predicate.
(DESIGN CHOICE, entry 20; DEDUCED, entry 22). -/
def issue (c : Fin 16) (op : Nat) (v legal : Bool) (w : DWord) (s : State) (a : Act) : State :=
  let k := getCore s c
  if notIssuing s c w then s
  else if 0x20000 ≤ k.pc.toNat || k.pc.toNat % 8 != 0 then takeTrap s c w 0x0B 0 0x0E 0
  else if k.pendingTrap.isSome then
    let t := k.pendingTrap.getD (0, 0)
    takeTrap (modCore s c (fun k => { k with pendingTrap := none })) c w 0x0C t.1 t.2 0
  else if !opDefined (fOp w) then takeTrap s c w 0x01 0 0x0E 0
  else if fOp w != op then s
  else if !(legal && regsOk w) then takeTrap s c w 0x01 0 0x0E 0
  else if v && s.pfActive && !k.waiting.any (·.issued) then runAct s c w v (.trap 0x05 0 0x0A 0)
  else if !laneWise op && !predHolds k w then runAct s c w false (.done s)
  else runAct s c w v (gateUnit s c w a)

/-- The effect that writes one scalar register. -/
def doneS (s : State) (c : Fin 16) (r : Nat) (v : DWord) : Act := .done (modCore s c (fun k => setS k r v))

def doneV (s : State) (c : Fin 16) (r : Nat) (v : BitVec 2048) : Act := .done (modCore s c (fun k => setV k r v))

def doneP (s : State) (c : Fin 16) (r : Nat) (v : DWord) : Act := .done (modCore s c (fun k => setP k r v))

/-- Queue a class D operation with the operands it read at issue (R151). -/
def pushD (s : State) (c : Fin 16) (w : DWord) : State :=
  modCore s c (fun k => { k with dops := k.dops ++ [{
    w := w, rd := getS k (fRd w), ra := getS k (fRa w), rb := getS k (fRb w), rc := getS k (fRc w),
    pred := laneMask k w,
    va := if fOp w = 0x46 ∨ fOp w = 0x47 then [getV k (fnM w), getV k (fRd w)]
      else (List.range (if fOp w = 0x6A then fnA w % 32 + 1 else 1)).map (fun i => getV k (fRa w + i)),
    vb := (List.range (if fOp w = 0x6A then fnA w % 32 + 1 else 1)).map (fun i => getV k (fRb w + i)) }] })

/-- Check a scratchpad operand: aligned to `al`, inside the scratchpad and outside the reserved region (R159, R164);
the trap it takes, if any. -/
def spadCheck (s : State) (c : Fin 16) (al a n : Nat) : Option Act :=
  if a % al != 0 then some (.trap 0x02 0 0x0E a)
  else if !spadOk s c a n then some (.trap 0x03 0 0x03 a)
  else none

/-- As `spadCheck`, for an instruction that reads the bytes into a register or an arithmetic unit (R166). -/
def spadReadCheck (s : State) (c : Fin 16) (al a n : Nat) : Option Act :=
  match spadCheck s c al a n with
  | some x => some x
  | none => if spadPoison s c a n then some (.trap 0x04 0 0x05 a) else none

/-- The address RA + OFF of formats M (R146). -/
def addrM (k : Core) (w : DWord) : Nat := (getS k (fRa w) + BitVec.ofInt 64 (imm32 w)).toNat

/-- A core waits on an instruction that a WAIT_TIMEOUT ends (R181, R241). -/
def timeoutApplies (s : State) (c : Fin 16) : Bool :=
  match (getCore s c).waiting with
  | none => false
  | some x =>
    let op := fOp x.w
    (op = 0x14 && s.chainAdds.any (fun a => a.dst = c.val)) || op = 0x78 || op = 0x79 || op = 0x7A || (0x80 ≤ op && op ≤ 0x82) || op = 0x84 || op = 0x89 ||
      s.chainAdds.any (fun a => a.dst = c.val && some a.group = groupOf x.w (getS (getCore s c) (fRd x.w)))

end Sys2Proof.Machine
end

