-- ==== Sys2Proof/Machine/Scalar.lean ====
section
/-! DEFINITION. Scalar arithmetic and control flow of a Heron core (R140 to R144, R152, R156). -/

namespace Sys2Proof.Machine

open Sys2Proof

/-- A scalar result of type `dt` in its register: signed integer types sign-extend, every other type zero-extends
(DESIGN CHOICE, entry 28; the specification does not state the upper bits). -/
def extS (dt n : Nat) : DWord :=
  if dtSigned dt then BitVec.ofInt 64 (sgn (dtWidth dt) n) else BitVec.ofNat 64 (n % 2 ^ dtWidth dt)

/-- FN, DT and the zero field of a format A row that names no FN. (DEDUCED, entry 21). -/
def plainA (w : DWord) : Bool := fnA w = 0 && dtOk (dtA w) && zeroA w

/-- RD ← RA op RB on the low bits of type DT; scalar L8 and E56 operands are taken at scale 0 (entry 28). -/
def scalarArith (op : ArithOp) (c : Fin 16) (w : DWord) (s : State) : Act :=
  let k := getCore s c
  let dt := dtA w
  doneS s c (fRd w) (extS dt (arith op dt 0 (getS k (fRa w)).toNat (getS k (fRb w)).toNat))

/-- ADD (R152). -/
def execAdd (c : Fin 16) (w : DWord) (s : State) : Res :=
  .next (issue c 0x00 false (plainA w) w s (scalarArith .add c w s))

/-- SUB (R152). -/
def execSub (c : Fin 16) (w : DWord) (s : State) : Res :=
  .next (issue c 0x01 false (plainA w) w s (scalarArith .sub c w s))

/-- MUL (R152). -/
def execMul (c : Fin 16) (w : DWord) (s : State) : Res :=
  .next (issue c 0x02 false (plainA w) w s (scalarArith .mul c w s))

/-- LOGIC (R152): the whole 64-bit registers. -/
def execLogic (c : Fin 16) (w : DWord) (s : State) : Res :=
  let k := getCore s c
  .next (issue c 0x03 false (fnA w < 4 && dtOk (dtA w) && zeroA w) w s
    (doneS s c (fRd w)
      (BitVec.ofNat 64 (logicOp (fnA w) 64 (getS k (fRa w)).toNat (getS k (fRb w)).toNat))))

/-- SHIFT (R152): the whole 64-bit register, by RB[5:0]. -/
def execShift (c : Fin 16) (w : DWord) (s : State) : Res :=
  let k := getCore s c
  .next (issue c 0x04 false (fnA w < 3 && dtOk (dtA w) && zeroA w) w s
    (doneS s c (fRd w)
      (BitVec.ofNat 64 (shiftOp (fnA w) 64 (getS k (fRa w)).toNat (getS k (fRb w)).toNat))))

/-- ADDI (R152). -/
def execAddi (c : Fin 16) (w : DWord) (s : State) : Res :=
  .next (issue c 0x05 false (fnI w = 0) w s
    (doneS s c (fRd w) (getS (getCore s c) (fRa w) + BitVec.ofInt 64 (imm32 w))))

/-- CMP (R152): all ones or zero in predicate RD. -/
def execCmp (c : Fin 16) (w : DWord) (s : State) : Res :=
  let k := getCore s c
  .next (issue c 0x06 false (fnA w < 6 && dtOk (dtA w) && zeroA w) w s
    (doneP s c (fRd w)
      (predOf (cmpOp (fnA w) (dtA w) 0 (getS k (fRa w)).toNat (getS k (fRb w)).toNat))))

/-- SELECT (R152): by bit 0 of predicate RC. -/
def execSelect (c : Fin 16) (w : DWord) (s : State) : Res :=
  let k := getCore s c
  .next (issue c 0x07 false (plainA w) w s
    (doneS s c (fRd w) (if (getP k (fRc w)).toNat.testBit 0 then getS k (fRa w) else getS k (fRb w))))

/-- MOVI (R152): FN 0 writes the sign-extended immediate, FN 1 its 32 bits into the high half. -/
def execMovi (c : Fin 16) (w : DWord) (s : State) : Res :=
  let k := getCore s c
  .next (issue c 0x09 false (fnI w < 2) w s
    (doneS s c (fRd w)
      (if fnI w = 0 then BitVec.ofInt 64 (imm32 w)
       else BitVec.ofNat 64 (immU w * 2 ^ 32 + fld (getS k (fRd w)) 31 0))))

/-- The special registers of RDSR (R156); FN 0x06 as a byte address. -/
def specialReg (s : State) (c : Fin 16) (fn : Nat) : DWord :=
  let p := partOfCore s c
  match fn with
  | 0x00 => BitVec.ofNat 64 (partLogical s c)
  | 0x01 => BitVec.ofNat 64 (partCount s p)
  | 0x02 => BitVec.ofNat 64 (chipId s)
  | 0x03 => BitVec.ofNat 64 p
  | 0x04 => s.mode.setWidth 64
  | 0x05 => BitVec.ofNat 64 (bit01 s.pfActive)
  | _ => (getCore s c).runPc

/-- RDSR (R156). -/
def execRdsr (c : Fin 16) (w : DWord) (s : State) : Res :=
  .next (issue c 0x0A false (fnI w < 7) w s (doneS s c (fRd w) (specialReg s c (fnI w))))

/-- RDCYC (R152): the CCLK cycles since the core started, by the model's clock (DESIGN CHOICE, entry 29). -/
def execRdcyc (c : Fin 16) (w : DWord) (s : State) : Res :=
  .next (issue c 0x0B true (fnI w = 0) w s (doneS s c (fRd w) (getCore s c).cycles))

/-- PC + 8 × DISP (R146). -/
def branchTarget (k : Core) (w : DWord) : DWord := k.pc + BitVec.ofInt 64 (8 * imm32 w)

/-- BR (R152): taken if the predicate holds. -/
def execBr (c : Fin 16) (w : DWord) (s : State) : Res :=
  let k := getCore s c
  .next (issue c 0x10 false (fnB w = 0 && zeroB w) w s
    (if predHolds k w then .goto s (branchTarget k w) else .done s))

/-- CALL (R152): s31 takes the return address. -/
def execCall (c : Fin 16) (w : DWord) (s : State) : Res :=
  let k := getCore s c
  .next (issue c 0x11 false (fnB w = 0 && zeroB w) w s
    (.goto (modCore s c (fun k => setS k 31 (k.pc + 8))) (branchTarget k w)))

/-- JR (R152); an address that is no multiple of 8, or beyond the store, meets INSTR_RANGE at the next instruction. -/
def execJr (c : Fin 16) (w : DWord) (s : State) : Res :=
  .next (issue c 0x12 false (fnB w = 0 && zeroB w) w s (.goto s (getS (getCore s c) (fRd w))))

/-- The effect of LOOP with FN 0 (R143, R144): `idx` is the instruction index of the LOOP. -/
def loopAct (c : Fin 16) (w : DWord) (s : State) : Act :=
  let k := getCore s c
  let n := getS k (fRd w)
  let idx := k.pc.toNat / 8
  let disp := immU w
  let first := idx + 1
  let last := idx + disp
  let inside := match k.loops with
    | [] => true
    | e :: _ => e.first ≤ first && last ≤ e.last
  if 4 ≤ k.loops.length || !inside || 16384 ≤ last then .trap 0x0E 0 0x0E 0
  else if n = 0 then
    -- the body is skipped; an enclosing body that ends there has completed (entry 30)
    let r := loopNext last k.loops
    .goto (modCore s c (fun k => { k with loops := r.1 })) (BitVec.ofNat 64 (8 * r.2.getD (last + 1)))
  else .goto (modCore s c (fun k => { k with loops := ⟨first, last, n - 1⟩ :: k.loops })) (k.pc + 8)

/-- LOOP (R143). A word with FN 1 belongs to LOOP.POP. -/
def execLoop (c : Fin 16) (w : DWord) (s : State) : Res :=
  .next (if fOp w = 0x13 && fnB w = 1 then s else
    issue c 0x13 false (fnB w = 0 && zeroB w && 1 ≤ immU w && immU w ≤ 16383) w s (loopAct c w s))

/-- LOOP.POP (R144). A word with FN 0 belongs to LOOP. -/
def execLoopPop (c : Fin 16) (w : DWord) (s : State) : Res :=
  .next (if fOp w = 0x13 && fnB w = 0 then s else
    issue c 0x13 false (fnB w = 1 && zeroB w && fRd w = 0 && immU w = 0) w s
      (match (getCore s c).loops with
        | [] => .trap 0x0E 0 0x0E 0
        | _ :: es => .done (modCore s c (fun k => { k with loops := es }))))

/-! ## Class E operations of a core -/

/-- DMA descriptors of a core that have not completed. -/
def dmaBusy (k : Core) : Bool := k.dmaQ.toList.any (fun q => !q.isEmpty)

/-- A core's flight contexts whose operation has not completed. -/
def postsBusy (s : State) (c : Fin 16) : Bool :=
  s.ctxs.any (fun x => x.2.owner = .core c.val && x.2.result.isNone)

/-- Messages a core has sent that are not in their receiver's queue (R180). -/
def sendsBusy (s : State) (c : Fin 16) : Bool := s.mesh.any (fun m => m.src = c.val)

/-- Chain transfers a core sends or adds that are in flight; an add that still waits for its send is not (entry 31). -/
def chainsBusy (s : State) (c : Fin 16) : Bool :=
  s.chains.any (fun x => x.src = c.val ||
    (x.dst = c.val && s.chainAdds.any (fun a => a.src = x.src && a.dst = x.dst && a.chan = x.chan)))

/-- A chain add of the core has not completed, its send made or not (R151, R236). -/
def addsBusy (s : State) (c : Fin 16) : Bool := s.chainAdds.any (fun a => a.dst = c.val)

/-- Some class E operation of the core is in flight (R151); an add whose send has not been made is not (entry 31). -/
def classEBusy (s : State) (c : Fin 16) : Bool :=
  dmaBusy (getCore s c) || postsBusy s c || sendsBusy s c || chainsBusy s c

/-- The core stops through HALT: IDLE, and HALTED rises (R192). -/
def haltCore (s : State) (c : Fin 16) : State :=
  levelIrq (modCore s c (fun k => { k with st := .idle, halted := true, waiting := none })) (.core c 0) 2 true

/-- A HALT of the core waits: some class E operation has not completed, an unmatched chain add included (R151, R152). -/
def haltWaits (s : State) (c : Fin 16) : Bool := classEBusy s c || addsBusy s c

/-- HALT (R152): stops at once if no class E operation is outstanding, else HALTING. -/
def execHalt (c : Fin 16) (w : DWord) (s : State) : Res :=
  .next (issue c 0x14 false (fnB w = 0 && zeroB w) w s
    (if haltWaits s c then
      .stay (modCore s c (fun k => { k with st := .halting, waiting := some { w := w, issued := true } }))
     else .stay (haltCore (retire s c false) c)))

/-- HALT_COMPLETE (R192): nothing until the awaited operations have completed. -/
def execHaltComplete (c : Fin 16) (s : State) : Res :=
  .next (if (getCore s c).st = .halting && !haltWaits s c then haltCore (retire s c false) c else s)

end Sys2Proof.Machine
end

