-- ==== Sys2Proof/Machine/Vector.lean ====
section
/-! DEFINITION. Vector instructions of a Heron core (R138, R139, R149, R152, R153). -/

namespace Sys2Proof.Machine

open Sys2Proof

/-- Element-wise result of two vector operands under the lane mask. -/
def vec2 (c : Fin 16) (w : DWord) (s : State) (f : Nat → Nat → Nat) : Act :=
  let k := getCore s c
  let n := dtWidth (dtA w)
  let a := getV k (fRa w)
  let b := getV k (fRb w)
  doneV s c (fRd w) (vmap n (laneMask k w) (getV k (fRd w)) (fun j => f (elem n a j) (elem n b j)))

/-- A vector row of format A that names no FN: any vector type. -/
def vecA (w : DWord) : Bool := fnA w = 0 && dtVec (dtA w) && zeroA w

def vecArith (op : ArithOp) (c : Fin 16) (w : DWord) (s : State) : Act :=
  vec2 c w s (arith op (dtA w) (scaleOf (getCore s c) (fRc w)))

/-- VADD (R152). -/
def execVadd (c : Fin 16) (w : DWord) (s : State) : Res :=
  .next (issue c 0x20 false (vecA w) w s (vecArith .add c w s))

/-- VSUB (R152). -/
def execVsub (c : Fin 16) (w : DWord) (s : State) : Res :=
  .next (issue c 0x21 false (vecA w) w s (vecArith .sub c w s))

/-- VMUL (R152): for L16 the product of R29, converted by R58; for L8 the same rule in the log domain (entry 24). -/
def execVmul (c : Fin 16) (w : DWord) (s : State) : Res :=
  .next (issue c 0x22 false (vecA w) w s (vecArith .mul c w s))

/-- VFMA (R152): IEEE types only, rounded once. -/
def execVfma (c : Fin 16) (w : DWord) (s : State) : Res :=
  let k := getCore s c
  let n := dtWidth (dtA w)
  .next (issue c 0x23 false (fnA w = 0 && dtIeee (dtA w) && zeroA w) w s
    (doneV s c (fRd w) (vmap n (laneMask k w) (getV k (fRd w)) (fun j =>
      fma (dtA w) (elem n (getV k (fRa w)) j) (elem n (getV k (fRb w)) j) (elem n (getV k (fRc w)) j)))))

/-- VMINMAX (R152): FN 0 min, 1 max, 2 larger magnitude. -/
def execVminmax (c : Fin 16) (w : DWord) (s : State) : Res :=
  .next (issue c 0x24 false (fnA w < 3 && dtVec (dtA w) && zeroA w) w s
    (vec2 c w s (minmaxOp (fnA w) (dtA w) (scaleOf (getCore s c) (fRc w)))))

/-- Absolute value and negation of one element (R150, R56): L formats and IEEE types change the sign, zero stays positive
and NaR stays NaR; integers wrap. -/
def unaryOp (fn dt : Nat) (a : Nat) : Nat :=
  let w := dtWidth dt
  if dtInt dt then
    let v := sgn w a
    if fn = 0 then (if dtSigned dt then wrap w v.natAbs else a % 2 ^ w) else wrap w (-v)
  else if (valOf dt 0 a).isNan then nanBits dt
  else if (valOf dt 0 a).isZero then 0
  else
    let m := a % 2 ^ (w - 1)
    if fn = 0 then m else if a.testBit (w - 1) then m else m + 2 ^ (w - 1)

/-- VUNARY (R152): FN 0 absolute value, 1 negate. -/
def execVunary (c : Fin 16) (w : DWord) (s : State) : Res :=
  let k := getCore s c
  let n := dtWidth (dtA w)
  .next (issue c 0x25 false (fnA w < 2 && dtVec (dtA w) && zeroA w) w s
    (doneV s c (fRd w) (vmap n (laneMask k w) (getV k (fRd w))
      (fun j => unaryOp (fnA w) (dtA w) (elem n (getV k (fRa w)) j)))))

/-- One predicate bit per lane: the lane compares true when every element in it does (DESIGN CHOICE for 16- and 8-bit
types, entry 32); lanes the mask excludes keep their bit. -/
def vcmpBits (fn dt : Nat) (sc : Int) (mask : DWord) (old : DWord) (a b : BitVec 2048) : DWord :=
  let n := dtWidth dt
  let per := 32 / n
  BitVec.ofNat 64 (((List.range 64).map (fun i =>
    let bit := if mask.toNat.testBit i then
        (List.range per).all (fun j => cmpOp fn dt sc (elem n a (i * per + j)) (elem n b (i * per + j)))
      else old.toNat.testBit i
    bit01 bit * 2 ^ i)).sum)

/-- VCMP (R152). -/
def execVcmp (c : Fin 16) (w : DWord) (s : State) : Res :=
  let k := getCore s c
  .next (issue c 0x26 false (fnA w < 6 && dtVec (dtA w) && zeroA w) w s
    (doneP s c (fRd w) (vcmpBits (fnA w) (dtA w) (scaleOf k (fRc w)) (laneMask k w) (getP k (fRd w))
      (getV k (fRa w)) (getV k (fRb w)))))

/-- VSEL (R152): RD ← RA where predicate RC is set, else RB. -/
def execVsel (c : Fin 16) (w : DWord) (s : State) : Res :=
  let k := getCore s c
  let n := dtWidth (dtA w)
  let p := getP k (fRc w)
  .next (issue c 0x27 false (vecA w) w s
    (doneV s c (fRd w) (vmap n (laneMask k w) (getV k (fRd w)) (fun j =>
      if p.toNat.testBit (laneOf n j) then elem n (getV k (fRa w)) j else elem n (getV k (fRb w)) j))))

/-- One element of VCVT: L8 uses the scale of RC on either side; L8 to L16 widens (R36, R37); between IEEE types as IEEE
754 (R61), from an L format as R60; from an integer to an IEEE type as IEEE 754 too, with an infinity beyond the largest
finite value (DESIGN CHOICE, entry 112). -/
def cvtElem (dt ty : Nat) (sc : Int) (a : Nat) : Nat :=
  if dt = 0x4 ∧ ty = 0x3 then (widenL8 sc a).1
  else (encOf ty sc (!(dtIeee dt) && !(dtInt dt)) (valOf dt sc a)).bits

/-- VCVT (R152): element j is converted to element j, below both counts; the rest keep their value (DESIGN CHOICE,
entry 33). -/
def execVcvt (c : Fin 16) (w : DWord) (s : State) : Res :=
  let k := getCore s c
  let n := dtWidth (dtA w)
  let ty := fnA w
  let m := dtWidth ty
  let old := getV k (fRd w)
  let mask := laneMask k w
  .next (issue c 0x28 false (dtVec (dtA w) && dtVec ty && fnA w < 16 && zeroA w) w s
    (doneV s c (fRd w) (ofElems m ((List.range (elems m)).map (fun j =>
      if j < elems n && mask.toNat.testBit (laneOf m j) then
        cvtElem (dtA w) ty (scaleOf k (fRc w)) (elem n (getV k (fRa w)) j)
      else elem m old j)))))

/-- VBCAST (R152): the low bits of scalar RA in every element. -/
def execVbcast (c : Fin 16) (w : DWord) (s : State) : Res :=
  let k := getCore s c
  let n := dtWidth (dtA w)
  .next (issue c 0x29 false (vecA w) w s
    (doneV s c (fRd w) (vmap n (laneMask k w) (getV k (fRd w)) (fun _ => (getS k (fRa w)).toNat % 2 ^ n))))

/-- VPERM (R152): whole lanes. -/
def execVperm (c : Fin 16) (w : DWord) (s : State) : Res :=
  let k := getCore s c
  .next (issue c 0x2A false (vecA w) w s
    (doneV s c (fRd w) (vmap 32 (laneMask k w) (getV k (fRd w)) (fun i =>
      elem 32 (getV k (fRa w)) (elem 32 (getV k (fRb w)) i % 64)))))

/-- One element of VBITS: FN 0 to 3 as LOGIC, 4 to 6 as SHIFT. -/
def vbitsOp (fn dt a b : Nat) : Nat :=
  if fn < 4 then logicOp fn (dtWidth dt) a b else shiftOp (fn - 4) (dtWidth dt) a b

/-- VBITS (R152). -/
def execVbits (c : Fin 16) (w : DWord) (s : State) : Res :=
  .next (issue c 0x2B false (fnA w < 7 && dtVec (dtA w) && zeroA w) w s
    (vec2 c w s (vbitsOp (fnA w) (dtA w))))

/-- Exact sum of values: a dyadic number, or not a real when any term is not a number (R54, R153). -/
def sumVals (vs : List Val) : Val :=
  vs.foldl (fun acc v => match acc, v with
    | .num m₁ e₁, .num m₂ e₂ => let p := dyAdd m₁ e₁ m₂ e₂; .num p.1 p.2
    | _, _ => .nan) (.num 0 0)

/-- An element as a unit writes it by itself: no negative zero, the one NaN of its type (R56, R57). -/
def ownElem (dt a : Nat) : Nat := if (valOf dt 0 a).isNan then nanBits dt else plusZero dt a

/-- VRED on the governed elements: FN 0 the exact sum rounded once (R63, R153) or the wrapped integer sum, 1 minimum,
2 maximum; the sum of no element is 0, its minimum or maximum is free (entry 34). -/
def vredOp (fn dt : Nat) (sc : Int) (es : List Nat) : Nat :=
  if fn = 0 then
    (if dtInt dt then wrap (dtWidth dt) ((es.map (fun e => sgn (dtWidth dt) e)).sum)
     else (encOf dt sc true (sumVals (es.map (valOf dt sc)))).bits)
  else match es with
    | [] => (Config.emptyReduce fn dt).toNat
    | e :: rest => rest.foldl (minmaxOp (fn - 1) dt sc) (ownElem dt e)

/-- The scales at which a tensor enters a single-long (R52). -/
def scaleFits (sc : Int) : Bool := -112 ≤ sc && sc ≤ 119

/-- VRED (R152, R153).  A sum of L8 at a scale outside R52 ends in UNSUPPORTED with no effect; that it does so by a
UNIT_FAULT trap is deduced (DEDUCED, entry 113). -/
def execVred (c : Fin 16) (w : DWord) (s : State) : Res :=
  let k := getCore s c
  let n := dtWidth (dtA w)
  let es := (active n (laneMask k w)).map (elem n (getV k (fRa w)))
  let sc := scaleOf k (fRc w)
  .next (issue c 0x2C false (fnA w < 3 && dtVec (dtA w) && zeroA w) w s
    (if dtA w = 0x4 && fnA w = 0 && !scaleFits sc then .trap 0x0C 0 0x0E 0
     else doneS s c (fRd w) (extS (dtA w) (vredOp (fnA w) (dtA w) sc es))))

/-- VIDX (R152): int32 elements j + IMM (the row has no DT; DESIGN CHOICE, entry 35). -/
def execVidx (c : Fin 16) (w : DWord) (s : State) : Res :=
  let k := getCore s c
  .next (issue c 0x2D false (fnI w = 0) w s
    (doneV s c (fRd w) (vmap 32 (laneMask k w) (getV k (fRd w)) (fun j => wrap 32 ((j : Int) + imm32 w)))))

/-- VPRED (R152): FN 0 AND, 1 OR, 2 NOT on predicates, 3 population count into scalar RD. -/
def execVpred (c : Fin 16) (w : DWord) (s : State) : Res :=
  let k := getCore s c
  let a := getP k (fRa w)
  let b := getP k (fRb w)
  .next (issue c 0x2E false (fnA w < 4 && dtVec (dtA w) && zeroA w) w s
    (match fnA w with
      | 0 => doneP s c (fRd w) (a &&& b)
      | 1 => doneP s c (fRd w) (a ||| b)
      | 2 => doneP s c (fRd w) (~~~a)
      | _ => doneS s c (fRd w) (BitVec.ofNat 64 (popCount a.toNat 64))))

end Sys2Proof.Machine
end

