-- ==== Sys2Proof/Machine/Scratch.lean ====
section
/-! DEFINITION. Loads and stores of the scratchpad (R158 to R167). -/

namespace Sys2Proof.Machine

open Sys2Proof

/-- Bytes of an element in memory: an E56 word takes 7 (R38). -/
def dtBytes (dt : Nat) : Nat := dtWidth dt / 8

/-- FN of a vector row of format M that names none: 0, or the scale register of L8 (R149). -/
def fnMok (w : DWord) : Bool := fnM w = 0 || dtM w = 0x4

/-- LD (R152, R159): an E56 word is aligned to its 7 B in memory (R38; DEDUCED, entry 36). -/
def execLd (c : Fin 16) (w : DWord) (s : State) : Res :=
  let k := getCore s c
  let dt := dtM w
  let a := addrM k w
  .next (issue c 0x40 false (fnM w = 0 && dtOk dt) w s
    (match spadReadCheck s c (dtBytes dt) a (dtBytes dt) with
      | some t => t
      | none => doneS s c (fRd w) (extS dt (k.spad.readLE a (dtBytes dt)))))

/-- ST (R152, R159). -/
def execSt (c : Fin 16) (w : DWord) (s : State) : Res :=
  let k := getCore s c
  let dt := dtM w
  let a := addrM k w
  .next (issue c 0x41 false (fnM w = 0 && dtOk dt) w s
    (match spadCheck s c (dtBytes dt) a (dtBytes dt) with
      | some t => t
      | none => .done (spadWrite s c a (leBytes (dtBytes dt) (getS k (fRd w)).toNat))))

/-- The first trap among element accesses of `n` bytes, in element order (R139: only governed elements). -/
def firstTrap (s : State) (c : Fin 16) (rd : Bool) (n : Nat) : List Nat → Option Act
  | [] => none
  | a :: as =>
    match if rd then spadReadCheck s c n a n else spadCheck s c n a n with
    | some t => some t
    | none => firstTrap s c rd n as

/-- A vector whose governed elements are read from memory; `addr j` is the address of element `j`. -/
def gatherV (m : Memory) (n : Nat) (mask : DWord) (old : BitVec 2048) (addr : Nat → Nat) : BitVec 2048 :=
  vmap (8 * n) mask old (fun j => m.readLE (addr j) n)

/-- Clear the mark of every bank word all of whose bytes lie in the spans (start, length) an instruction has stored (R167). -/
def clearWhole (m : Memory) (l : List (Nat × Nat)) : Memory :=
  { m with marks := m.marks.filter (fun g =>
      !(List.range 32).all (fun i => l.any (fun x => x.1 ≤ 32 * g + i && 32 * g + i < x.1 + x.2))) }

/-- Store elements in ascending order, so that the highest lane wins (R162), and clear the mark of every bank word all
of whose bytes are written (R167). -/
def scatterV (m : Memory) (n : Nat) (mask : DWord) (v : BitVec 2048) (addr : Nat → Nat) : Memory :=
  let js := active (8 * n) mask
  let m' := js.foldl (fun m j => m.writeLE (addr j) n (elem (8 * n) v j)) m
  clearWhole m' (js.map (fun j => (addr j, n)))

/-- A vector load whose element `j` lies at `addr j`. -/
def loadAct (c : Fin 16) (w : DWord) (s : State) (addr : Nat → Nat) : Act :=
  let k := getCore s c
  let n := dtBytes (dtM w)
  let mask := laneMask k w
  match firstTrap s c true n ((active (8 * n) mask).map addr) with
  | some t => t
  | none => doneV s c (fRd w) (gatherV k.spad n mask (getV k (fRd w)) addr)

/-- A vector store whose element `j` lies at `addr j`. -/
def storeAct (c : Fin 16) (w : DWord) (s : State) (addr : Nat → Nat) : Act :=
  let k := getCore s c
  let n := dtBytes (dtM w)
  let mask := laneMask k w
  match firstTrap s c false n ((active (8 * n) mask).map addr) with
  | some t => t
  | none => .done (modCore s c (fun k => { k with spad := scatterV k.spad n mask (getV k (fRd w)) addr }))

/-- Address of element `j` of a contiguous access. -/
def unitAddr (k : Core) (w : DWord) (j : Nat) : Nat := addrM k w + dtBytes (dtM w) * j

/-- Address of element `j` of a strided access: the stride in bytes, signed, in scalar FN. -/
def strideAddr (k : Core) (w : DWord) (j : Nat) : Nat :=
  (BitVec.ofNat 64 (addrM k w) + BitVec.ofInt 64 (sgn 64 (getS k (fnM w)).toNat * j)).toNat

/-- Address of element `j` of a gather or scatter: RA + OFF + element j of vector FN, unsigned (entry 37). -/
def indexAddr (base : Nat) (n : Nat) (v : BitVec 2048) (j : Nat) : Nat := base + elem (8 * n) v j

/-- VLD (R152, R159). -/
def execVld (c : Fin 16) (w : DWord) (s : State) : Res :=
  .next (issue c 0x42 false (fnMok w && dtVec (dtM w)) w s (loadAct c w s (unitAddr (getCore s c) w)))

/-- VST (R152, R159). -/
def execVst (c : Fin 16) (w : DWord) (s : State) : Res :=
  .next (issue c 0x43 false (fnMok w && dtVec (dtM w)) w s (storeAct c w s (unitAddr (getCore s c) w)))

/-- VLDS (R152). -/
def execVlds (c : Fin 16) (w : DWord) (s : State) : Res :=
  .next (issue c 0x44 false (dtVec (dtM w)) w s (loadAct c w s (strideAddr (getCore s c) w)))

/-- VSTS (R152). -/
def execVsts (c : Fin 16) (w : DWord) (s : State) : Res :=
  .next (issue c 0x45 false (dtVec (dtM w)) w s (storeAct c w s (strideAddr (getCore s c) w)))

/-- Issue of a gather or scatter (class D): checked at issue, queued for its completion (R151). -/
def indexAct (c : Fin 16) (w : DWord) (s : State) (rd : Bool) : Act :=
  let k := getCore s c
  let n := dtBytes (dtM w)
  let v := getV k (fnM w)
  match firstTrap s c rd n ((active (8 * n) (laneMask k w)).map (indexAddr (addrM k w) n v)) with
  | some t => t
  | none => .done (pushD s c w)

/-- VGATHER (R152, R162). -/
def execVgather (c : Fin 16) (w : DWord) (s : State) : Res :=
  .next (issue c 0x46 false (dtVec (dtM w)) w s (indexAct c w s true))

/-- VSCATTER (R152, R162). -/
def execVscatter (c : Fin 16) (w : DWord) (s : State) : Res :=
  .next (issue c 0x47 false (dtVec (dtM w)) w s (indexAct c w s false))

/-- Completion of a gather or scatter with the operands it read at issue. -/
def finishIndexed (s : State) (c : Fin 16) (d : DOp) : State :=
  let n := dtBytes (dtM d.w)
  let base := (d.ra + BitVec.ofInt 64 (imm32 d.w)).toNat
  let addr := indexAddr base n (d.va.getD 0 0)
  if fOp d.w = 0x46 then
    modCore s c (fun k => setV k (fRd d.w) (gatherV k.spad n d.pred (d.va.getD 1 0) addr))
  else modCore s c (fun k => { k with spad := scatterV k.spad n d.pred (d.va.getD 1 0) addr })

end Sys2Proof.Machine
end

