-- ==== Sys2Proof/Machine/Access.lean ====
section
/-! DEFINITION. Accesses by engines to the three device address spaces: 0 a core's scratchpad, 1 partition HBM, 2 control
memory (R170, R172, R602). -/

namespace Sys2Proof.Machine

open Sys2Proof

/-- Some HBM controller under the range is disabled (R103). -/
def hbmDisabledIn (s : State) (p a n : Nat) : Bool :=
  (granules 512 a n).any (fun g => !(getPage s (.hbm (stackFin (hbmLoc s p g.1).1))).enable)

/-- Some slice under the range is disabled (R103). -/
def cmDisabledIn (s : State) (a n : Nat) : Bool :=
  (granules 64 a n).any (fun g => !(getPage s (.slice (sliceFin (cmHome s (g.1 / 64))))).enable)

/-- Whether a range may be accessed: OK, PROTECTION (R172, R605, R638), FENCED (R634, R652) or, where a controller or slice
under it is disabled, UNSUPPORTED (R103), the first that applies. -/
def devCheck (s : State) (core : Option (Fin 16)) (p space a n : Nat) (write : Bool) : Byte :=
  match space with
  | 0 => match core with
    | some c => if spadOk s c a n then stOk else stProtection
    | none => stProtection
  | 1 => if !hbmInside s p a n then stProtection else if hbmFencedIn s p a n then stFenced
    else if hbmDisabledIn s p a n then stUnsupported else stOk
  | 2 => if !cmMayRange s p a n write then stProtection else if cmFencedIn s a n then stFenced
    else if cmDisabledIn s a n then stUnsupported else stOk
  | _ => stProtection

/-- A fenced stack answers a request (R634): FENCED_REQUESTS of the first fenced stack under the range. -/
def countFenced (s : State) (p space a n : Nat) : State :=
  if space = 1 then
    match (granules 512 a n).find? (fun g => stackFenced s (hbmLoc s p g.1).1) with
    | some g => bump s (.hbm (stackFin (hbmLoc s p g.1).1)) 8
    | none => s
  else s

/-- Read a range that `devCheck` allows, with its poison marks. -/
def devRead (s : State) (core : Option (Fin 16)) (p space a n : Nat) : List PByte × State :=
  match space with
  | 0 => (core.elim (List.replicate n (0, false)) (fun c => spadReadP s c a n), s)
  | 1 => hbmRead s p a n
  | _ => (cmRead s a n, cmMeet s a n)

/-- Write a range that `devCheck` allows. -/
def devWrite (s : State) (core : Option (Fin 16)) (p space a : Nat) (bs : List PByte) : State :=
  match space with
  | 0 => core.elim s (fun c => spadWriteP s c a bs)
  | 1 => hbmWrite s p a bs
  | _ => cmWrite s a bs

/-- Granule of the poison marks of a space. -/
def spaceGran (space : Nat) : Nat := if space = 0 then 32 else 64

/-- Poisoned bank words or lines among `n` bytes at `a` of a read with marks. -/
def markedGrans (space a : Nat) (bs : List PByte) : Nat :=
  ((granules (spaceGran space) a bs.length).filter (fun g => anyMark ((bs.drop (g.1 - a)).take g.2))).length

end Sys2Proof.Machine
end

