-- ==== Sys2Proof/Machine/Dma.lean ====
section
/-! DEFINITION. The DMA engines of a core (R168 to R173, R193). -/

namespace Sys2Proof.Machine

open Sys2Proof

/-- Address and space of one side of a descriptor (R170). -/
def dmaAddr (d : BitVec 256) (side : Nat) : Nat := fld d (64 * side + 59) (64 * side)
def dmaSpace (d : BitVec 256) (side : Nat) : Nat := fld d (64 * side + 63) (64 * side + 62)
def dmaRowBytes (d : BitVec 256) : Nat := fld d 159 128
def dmaRows (d : BitVec 256) : Nat := fld d 191 160
def dmaStride (d : BitVec 256) (side : Nat) : Nat := fld d (192 + 32 * side + 31) (192 + 32 * side)

/-- ROW_BYTES and ROWS are in range (R170, R172). -/
def dmaShapeOk (d : BitVec 256) : Bool :=
  0 < dmaRowBytes d && dmaRowBytes d ≤ 0x1000000 && 0 < dmaRows d && dmaRows d ≤ 65536

/-- Address of row `r` of one side. -/
def dmaRowAddr (d : BitVec 256) (side r : Nat) : Nat := dmaAddr d side + r * dmaStride d side

/-- Every scratchpad row of a descriptor lies where the core may address (R164). -/
def dmaSpadOk (s : State) (c : Fin 16) (d : BitVec 256) : Bool :=
  [0, 1].all (fun side => dmaSpace d side != 0 ||
    (List.range (dmaRows d)).all (fun r => spadOk s c (dmaRowAddr d side r) (dmaRowBytes d)))

/-- The start of the first scratchpad row that the core may not address, the source's before the destination's. -/
def dmaSpadBad (s : State) (c : Fin 16) (d : BitVec 256) : Nat :=
  let bad := fun (side : Nat) => if dmaSpace d side != 0 then none else
    ((List.range (dmaRows d)).find? (fun r => !spadOk s c (dmaRowAddr d side r) (dmaRowBytes d))).map (dmaRowAddr d side)
  match bad 0 with
  | some a => a
  | none => (bad 1).getD 0

/-- The lowest queue slot of an engine whose tag is free (R169). -/
def dmaFreeSlot (k : Core) (e : Nat) : Option Nat :=
  (List.range 16).find? (fun i => (mget k.dmaTags (16 * e + i)).isNone)

/-- The oldest descriptor of an engine starts. -/
def dmaHead : List DmaJob → List DmaJob
  | [] => []
  | j :: q => { j with started := true } :: q

/-- Engines that are not quiesced start the descriptors at the head of their queues (R102). -/
def dmaStart (s : State) (c : Fin 16) : State :=
  if quiesced (getPage s (.core c 5)) then s else modCore s c (fun k => { k with dmaQ := k.dmaQ.map dmaHead })

def engFin (e : Nat) : Fin 4 := ⟨e % 4, Nat.mod_lt _ (by decide)⟩

/-- DMA.GO (R168 to R170): the descriptor is read at issue, and one in a poisoned bank word traps with POISON (DESIGN
CHOICE, entry 38); issue waits while no tag of the engine is free. -/
def execDmaGo (c : Fin 16) (w : DWord) (s : State) : Res :=
  let k := getCore s c
  let a := (getS k (fRa w)).toNat
  let e := fnX w % 4
  let d := BitVec.ofNat 256 (leNat (spadRead s c a 32))
  .next (issue c 0x48 false (fnX w < 4) w s
    (match spadReadCheck s c 32 a 32 with
      | some t => t
      | none =>
        if dmaShapeOk d && !dmaSpadOk s c d then .trap 0x03 0 0x03 (dmaSpadBad s c d)
        else match dmaFreeSlot k e with
          | none => .wait s
          | some i => .done (dmaStart (modCore s c (fun k =>
              let q := k.dmaQ[engFin e]
              setS { k with dmaQ := k.dmaQ.set (engFin e) (q ++ [⟨d, i, false⟩]),
                            dmaTags := mput k.dmaTags (16 * e + i) .pending } (fRd w)
                (BitVec.ofNat 64 (16 * e + i)))) c)))

/-- The failing address of a refused range: the first byte that meets the code (R193).  Every boundary of R164, R605, R624
and R638 is a multiple of 64. -/
def devBadAt (s : State) (core : Option (Fin 16)) (p space a n : Nat) (write : Bool) (code : Byte) : Nat :=
  ((granules 64 a n).find? (fun g => devCheck s core p space g.1 g.2 write = code)).elim a (·.1)

/-- The first poisoned byte of a range read with its marks. -/
def markedAt (a : Nat) (bs : List PByte) : Nat := a + (bs.takeWhile (fun b => !b.2)).length

/-- Copy the rows from `r` on: each row is read whole before it is written; the first refused row ends the transfer
with its code and failing address.  Answers the state, code, address (of the first poisoned source byte for POISON), bytes
moved and poisoned granules. -/
def dmaRun (c : Fin 16) (p : Nat) (d : BitVec 256) : Nat → Nat → State → Nat → Nat → Nat → State × Byte × Nat × Nat × Nat
  | 0, _, s, pa, moved, pz => (s, if pz = 0 then stOk else stPoison, pa, moved, pz)
  | n + 1, r, s, pa, moved, pz =>
    let sa := dmaRowAddr d 0 r
    let da := dmaRowAddr d 1 r
    let len := dmaRowBytes d
    let rc := devCheck s (some c) p (dmaSpace d 0) sa len false
    let wc := devCheck s (some c) p (dmaSpace d 1) da len true
    if rc != stOk then
      (countFenced s p (dmaSpace d 0) sa len, rc, devBadAt s (some c) p (dmaSpace d 0) sa len false rc, moved, pz)
    else if wc != stOk then
      (countFenced s p (dmaSpace d 1) da len, wc, devBadAt s (some c) p (dmaSpace d 1) da len true wc, moved, pz)
    else
      let rd := devRead s (some c) p (dmaSpace d 0) sa len
      let s' := devWrite rd.2 (some c) p (dmaSpace d 1) da rd.1
      dmaRun c p d n (r + 1) s' (if pz = 0 && anyMark rd.1 then markedAt sa rd.1 else pa) (moved + len)
        (pz + markedGrans (dmaSpace d 0) sa rd.1)

/-- DMA_COMPLETE (R172, R173, R193): the engine's oldest descriptor finishes, if it has started, and the next one starts.  A descriptor refused for its shape has
no failing address: what ERR_INFO records for it is free (entry 27). -/
def execDmaComplete (c : Fin 16) (e : Fin 4) (s : State) : Res :=
  let k := getCore s c
  match k.dmaQ[e] with
  | [] => .next s
  | j :: rest => if !j.started then .next s else
    let p := partOfCore s c
    let r := if dmaShapeOk j.desc then dmaRun c p j.desc (dmaRows j.desc) 0 s 0 0 0
      else (s, stUnsupported, 0, 0, 0)
    let tag := 16 * e.val + j.slot
    let s := modCore r.1 c (fun k => { k with
      dmaQ := k.dmaQ.set e rest, dmaTags := mput k.dmaTags tag (.done r.2.1),
      lastErrTag := if r.2.1 = stOk || (getPage r.1 (.core c 5)).error then k.lastErrTag else tag })
    let s := bump (dmaStart s c) (.core c 5) e.val r.2.2.2.1
    let s := bump s (.core c 5) 4
    let s := bump s (.core c 5) 5 r.2.2.2.2
    .next (if r.2.1 = stOk then s else
      let fr := drawFree s
      let s := if r.2.1 = stUnsupported then
          captureError fr.2 (.core c 5) r.2.1 0 (fld fr.1 31 0) (fld fr.1 59 32)
        else captureError s (.core c 5) r.2.1 0 (r.2.2.1 % 2 ^ 32) (r.2.2.1 / 2 ^ 32 % 2 ^ 28)
      pulseIrq s (.core c 5) (1 + e.val))

end Sys2Proof.Machine
end

