-- ==== Sys2Proof/Machine/Gate.lean ====
section
/-! DEFINITION. Access to register pages over BAR0: which page an access meets, which writes are dropped, the common
header, and the start and stop of cores (R91 to R120, R133, R134, R187 to R192). -/

namespace Sys2Proof.Machine

open Sys2Proof

/-- BAR0 offset of a page as the accessing function numbers it (R94). -/
def pageBase : PageId → Nat
  | .global => 0x0000000
  | .clock => 0x0001000
  | .mailbox => 0x0002000
  | .determinism => 0x0003000
  | .core n j => 0x0100000 + n.val * 0x10000 + j.val * 0x1000
  | .baton m => 0x0200000 + m.val * 0x1000
  | .relay => 0x0208000
  | .expander m => 0x0209000 + m.val * 0x1000
  | .stork => 0x0210000
  | .windows => 0x0211000
  | .keys => 0x0212000
  | .hbm k => 0x0220000 + k.val * 0x1000
  | .slice j => 0x0230000 + j.val * 0x1000
  | .queues p => 0x0240000 + p.val * 0x10000
  | .bittern => 0x0300000
  | .panel => 0x0301000
  | .background => 0x0302000

/-- Owned by the chip, not by a partition (R94). -/
def chipOwned : PageId → Bool
  | .core _ _ | .queues _ => false
  | _ => true

/-- The page of the state that an access through function `fn` meets; none where it reads zero and ignores writes: before
readiness, in D3hot (R581), outside the three pages of the recovery state (R91), and beyond what the function's partition
holds (R95, R96, R98). -/
def resolve (s : State) (fn : Fin 4) (pg : PageId) : Option PageId :=
  if s.power.phase != .ready || (s.fns[fn]).d3hot then none
  else match pg with
    | .global | .mailbox | .panel => some pg
    | _ =>
      if s.units.service = 3 then none
      else match pg with
        | .core n j =>
          if ownsPart s fn && n.val < partCount s fn then some (.core (coreFin (partBase s fn + n.val)) j) else none
        | .queues p => if p = fn && ownsPart s fn then some pg else none
        | _ => some pg

/-- A register write that has a meaning of its own: dropped without trace where no page answers, counted where it is
partial (R119) or meets a Chip-owned page through another function than PF0 (R97). -/
def gated (s : State) (a : Access) (pg : PageId) (off : Nat) (k : PageId → State) : State :=
  match resolve s a.fn pg with
  | none => s
  | some p =>
    if a.be != 0xF || (chipOwned pg && a.fn != 0) then badAccess s (pageBase pg + off)
    else k p

/-- A write that would change a locked field counts in BAD_ACCESS (R134; DEDUCED for a word that has other fields too, entry
78). -/
def noteLocked (s : State) (pg : PageId) (off : Nat) (data : Word) : State :=
  let m := (regRow (pageType pg) off).elim 0 (·.rwl)
  if (getPage s pg).lock && (data.toNat ^^^ regOf s pg off) &&& m != 0 then badAccess s (pageBase pg + off) else s

/-- The page that a read meets: as for a write, and the Global page answers during a reset that keeps the link up (R612).  The
management core reads every page, a core's by its chip logical id (DESIGN CHOICE, entry 126). -/
def readable (s : State) (rq : Requester) (pg : PageId) : Option PageId :=
  match rq with
  | .management => some pg
  | .function f =>
    if pg = .global && s.power.phase = .resetting && !(s.fns[f]).d3hot then some .global else resolve s f pg

/-- A read through the gate. -/
def gatedRead (s : State) (rq : Requester) (pg : PageId) (k : PageId → State) : State :=
  match readable s rq pg with
  | none => emit (.readData 0) s
  | some p => k p

/-- Number of defined IRQ bits of a page, PAGE_CAPS.IRQ_BITS (R100 and the IRQ rule of each page). -/
def irqBits (ty : Nat) : Nat :=
  match ty with
  | 0x0003 => 2
  | 0x0004 => 6
  | 0x0101 => 3
  | 0x0102 | 0x0103 | 0x0105 | 0x0301 | 0x0401 | 0x0501 | 0x0601 | 0x0602 => 4
  | 0x0104 | 0x0106 | 0x0201 | 0x0202 => 5
  | 0x0203 | 0x0402 | 0x0603 => 3
  | _ => 1

/-! ## Idle -/

/-- Accumulation, Sandpiper and fold work of a core that has not finished (R248, R328). -/
def trapBusy (k : Core) : Bool :=
  !k.array.isEmpty || k.fold.isSome ||
    k.dops.any (fun d => (0x50 ≤ fOp d.w && fOp d.w ≤ 0x5C) || (0x68 ≤ fOp d.w && fOp d.w ≤ 0x70))

/-- STATE as the register shows it: a trap with such work outstanding is not yet TRAPPED (R248). -/
def shownSt (k : Core) : CoreSt := if k.st = .trapped && trapBusy k then .running else k.st

/-- STATE is RUNNING or HALTING. -/
def coreRuns (k : Core) : Bool := shownSt k = .running || shownSt k = .halting

/-- Frames of a port that are queued, unacknowledged or held (R400, R405, R409). -/
def portBusy (p : Port) : Bool :=
  p.chunkOpen || p.cls.toList.any (fun c => !c.txq.isEmpty || !c.retx.isEmpty || !c.rxbuf.isEmpty)

/-- A group of the Relay is forming, reforming, dissolving or in a step. -/
def groupBusy (g : RGroup) : Bool :=
  g.step.isSome || g.creating.isSome || !g.reformTags.isEmpty || g.dissolving.isSome

/-- Contexts of one kind whose operation has started and not ended. -/
def ctxBusy (s : State) (kind : CtxKind) : Bool := s.ctxs.any (fun x => x.2.kind = kind && x.2.started && x.2.result.isNone)

/-- A request on a line of a slice waits, or holds a reservation (R647, R648). -/
def sliceBusy (s : State) (j : Nat) : Bool :=
  s.dir.any (fun d => cmHome s d.1 = j && (d.2.held || d.2.wait.isSome || !d.2.resv.isEmpty))

/-- Nothing is in flight in a block (STATUS.IDLE, R100, R102): what counts as in flight is, per page, what the page has started
and not finished (DESIGN CHOICE, entry 82). -/
def pageIdle (s : State) (pg : PageId) : Bool :=
  match pg with
  | .core n j =>
    let k := getCore s n
    match j.val with
    | 0 => !coreRuns k
    | 1 => k.array.isEmpty && !k.dops.any (fun d => unitOf (fOp d.w) = some 1)
    | 2 => !k.dops.any (fun d => unitOf (fOp d.w) = some 2)
    | 3 => k.fold.isNone && !k.dops.any (fun d => unitOf (fOp d.w) = some 3)
    | 4 => k.packQ.isEmpty
    | _ => !k.dmaQ.toList.any (fun q => q.head?.elim false (·.started))
  | .queues p => !s.ctxs.any (fun x => match x.2.owner with
      | .ring q _ _ => q = p.val
      | .core _ => false)
  | .stork =>
    s.stork.ops.isEmpty && s.stork.stall.isEmpty && s.stork.coal.isEmpty && s.stork.parts.isEmpty && s.stork.own.isEmpty &&
      !ctxBusy s .stork
  | .relay => !s.relay.any (fun g => groupBusy g.2) && !ctxBusy s .relay
  | .mailbox => !s.mailbox.busy
  | .keys => s.stork.keyJob.isNone || s.stork.keyHeld
  | .baton m => !portBusy (s.ports[m])
  | .expander m => (s.ports[m]).held.isEmpty && (s.ports[m]).readyChunks.isEmpty
  | .hbm k => !s.units.training.toNat.testBit k
  | .slice j => !sliceBusy s j
  | .determinism => s.gun.st != .armed && s.pacer.st != .waiting && s.recorder.st != .recording && s.recorder.st != .replaying
  | .panel => s.mgmt.panel.drawing.isNone
  | .background => !s.mgmt.calibrating && !s.mgmt.erasing
  | .global => s.drain.isNone && s.repart.isNone
  | .clock | .windows | .bittern => true

/-! ## Starting and stopping cores -/

/-- A core starts at START_PC: its state is kept, TRAP_VALID and the HALTED and TRAP levels fall (R187, R190, R192). -/
def startNow (s : State) (c : Fin 16) : State :=
  let pc := BitVec.ofNat 64 (regOf s (.core c 0) 0x048)
  let s := modCore s c (fun k => { k with
    st := .running, halted := false, trapValid := false, pc := pc, runPc := pc, cycles := 0, waiting := none,
    runPending := false })
  levelIrq (levelIrq s (.core c 0) 1 false) (.core c 0) 2 false

/-- RUN (R187, R190): from IDLE or TRAPPED only.  A disabled or fenced core, and one that a CORE_RESET waits on, starts
nothing (R92, R103); a quiesced one starts when it may (R102). -/
def runCore (s : State) (c : Fin 16) : State :=
  let k := getCore s c
  let p := getPage s (.core c 0)
  if !(shownSt k = .idle || shownSt k = .trapped) || !p.enable || p.fenced || k.resetPending then s
  else if quiesced p then modCore s c (fun k => { k with runPending := true })
  else startNow s c

/-- STOP (R190): a running core, HALTING included, traps with cause BREAK. -/
def stopCore (s : State) (c : Fin 16) (code : Nat) : State :=
  let k := getCore s c
  if k.st = .running || k.st = .halting then
    takeTrap s c ((mgetD k.imem 0 (k.pc.toNat / 8))) 0x09 code 0 0
  else s

/-! ## The common header -/

/-- IRQ_STATUS_CLEAR (R110, R111, R133). -/
def execIrqStatusClear (a : Access) (page : PageId) (data : Word) (s : State) : Res :=
  .next (gated s a page 0x014 (fun p => clearIrq s p data))

/-- IRQ_FORCE (R113): writing 1 to bit i of [31:0] sets IRQ_STATUS bit i. -/
def execIrqForce (a : Access) (page : PageId) (data : Word) (s : State) : Res :=
  .next (gated s a page 0x01C (fun p => updIrq s p (fun x => { x with irqStatus := x.irqStatus ||| data })))

/-- ERR_COUNT_READ (R100): the count is read and cleared. -/
def execErrCountRead (rq : Requester) (page : PageId) (s : State) : Res :=
  .next (gatedRead s rq page (fun p =>
    emit (.readData ((getPage s p).errCount.zeroExtend 64)) (modPage s p (fun x => { x with errCount := 0 }))))

/-- BAD_ACCESS_READ (R128). -/
def execBadAccessRead (rq : Requester) (s : State) : Res :=
  .next (gatedRead s rq .global (fun p =>
    emit (.readData (BitVec.ofNat 64 (regOf s p 0x070))) (putReg s p 0x070 0)))

/-- Place of a requester's shadow (R115). -/
def shadowIdx : Requester → Nat
  | .function f => f.val
  | .management => 4

/-- Read the low word of a counter pair: the high word goes to the requester's shadow (R114).  A read of 64 bits returns the
low word and that latched high word (R117, R118). -/
def lowRead (s : State) (rq : Requester) (pg : PageId) (pair : Nat) (wide : Bool) : State :=
  if pair < counterPairs (pageType pg) then
    let v := (ctrOf s pg pair).toNat
    emit (.readData (BitVec.ofNat 64 (if wide then v else v % 2 ^ 32)))
      (modPage s pg (fun p => { p with shadows := mputD p.shadows 0 (shadowIdx rq) (BitVec.ofNat 32 (v / 2 ^ 32)) }))
  else emit (.readData 0) s

/-- COUNTER_LOW_READ (R114, R115, R117), of 32 bits or of the whole pair. -/
def execCounterLowRead (rq : Requester) (page : PageId) (pair : CounterRead) (s : State) : Res :=
  .next (gatedRead s rq page (fun p => lowRead s rq p pair.index pair.wide))

/-- ENABLE_CLEAR_ON_IDLE (R103); core pages by chip logical id. -/
def execEnableClearOnIdle (page : PageId) (s : State) : Res :=
  .next (if (getPage s page).disabling && pageIdle s page then
    modPage s page (fun p => { p with enable := false, disabling := false }) else s)

/-! ## The interrupt routes -/

/-- The sources function `f` owns (R123, R124); sources of no partition go with PF0 (DESIGN CHOICE, entry 12). -/
def ownsSrc (s : State) (f : Fin 4) (src : Nat) : Bool := srcOwner s src = f && (f = 0 || isDay s)

/-- The page that drives a source, if one does. -/
def srcPage (src : Nat) : Option PageId :=
  if src = 0 then some .global
  else if src = 1 then some .clock
  else if src = 2 then some .mailbox
  else if src = 3 then some .determinism
  else if 16 ≤ src ∧ src < 144 then
    if h : (src - 16) % 8 < 6 then some (.core (coreFin ((src - 16) / 8)) ⟨(src - 16) % 8, h⟩) else none
  else if 144 ≤ src ∧ src < 152 then some (.baton (portFin (src - 144)))
  else if src = 152 then some .relay
  else if 160 ≤ src ∧ src < 168 then some (.expander (portFin (src - 160)))
  else if src = 168 then some .stork
  else if src = 169 then some .windows
  else if src = 170 then some .keys
  else if 176 ≤ src ∧ src < 188 then some (.hbm (stackFin (src - 176)))
  else if 192 ≤ src ∧ src < 208 then some (.slice (sliceFin (src - 192)))
  else if 208 ≤ src ∧ src < 212 then some (.queues (partFin (src - 208)))
  else if src = 224 then some .bittern
  else if src = 225 then some .panel
  else if src = 226 then some .background
  else none

/-- Level of a source as the interrupt tree sees it (R121). -/
def srcLevel (s : State) (src : Nat) : Bool :=
  match srcPage src with
  | some pg => linePresented s pg && pageLine (getPage s pg)
  | none => false

/-- IRQ_ROUTE_WRITE (R97, R122, R124, R135): only the entries the writing function owns change; an entry rewritten as
enabled while its source is asserted sends its message. -/
def execIrqRouteWrite (a : Access) (index : Fin 128) (data : Word) (s : State) : Res :=
  .next (match resolve s a.fn .global with
    | none => s
    | some _ =>
      let off := 0x200 + 4 * index.val
      if a.be != 0xF then badAccess s off
      else
        let lo := ownsSrc s a.fn (2 * index.val)
        let hi := ownsSrc s a.fn (2 * index.val + 1)
        let old := regOf s .global off
        let d := data.toNat
        let v := (if lo then bitsOf d 15 0 else bitsOf old 15 0) % 65536 +
          65536 * (if hi then bitsOf d 31 16 else bitsOf old 31 16)
        let v := bitsOf v 5 0 + (bit01 (v.testBit 15)) * 2 ^ 15 + bitsOf v 21 16 * 2 ^ 16 + (bit01 (v.testBit 31)) * 2 ^ 31
        let s := putReg s .global off v
        let s := if lo && srcLevel s (2 * index.val) then deliverSrc s (2 * index.val) else s
        if hi && srcLevel s (2 * index.val + 1) then deliverSrc s (2 * index.val + 1) else s)

/-! ## Core control registers -/

/-- RUN (R187). -/
def execRun (a : Access) (n : Fin 16) (s : State) : Res :=
  .next (gated s a (.core n 0) 0x044 (fun p => match p with
    | .core c _ => runCore s c
    | _ => s))

/-- STOP (R190). -/
def execStop (a : Access) (n : Fin 16) (s : State) : Res :=
  .next (gated s a (.core n 0) 0x044 (fun p => match p with
    | .core c _ => stopCore s c 0
    | _ => s))

/-- A CORE_RESET is accepted from IDLE or TRAPPED (R190), and waits for what a trap has left running (R248, R328). -/
def requestReset (s : State) (c : Fin 16) : State :=
  let k := getCore s c
  if (k.st = .idle || k.st = .trapped) && !(getPage s (.core c 0)).fenced then
    modCore s c (fun k => { k with resetPending := true })
  else s

/-- CORE_RESET (R187, R188): nothing clears before the core's class E operations are complete (CORE_RESET_COMPLETE). -/
def execCoreReset (a : Access) (n : Fin 16) (s : State) : Res :=
  .next (gated s a (.core n 0) 0x044 (fun p => match p with
    | .core c _ => requestReset s c
    | _ => s))

/-- Nothing of a core is outstanding that a CORE_RESET waits for (R188, R248, R328). -/
def resetReady (s : State) (c : Fin 16) : Bool :=
  let k := getCore s c
  k.resetPending && !classEBusy s c && k.dops.isEmpty && k.fold.isNone && k.array.isEmpty

/-- What a CORE_RESET clears (R188, R228, R267, R328, and R169 for finished tags): the scratchpad, the instruction
store, the micro-program slots and the registers of the pages stay. -/
def clearedCore (k : Core) : Core :=
  { imem := k.imem, spad := k.spad, micro := k.micro, conserveFails := k.conserveFails, lastFlags := k.lastFlags,
    packQ := k.packQ, lastStatus := k.lastStatus, lastDetail := k.lastDetail, lastLength := k.lastLength,
    lastErrTag := k.lastErrTag, trapCause := k.trapCause, trapCode := k.trapCode, trapInstr := k.trapInstr,
    trapAddr := k.trapAddr }

/-- CORE_RESET_COMPLETE (R188): credits return with the queued messages; chain records that have arrived and adds that
wait go with the groups; finished flight contexts of the core are freed. -/
def execCoreResetComplete (c : Fin 16) (s : State) : Res :=
  .next (if resetReady s c then
    let s := modCore s c clearedCore
    let s := { s with
      chains := s.chains.filter (fun x => x.dst != c.val),
      chainAdds := s.chainAdds.filter (fun x => x.dst != c.val),
      ctxs := s.ctxs.filter (fun x => !(x.2.owner = .core c.val && x.2.result.isSome)) }
    levelIrq (levelIrq s (.core c 0) 1 false) (.core c 0) 2 false
   else s)

/-- IMEM_DATA_HI (R190, R191): the instruction IMEM_DATA_HI : IMEM_DATA_LO is stored at IMEM_ADDR, which then advances. -/
def execImemDataHi (a : Access) (n : Fin 16) (data : Word) (s : State) : Res :=
  .next (gated s a (.core n 0) 0x07C (fun p => match p with
    | .core c _ =>
      if coreRuns (getCore s c) then badAccess s (pageBase (.core n 0) + 0x07C)
      else
        let pg := PageId.core c 0
        let i := regOf s pg 0x074
        let w := BitVec.ofNat 64 (data.toNat * 2 ^ 32 + regOf s pg 0x078)
        let s := modCore s c (fun k => { k with imem := mputD k.imem 0 i w })
        putReg (putReg s pg 0x07C data.toNat) pg 0x074 ((i + 1) % 0x4000)
    | _ => s))

end Sys2Proof.Machine
end

