-- ==== Sys2Proof/Machine/Message.lean ====
section
/-! DEFINITION. Messages, fences, waits, barriers and the software traps of a core (R152, R174 to R183, R194 to R196). -/

namespace Sys2Proof.Machine

open Sys2Proof

/-- The address RA + IMM24 of a 64 B message, checked (R164, R174, R178). -/
def msgCheck (s : State) (c : Fin 16) (w : DWord) : Option Act := spadCheck s c 64 (addrX (getCore s c) w) 64

def isFenced (s : State) (c : Fin 16) : Bool := (getPage s (.core c 0)).fenced

/-- Messages of a triple that hold a credit: on their way, or queued at the receiver (R177). -/
def creditsUsed (s : State) (src dst chan : Nat) : Nat :=
  ((s.mesh ++ (getCore s (coreFin dst)).msgs).filter
    (fun m => m.src = src && m.dst = dst && m.chan = chan)).length

/-- SEND (R174 to R177, R194): the 64 B with the marks of their bank words leave for the receiver.  Where several of its
traps apply, BAD_CORE comes first, then the checks of the source, then PEER_FENCED; RECV likewise (DESIGN CHOICE, entry
115). -/
def execSend (c : Fin 16) (w : DWord) (s : State) : Res :=
  .next (issue c 0x78 false (fnX w = 0) w s
    (match peerCore s c (coreX w) with
      | none => .trap 0x06 0 0x0E 0
      | some d =>
        match msgCheck s c w with
        | some t => t
        | none =>
          if isFenced s d then .trap 0x0A 0 0x0B 0
          else if 4 ≤ creditsUsed s c d (chanX w) then .wait s
          else
            let a := addrX (getCore s c) w
            let m : Msg := ⟨c, d, chanX w, spadRead s c a 64,
              [(getCore s c).spad.marked (a / 32), (getCore s c).spad.marked (a / 32 + 1)]⟩
            .done (bump { s with mesh := s.mesh ++ [m] } (.core c 0) 3)))

/-- Remove the first element that passes a test. -/
def takeFirst {α : Type} (p : α → Bool) : List α → Option α × List α
  | [] => (none, [])
  | x :: xs => if p x then (some x, xs) else let r := takeFirst p xs; (r.1, x :: r.2)

/-- MESSAGE_DELIVERY (R176, R180): the oldest message of the triple enters its receiver's queue. -/
def execMessageDelivery (src : Fin 16) (dst : Fin 16) (chan : Fin 16) (s : State) : Res :=
  .next (match takeFirst (fun m : Msg => m.src = src.val && m.dst = dst.val && m.chan = chan.val) s.mesh with
    | (none, _) => s
    | (some m, rest) => modCore { s with mesh := rest } dst (fun k => { k with msgs := k.msgs ++ [m] }))

/-- A message as marked bytes. -/
def msgBytes (m : Msg) : List PByte :=
  withMark (m.poison.getD 0 false) (m.data.take 32) ++ withMark (m.poison.getD 1 false) (m.data.drop 32)

/-- Take a queued message into RA + IMM24 (R178). -/
def takeMsg (s : State) (c : Fin 16) (w : DWord) (p : Msg → Bool) : Option (Msg × State) :=
  let k := getCore s c
  match takeFirst p k.msgs with
  | (none, _) => none
  | (some m, rest) =>
    let s := modCore s c (fun k => { k with msgs := rest })
    some (m, bump (spadWriteP s c (addrX k w) (msgBytes m)) (.core c 0) 4)

/-- RECV (R178, R194): a message already queued is taken even when its sender has been fenced. -/
def execRecv (c : Fin 16) (w : DWord) (s : State) : Res :=
  .next (issue c 0x79 false (fnX w = 0) w s
    (match peerCore s c (coreX w) with
      | none => .trap 0x06 0 0x0E 0
      | some d =>
        match msgCheck s c w with
        | some t => t
        | none =>
          match takeMsg s c w (fun m => m.src = d.val && m.chan = chanX w) with
          | some r => .done r.2
          | none => if isFenced s d then .trap 0x0A 0 0x0B 0 else .wait s))

/-- RECV.ANY (R179). -/
def execRecvAny (c : Fin 16) (w : DWord) (s : State) : Res :=
  .next (issue c 0x7A true (fnX w = 0) w s
    (match msgCheck s c w with
      | some t => t
      | none =>
        match takeMsg s c w (fun m => m.chan = chanX w) with
        | some r => doneS r.2 c (fRd w) (BitVec.ofNat 64 (partLogical s r.1.src))
        | none => .wait s))

/-- MSG.PROBE (R152). -/
def execMsgProbe (c : Fin 16) (w : DWord) (s : State) : Res :=
  .next (issue c 0x7B true (fnX w = 0) w s
    (doneS s c (fRd w)
      (match peerCore s c (coreX w) with
        | none => 0
        | some d => BitVec.ofNat 64 (bit01 ((getCore s c).msgs.any (fun m => m.src = d.val && m.chan = chanX w))))))

/-! ## Fences and waits -/

/-- A scope of FENCE is complete (R182).  CM accesses are visible when they complete; posts are accepted
when their descriptor has been read, packs and chains when they issue. -/
def scopeDone (s : State) (c : Fin 16) : Nat → Bool
  | 0 => !(getCore s c).dops.any (fun d => dopSpad (fOp d.w)) && (getCore s c).fold.isNone
  | 1 => !dmaBusy (getCore s c)
  | 2 => !sendsBusy s c
  | 3 => true
  | _ => !s.ctxs.any (fun x => x.2.owner = .core c.val && x.2.kind != .pack && !x.2.started && x.2.result.isNone)

/-- The tags a FENCE with scope DMA has seen complete are free (R169). -/
def freeDone (k : Core) : Core :=
  { k with dmaTags := k.dmaTags.filter (fun x => x.2 = .pending) }

/-- FENCE (R182). -/
def execFence (c : Fin 16) (w : DWord) (s : State) : Res :=
  .next (issue c 0x80 false (fnI w = 0) w s
    (if (bitList (immU w) 5).all (scopeDone s c) then
      .done (if (immU w).testBit 1 then modCore s c freeDone else s)
     else .wait s))

/-- A flight context that a WAIT or TEST of core `c` may name: one taken by a core of its partition. -/
def coreCtx (s : State) (c : Fin 16) (tag : Nat) : Option Ctx :=
  match mget s.ctxs tag with
  | some x => match x.owner with
    | .core n => if x.part = partOfCore s c && n < 16 then some x else none
    | .ring _ _ _ => none
  | none => none

/-- WAIT (R152, R169, R587).  The status of a tag that is not in use is not stated: a free value of FN
and tag, the same in every run (R4; DESIGN CHOICE, entry 13). -/
def execWait (c : Fin 16) (w : DWord) (s : State) : Res :=
  let k := getCore s c
  let a := (getS k (fRa w)).toNat
  let open' := fun (tag : Nat) => doneS s c (fRd w) ((Config.idleTag (fnI w) tag).setWidth 64)
  .next (issue c 0x81 false (fnI w < 2) w s
    (if fnI w = 0 then
      match mget k.dmaTags (a % 64) with
      | some .pending => .wait s
      | some (.done code) =>
        doneS (modCore s c (fun k => { k with dmaTags := mdel k.dmaTags (a % 64) })) c (fRd w) (code.zeroExtend 64)
      | none => open' (a % 64)
    else
      match coreCtx s c (a % 4096) with
      | some x =>
        match x.result with
        | some r => doneS (freeCtx s (a % 4096)) c (fRd w) (r.code.zeroExtend 64)
        | none => .wait s
      | none => open' (a % 4096)))

/-- WAIT.FIRST (R152): the lowest complete tag of the set; its status stays for a WAIT (DESIGN CHOICE, entry 14). -/
def execWaitFirst (c : Fin 16) (w : DWord) (s : State) : Res :=
  let k := getCore s c
  .next (issue c 0x82 true (fnI w = 0) w s
    (match (bitList (getS k (fRa w)).toNat 64).find? (fun t => match mget k.dmaTags t with
        | some (.done _) => true
        | _ => false) with
      | some t => doneS s c (fRd w) (BitVec.ofNat 64 t)
      | none => .wait s))

/-- TEST (R152): the row names no FN, so FN must be 0, which names a DMA tag in WAIT (DEDUCED, entry 14); 0xFF while not
complete. -/
def execTest (c : Fin 16) (w : DWord) (s : State) : Res :=
  let k := getCore s c
  .next (issue c 0x83 true (fnI w = 0) w s
    (doneS s c (fRd w)
      (match mget k.dmaTags ((getS k (fRa w)).toNat % 64) with
        | some (.done code) => code.zeroExtend 64
        | _ => 0xFF)))

/-! ## Barriers -/

/-- A core waits at a BARRIER with this id and mask. -/
def atBarrier (s : State) (id mask : Nat) (c : Fin 16) : Bool :=
  match (getCore s c).waiting with
  | some x => fOp x.w = 0x84 && fnI x.w = id && immU x.w % 65536 = mask && (getCore s c).st = .running
  | none => false

/-- Let every other core of the partition that waits at the barrier go on. -/
def releaseBarrier (s : State) (c : Fin 16) (id mask : Nat) : State :=
  (List.finRange 16).foldl (fun s d =>
    if d != c && partOfCore s d = partOfCore s c && atBarrier s id mask d then advance (retire s d false) d else s) s

/-- BARRIER (R152, R175, R194, R196): the mask names partition logical cores. -/
def execBarrier (c : Fin 16) (w : DWord) (s : State) : Res :=
  let mask := immU w % 65536
  let others := (bitList mask 16).filterMap (fun i => peerCore s c i)
  .next (issue c 0x84 false true w s
    (if (bitList mask 16).any (fun i => (peerCore s c i).isNone) then .trap 0x06 0 0x0E 0
     else if others.any (isFenced s) then .trap 0x0A 0 0x0B 0
     else if others.all (fun d => d = c || atBarrier s (fnI w) mask d) then
       .done (releaseBarrier s c (fnI w) mask)
     else .wait s))

/-- GUN.WAIT (R550): until the first fire after its issue. -/
def execGunWait (c : Fin 16) (w : DWord) (s : State) : Res :=
  .next (issue c 0x89 false (fnI w = 0) w s
    (match (getCore s c).waiting with
      | some x => if !x.issued || x.fires = ctrOf s .determinism 0 then .wait s else .done s
      | none => .wait s))

/-- TRAP (R152, R185): cause SOFTWARE, code IMM[15:0]. -/
def execTrap (c : Fin 16) (w : DWord) (s : State) : Res :=
  .next (issue c 0xF0 false (fnI w = 0) w s (.trap 0x08 (immU w % 65536) 0 0))

/-- BRK (R152, R185). -/
def execBrk (c : Fin 16) (w : DWord) (s : State) : Res :=
  .next (issue c 0xF1 false (fnI w = 0) w s (.trap 0x09 0 0 0))

/-- A core that executes: RUNNING, or HALTING on its HALT. -/
def coreBusy (k : Core) : Bool := k.st = .running || k.st = .halting

/-- WAIT_TIMEOUT (R181, R241): a stalled core traps, a HALT that waits for a chain add included, unless its WAIT_TIMEOUT is 0. -/
def execWaitTimeout (c : Fin 16) (s : State) : Res :=
  .next (match (getCore s c).waiting with
    | some x =>
      if coreBusy (getCore s c) && timeoutApplies s c && regOf s (.core c 0) 0x060 != 0 then
        takeTrap s c x.w 0x07 0 0x07 0
      else s
    | none => s)

end Sys2Proof.Machine
end

