-- ==== Sys2Proof/Machine/Mac.lean ====
section
/-! DEFINITION. The MAC array, the accumulator pool and chained reductions (R46 to R54, R63 to R67, R197 to R248). -/

namespace Sys2Proof.Machine

open Sys2Proof

/-! ## Long accumulators -/

/-- An element of a group: its two's-complement bits, its state (R213) and its poison mark. -/
structure AccElem where
  bits : Nat := 0
  state : Nat := 0
  poison : Bool := false
  deriving DecidableEq, Repr

/-- Width of a long accumulator and the weight of its bit 0, as a negated exponent (R46, R47). -/
def accWidth (dbl : Bool) : Nat := if dbl then 640 else 320
def accBias (dbl : Bool) : Nat := if dbl then 320 else 160

/-- Exact addition of an integer of units of bit 0 (R199); leaving the range sets the overflow state of the first
crossing (R53), and the bits are then open. -/
def accAddInt (dbl : Bool) (a : AccElem) (n : Int) : AccElem :=
  let w := accWidth dbl
  let t := sgn w a.bits + n
  let up := (2 ^ (w - 1) : Nat) ≤ t
  let down := t < -((2 ^ (w - 1) : Nat) : Int)
  { a with
    bits := if up || down || a.state = 1 || a.state = 2 then Config.accOverflow w a.bits n % 2 ^ w else wrap w t,
    state := if a.state != 0 then a.state else if up then 1 else if down then 2 else 0 }

/-- Exact addition of a value; a NaN, a NaR or an infinity sets the NaR state (R54, R67). -/
def accAdd (dbl : Bool) (a : AccElem) (v : Val) : AccElem :=
  match v with
  | .num m e => accAddInt dbl a (scaleI m (e + accBias dbl))
  | _ => { a with state := 3 }

/-- Exact addition of a record with its state and mark (R228, R231 FN 1). -/
def accAddElem (dbl : Bool) (a b : AccElem) : AccElem :=
  let a := { a with
    poison := a.poison || b.poison,
    state := if b.state = 3 then 3 else if a.state = 0 then b.state else a.state }
  accAddInt dbl a (sgn (accWidth dbl) b.bits)

/-- The value of an element, none when it is to be read as saturated with the given sign (R53, R54). -/
def accVal (dbl : Bool) (a : AccElem) : Val :=
  if a.state = 3 then .nan
  else if a.state = 1 then .inf false
  else if a.state = 2 then .inf true
  else .num (sgn (accWidth dbl) a.bits) (-(accBias dbl : Int))

/-- The largest finite magnitude of a format with a sign (R53). -/
def largestFinite (dt : Nat) (neg : Bool) : Nat :=
  (match dt with
    | 0x3 => 0x7FFF
    | 0x4 => 0x7F
    | 0x5 => 0x007FFFFFFFFFFF
    | _ => (dtFloat dt).infBits - 1) + (if neg then 2 ^ (dtWidth dt - 1) else 0)

/-- Read-out rounding (R53, R54, R63, R64). -/
def readOut (dt : Nat) (s : Int) (v : Val) : Conv :=
  match v with
  | .inf neg => ⟨largestFinite dt neg, false, false⟩
  | _ => encOf dt s true v

/-! ## Groups (R211 to R214) -/

def groupSpan (g : Group) : Nat := if g.double then 2 else 1
/-- Number of elements of a group. -/
def groupElems (g : Group) : Nat := 64 * g.blocks / groupSpan g
/-- First pool entry of element `x`. -/
def elemEntry (g : Group) (x : Nat) : Nat := 64 * g.base + x * groupSpan g

def getElem (k : Core) (g : Group) (x : Nat) : AccElem :=
  let e := elemEntry g x
  let lo := mgetD k.pool {} e
  let hi := if g.double then (mgetD k.pool {} (e + 1)).bits.toNat else 0
  ⟨lo.bits.toNat + hi * 2 ^ 320, lo.state.toNat, lo.poison⟩

def setElem (k : Core) (g : Group) (x : Nat) (a : AccElem) : Core :=
  let e := elemEntry g x
  let p := mputD k.pool {} e ⟨BitVec.ofNat 320 a.bits, BitVec.ofNat 2 a.state, a.poison⟩
  { k with pool := if g.double then mputD p {} (e + 1) ⟨BitVec.ofNat 320 (a.bits / 2 ^ 320), 0, false⟩ else p }

/-- What a change of elements counts and reports (R246, R247). -/
structure Tally where
  products : Nat := 0
  flushes : Nat := 0
  spills : Nat := 0
  stall : Nat := 0
  widened : Nat := 0
  overflowed : Nat := 0
  nars : Nat := 0
  poisoned : Nat := 0
  deriving DecidableEq, Repr

/-- Store an element and tally the state it entered. -/
def putElem (k : Core) (g : Group) (x : Nat) (a b : AccElem) (t : Tally) : Core × Tally :=
  (setElem k g x b, { t with
    overflowed := t.overflowed + bit01 (b.state != a.state && (b.state = 1 || b.state = 2)),
    nars := t.nars + bit01 (b.state != a.state && b.state = 3) })

/-- Change element `x` of a group. -/
def modElem (g : Group) (x : Nat) (f : AccElem → AccElem) (r : Core × Tally) : Core × Tally :=
  let a := getElem r.1 g x
  putElem r.1 g x a (f a) r.2

/-- Counters and one-cycle interrupt conditions of the MAC page. -/
def macReport (s : State) (c : Fin 16) (t : Tally) : State :=
  let pg := PageId.core c 1
  let s := bump s pg 0 t.products
  let s := bump s pg 1 t.flushes
  let s := bump s pg 2 t.spills
  let s := bump s pg 3 t.stall
  let s := bump s pg 7 t.widened
  let s := bump s pg 12 t.poisoned
  let s := if t.overflowed = 0 then s else pulseIrq s pg 1
  let s := if t.nars = 0 then s else pulseIrq s pg 2
  if t.poisoned = 0 then s else pulseIrq s pg 3

/-! ## The array (R197 to R210) -/

/-- The largest distance of a product's least bit above the window base that still joins a run (R207). -/
def runSpan (dt : Nat) : Int := if dt = 0x1 then 40 else 32

/-- A cell adds its run register into its element (R208). -/
def flushRun (g : Group) (cell : Nat) (r : Core × Tally) : Core × Tally :=
  match mget r.1.runs cell with
  | none => r
  | some u =>
    let r := modElem g u.elem (fun a => accAdd g.double a (.num (sgn 64 u.val.toNat) u.base)) r
    ({ r.1 with runs := mdel r.1.runs cell }, { r.2 with flushes := r.2.flushes + 1 })

/-- A cell takes one product (R198, R206 to R209): the new state and whether it spilled. -/
def cellStep (g : Group) (gi dt x cell : Nat) (p : Val) (r : Core × Tally) : (Core × Tally) × Bool :=
  match p with
  | .num m b =>
    if m = 0 then (r, false)
    else
      let r := (r.1, { r.2 with products := r.2.products + 1 })
      match mget r.1.runs cell with
      | none =>
        (({ r.1 with runs := mput r.1.runs cell ⟨b - 16, BitVec.ofInt 64 (m * 65536), 1, gi, x⟩ }, r.2), false)
      | some u =>
        if u.base ≤ b ∧ b ≤ u.base + runSpan dt then
          let u' : Run := { u with val := u.val + BitVec.ofInt 64 (scaleI m (b - u.base)), count := u.count + 1 }
          let r := ({ r.1 with runs := mput r.1.runs cell u' }, r.2)
          (if u'.count = 32 then flushRun g cell r else r, false)
        else
          let r := modElem g x (fun a => accAdd g.double a p) r
          ((r.1, { r.2 with spills := r.2.spills + 1 }), true)
  | _ => (modElem g x (fun a => accAdd g.double a p) (r.1, { r.2 with products := r.2.products + 1 }), false)

/-- The product of two operand words (R29, R36, R197). -/
def macProduct (dt : Nat) (s : Int) (neg : Bool) (a b : Nat) : Val :=
  let p := match dt with
    | 0x3 => mulL16 a b
    | 0x4 => mulL16 (widenL8 s a).1 b
    | _ => match (valFloat bfloat16 a).mul (valFloat bfloat16 b) with
      | .inf _ => .nan
      | v => v
  if neg then p.neg else p

/-- The operands of a TMMA. -/
structure Tmma where
  gi : Nat
  g : Group
  t : Nat
  a : Nat
  b : Nat
  m : Nat
  n : Nat
  k : Nat
  s : Int
  dt : Nat
  neg : Bool
  deriving DecidableEq, Repr

/-- Row stride and element size of operand A (R201). -/
def tmmaStrideA (dt : Nat) : Nat := if dt = 0x4 then 128 else 256
def tmmaWidthA (dt : Nat) : Nat := if dt = 0x4 then 1 else 2

/-- Row `i` of the cells takes its products of a k-step; answers the spills of the row. -/
def tmmaRow (q : Tmma) (i av : Nat) (bs : List Nat) (r : Core × Tally) : (Core × Tally) × Nat :=
  ((List.range q.n).zip bs).foldl (fun acc jb =>
    let o := cellStep q.g q.gi q.dt (q.t + i * q.n + jb.1) (128 * i + jb.1) (macProduct q.dt q.s q.neg av jb.2) acc.1
    (o.1, acc.2 + bit01 o.2)) (r, 0)

/-- One k-step: every cell forms one product; the row that spills most stalls the array (R210). -/
def tmmaStep (q : Tmma) (m : Memory) (kk : Nat) (r : Core × Tally) : Core × Tally :=
  let bs := (List.range q.n).map (fun j => m.readLE (q.b + kk * 256 + 2 * j) 2)
  let o := (List.range q.m).foldl (fun (acc : (Core × Tally) × Nat) i =>
    let w := tmmaWidthA q.dt
    let av := m.readLE (q.a + kk * tmmaStrideA q.dt + i * w) w
    let t := acc.1.2
    let t := { t with widened := t.widened + bit01 (q.dt = 0x4 && (widenL8 q.s av).2) }
    let x := tmmaRow q i av bs (acc.1.1, t)
    (x.1, max acc.2 x.2)) (r, 0)
  (o.1.1, { o.1.2 with stall := o.1.2.stall + 4 * o.2 })

/-- Flush every run register. -/
def flushAll (k : Core) (t : Tally) : Core × Tally :=
  k.runs.foldl (fun r u =>
    match mget r.1.groups u.2.group with
    | some g => flushRun g u.1 r
    | none => r) (k, t)

/-- Poison among the bank words a TMMA reads. -/
def tmmaPoison (q : Tmma) (m : Memory) : Bool :=
  (List.range q.k).any (fun kk =>
    m.poisonedAt 32 (q.a + kk * tmmaStrideA q.dt) (q.m * tmmaWidthA q.dt) || m.poisonedAt 32 (q.b + kk * 256) (2 * q.n))

/-- Give every element of a region a poison mark (R225). -/
def poisonRegion (g : Group) (x n : Nat) (r : Core × Tally) : Core × Tally :=
  (List.range n).foldl (fun r i =>
    let r := modElem g (x + i) (fun a => { a with poison := true }) r
    (r.1, { r.2 with poisoned := r.2.poisoned + 1 })) r

/-- The array takes a TMMA: the runs of the one before end (R208), then the k-steps follow in order. -/
def runTmma (s : State) (c : Fin 16) (q : Tmma) : State :=
  let k := getCore s c
  let r := flushAll k {}
  let r := (List.range q.k).foldl (fun r kk => tmmaStep q k.spad kk r) r
  let r := if tmmaPoison q k.spad then poisonRegion q.g q.t (q.m * q.n) r else r
  macReport (modCore s c (fun _ => { r.1 with array := r.1.array ++ [⟨q.gi, q.k⟩] })) c r.2

/-! ## Checks at issue (R242, R243) -/

/-- A unit fault of the MAC page. -/
def macFault (detail : Nat) : Act := .fault 1 0x0E detail 0 0

def shapeM (rc : DWord) : Nat := fld rc 6 0 + 1
def shapeN (rc : DWord) : Nat := fld rc 14 8 + 1
def shapeK (rc : DWord) : Nat := fld rc 31 16 + 1

/-- The must-be-0 bits of RD and of RC, which TZERO and the tile moves take as R200 lays it out: the field K − 1 is ignored
where there is no K (R219, R220), and the scale is a must-be-0 field where the type has none (DEDUCED, entry 116). -/
def rdOk (rd : DWord) : Bool := fld rd 15 5 = 0 && fld rd 63 32 = 0
def rcOk (rc : DWord) (useS : Bool) : Bool :=
  fld rc 7 7 = 0 && fld rc 15 15 = 0 && fld rc 55 32 = 0 && (useS || fld rc 63 56 = 0)

/-- The group and region checks that tile instructions share, in the order shape, open, range; the rest follows with the
open group. -/
def tileCheck (k : Core) (w : DWord) (useS : Bool) (f : Group → Act) : Act :=
  let rd := getS k (fRd w)
  let rc := getS k (fRc w)
  if !(rdOk rd && rcOk rc useS) then macFault 7
  else match mget k.groups (fld rd 4 0) with
    | none => macFault 1
    | some g =>
      if groupElems g < fld rd 31 16 + shapeM rc * shapeN rc then macFault 2 else f g

/-- The first trap of a list of checks. -/
def firstAct : List (Option Act) → Act → Act
  | [], a => a
  | some t :: _, _ => t
  | none :: l, a => firstAct l a

/-- TMMA (R197 to R210); L8 into a single-long obeys R52. -/
def execTmma (c : Fin 16) (w : DWord) (s : State) : Res :=
  let k := getCore s c
  let rd := getS k (fRd w)
  let rc := getS k (fRc w)
  let dt := dtA w
  let a := (getS k (fRa w)).toNat
  let b := (getS k (fRb w)).toNat
  .next (issue c 0x50 false ((dt = 0x3 || dt = 0x4 || dt = 0x1) && fnA w < 2 && zeroA w) w s
    (tileCheck k w (dt = 0x4) (fun g =>
      if dt = 0x1 && !g.double then macFault 5
      else if dt = 0x4 && !g.double && !scaleFits (sgn 8 (fld rc 63 56)) then macFault 6
      else
        let kk := shapeK rc
        let spanA := (kk - 1) * tmmaStrideA dt + shapeM rc * tmmaWidthA dt
        let spanB := (kk - 1) * 256 + 2 * shapeN rc
        firstAct [spadCheck s c (tmmaStrideA dt) a spanA, spadCheck s c 256 b spanB]
          (.done (runTmma s c ⟨fld rd 4 0, g, fld rd 31 16, a, b, shapeM rc, shapeN rc, kk, sgn 8 (fld rc 63 56), dt,
            fnA w = 1⟩)))))

/-- TMMA_COMPLETE (R204, R208): the oldest TMMA drains; when it is the last in the array its runs are flushed. -/
def execTmmaComplete (c : Fin 16) (s : State) : Res :=
  .next (match (getCore s c).array with
    | [] => s
    | _ :: rest =>
      let r := if rest.isEmpty then flushAll (getCore s c) {} else (getCore s c, {})
      macReport (modCore s c (fun _ => { r.1 with array := rest })) c r.2)

/-! ## Tile moves (R219 to R228) -/

/-- The region of a tile instruction, from the operands it read at issue. -/
structure Tile where
  gi : Nat
  t : Nat
  m : Nat
  n : Nat
  a : Nat
  stride : Nat
  dt : Nat
  s : Int
  deriving DecidableEq, Repr

def tileOf (w rd ra rb rc : DWord) : Tile :=
  ⟨fld rd 4 0, fld rd 31 16, shapeM rc, shapeN rc, ra.toNat, rb.toNat, dtA w, sgn 8 (fld rc 63 56)⟩

/-- The elements of a tile: index in the region and scratchpad address. -/
def tileCells (q : Tile) : List (Nat × Nat) :=
  (List.range q.m).flatMap (fun i => (List.range q.n).map (fun j =>
    (i * q.n + j, q.a + i * q.stride + j * dtBytes q.dt)))

/-- Strides and addresses of a tile move (R220, R243). -/
def tileMem (s : State) (c : Fin 16) (q : Tile) (a : Act) : Act :=
  let b := dtBytes q.dt
  if q.stride % b != 0 || q.stride < q.n * b then macFault 7
  else firstAct ((List.range q.m).map (fun i => spadCheck s c b (q.a + i * q.stride) (q.n * b))) a

/-- TMOV.IN (R220, R221, R224). -/
def execTmovIn (c : Fin 16) (w : DWord) (s : State) : Res :=
  let k := getCore s c
  let q := tileOf w (getS k (fRd w)) (getS k (fRa w)) (getS k (fRb w)) (getS k (fRc w))
  .next (issue c 0x51 false (dtReal (dtA w) && fnA w < 2 && zeroA w) w s
    (tileCheck k w (dtA w = 0x4) (fun g =>
      if q.dt = 0x4 && !g.double && !scaleFits q.s then macFault 6
      else tileMem s c q (.done (pushD s c w)))))

/-- TMOV.OUT (R222, R227). -/
def execTmovOut (c : Fin 16) (w : DWord) (s : State) : Res :=
  let k := getCore s c
  let q := tileOf w (getS k (fRd w)) (getS k (fRa w)) (getS k (fRb w)) (getS k (fRc w))
  .next (issue c 0x52 false (dtReal (dtA w) && fnA w = 0 && zeroA w) w s
    (tileCheck k w (dtA w = 0x4) (fun g =>
      tileMem s c q
        (if (List.range (q.m * q.n)).any (fun i => (getElem k g (q.t + i)).poison) then .trap 0x04 0 0x05 0
         else .done (pushD s c w)))))

/-- TZERO (R219). -/
def execTzero (c : Fin 16) (w : DWord) (s : State) : Res :=
  .next (issue c 0x53 false (fnA w = 0 && dtA w = 0 && zeroA w) w s
    (tileCheck (getCore s c) w false (fun _ => .done (pushD s c w))))

/-- Completion of TMOV.IN. -/
def finishTmovIn (s : State) (c : Fin 16) (q : Tile) (add : Bool) : State :=
  let k := getCore s c
  match mget k.groups q.gi with
  | none => s
  | some g =>
    let r := (tileCells q).foldl (fun (r : Core × Tally) x =>
      let v := valOf q.dt q.s (k.spad.readLE x.2 (dtBytes q.dt))
      let p := k.spad.marked (x.2 / 32)
      let r := modElem g (q.t + x.1) (fun a =>
        if add then { accAdd g.double a v with poison := a.poison || p }
        else { accAdd g.double {} v with poison := p }) r
      (r.1, { r.2 with poisoned := r.2.poisoned + bit01 p })) (k, {})
    macReport (modCore s c (fun _ => r.1)) c r.2

/-- Completion of TMOV.OUT (R53, R54, R63, R222); bank words that the tile covers lose their marks (R167). -/
def finishTmovOut (s : State) (c : Fin 16) (q : Tile) : State :=
  let k := getCore s c
  match mget k.groups q.gi with
  | none => s
  | some g =>
    let b := dtBytes q.dt
    let s := modCore s c (fun k => { k with
      spad := clearWhole k.spad ((List.range q.m).map (fun i => (q.a + i * q.stride, q.n * b))) })
    (tileCells q).foldl (fun s x =>
      let v := accVal g.double (getElem k g (q.t + x.1))
      let o := readOut q.dt q.s v
      let pg := PageId.core c 1
      let s := spadWrite s c x.2 (leBytes b o.bits)
      let s := match v with
        | .inf _ => bump s pg 5
        | .nan => bump s pg 6
        | .num _ _ => s
      bump (bump s pg 8 (bit01 o.ovf)) pg 9 (bit01 o.unf)) s

/-- Completion of TZERO. -/
def finishTzero (s : State) (c : Fin 16) (q : Tile) : State :=
  modCore s c (fun k => match mget k.groups q.gi with
    | none => k
    | some g => (List.range (q.m * q.n)).foldl (fun k i => setElem k g (q.t + i) {}) k)

/-! ## Groups (R215 to R217) -/

/-- Two ranges of blocks share a block. -/
def blocksMeet (a b : Group) : Bool := a.base < b.base + b.blocks && b.base < a.base + a.blocks

/-- Drop the pool entries of a group: they read as +0, normal, unpoisoned. -/
def clearEntries (k : Core) (g : Group) : Core :=
  { k with pool := k.pool.filter (fun x => x.1 < 64 * g.base || 64 * (g.base + g.blocks) ≤ x.1) }

/-- AG.OPEN (R215, R216). -/
def execAgOpen (c : Fin 16) (w : DWord) (s : State) : Res :=
  let k := getCore s c
  let imm := immU w
  let g : Group := ⟨bitsOf imm 15 6, bitsOf imm 25 16 + 1, (fnI w).testBit 5⟩
  .next (issue c 0x58 false (fnI w < 64) w s
    (if bitsOf imm 5 0 != 0 || bitsOf imm 31 26 != 0 then macFault 7
     else if (mget k.groups (fnI w % 32)).isSome then macFault 4
     else if 1024 < g.base + g.blocks then macFault 2
     else if k.groups.any (fun x => blocksMeet x.2 g) then macFault 3
     else .done (modCore s c (fun k => { clearEntries k g with groups := mput k.groups (fnI w % 32) g }))))

/-- AG.CLOSE (R217). -/
def execAgClose (c : Fin 16) (w : DWord) (s : State) : Res :=
  .next (issue c 0x59 false (fnI w < 32) w s
    (if immU w != 0 then macFault 7
     else if (mget (getCore s c).groups (fnI w % 32)).isNone then macFault 1
     else .done (pushD s c w)))

/-- Completion of AG.CLOSE. -/
def finishClose (s : State) (c : Fin 16) (gi : Nat) : State :=
  modCore s c (fun k => match mget k.groups gi with
    | none => k
    | some g => { clearEntries k g with groups := mdel k.groups gi })

/-! ## Partial-sum records (R229 to R232) -/

def recBytes (g : Group) : Nat := if g.double then 80 else 40

/-- Bytes of the records and of the padded state map. -/
def recLen (g : Group) : Nat := groupElems g * recBytes g
def mapLen (g : Group) : Nat := (groupElems g / 4 + 31) / 32 * 32

/-- The record of an element with its mark. -/
def recOf (g : Group) (a : AccElem) : List PByte := withMark a.poison (leBytes (recBytes g) a.bits)

/-- The state map of a list of elements, four to a byte. -/
def stateMap : List AccElem → List Byte
  | a :: b :: c :: d :: l =>
    BitVec.ofNat 8 (a.state + 4 * b.state + 16 * c.state + 64 * d.state) :: stateMap l
  | _ => []

def groupList (k : Core) (g : Group) : List AccElem := (List.range (groupElems g)).map (getElem k g)

/-- The checks of AG.SAVE and AG.LOAD. -/
def recCheck (s : State) (c : Fin 16) (w : DWord) (a : Act) : Act :=
  match mget (getCore s c).groups (fRd w % 32) with
  | none => macFault 1
  | some g => firstAct [spadCheck s c 32 (addrM (getCore s c) w) (recLen g + mapLen g)] a

/-- AG.SAVE (R229, R230, R232). -/
def execAgSave (c : Fin 16) (w : DWord) (s : State) : Res :=
  .next (issue c 0x5A false (dtM w = 0 && fnM w < 2) w s (recCheck s c w (.done (pushD s c w))))

/-- AG.LOAD (R231, R232). -/
def execAgLoad (c : Fin 16) (w : DWord) (s : State) : Res :=
  .next (issue c 0x5B false (dtM w = 0 && fnM w < 2) w s (recCheck s c w (.done (pushD s c w))))

/-- Completion of AG.SAVE at an address. -/
def finishSave (s : State) (c : Fin 16) (gi a : Nat) : State :=
  let k := getCore s c
  match mget k.groups gi with
  | none => s
  | some g =>
    let l := groupList k g
    let m := stateMap l
    spadWriteP s c a (l.flatMap (recOf g) ++ withMark false (m ++ List.replicate (mapLen g - m.length) 0))

/-- Completion of AG.LOAD from an address; a poisoned byte of the map poisons the elements it describes. -/
def finishLoad (s : State) (c : Fin 16) (gi a : Nat) (add : Bool) : State :=
  let k := getCore s c
  match mget k.groups gi with
  | none => s
  | some g =>
    let b := recBytes g
    let r := (List.range (groupElems g)).foldl (fun (r : Core × Tally) x =>
      let ma := a + recLen g + x / 4
      let e : AccElem := {
        bits := k.spad.readLE (a + b * x) b,
        state := bitsOf (k.spad.byte ma).toNat (2 * (x % 4) + 1) (2 * (x % 4)),
        poison := k.spad.poisonedAt 32 (a + b * x) b || k.spad.marked (ma / 32) }
      let r := modElem g x (fun o => if add then accAddElem g.double o e else e) r
      (r.1, { r.2 with poisoned := r.2.poisoned + bit01 e.poison })) (k, {})
    macReport (modCore s c (fun _ => r.1)) c r.2

/-! ## Chained reductions (R233 to R241) -/

/-- AG.CHAIN (R233 to R236, R240): a send captures the records at its place in program order; an add waits for its own. -/
def execAgChain (c : Fin 16) (w : DWord) (s : State) : Res :=
  let k := getCore s c
  let gi := imm24 w % 32
  let z := fun s => modCore s c (fun k => setS k (fRd w) 0)
  .next (issue c 0x5C false (fnX w < 2) w s
    (match peerCore s c (coreX w) with
      | none => .trap 0x06 0 0x0E 0
      | some d =>
        if 32 ≤ imm24 w then macFault 7
        else match mget k.groups gi with
          | none => macFault 1
          | some g =>
            if isFenced s d then .trap 0x0A 0 0x0B 0
            else if fnX w = 0 then
              let x : Chain := ⟨c, d, chanX w, gi, g.double,
                (List.range (64 * g.blocks)).map (fun i => mgetD k.pool {} (64 * g.base + i))⟩
              .done (z (bump { s with chains := s.chains ++ [x] } (.core c 1) 10 (recLen g + mapLen g)))
            else .done (z { s with chainAdds := s.chainAdds ++ [⟨d, c, chanX w, gi⟩] })))

/-- The elements of captured pool entries. -/
def chainElems (dbl : Bool) : List AccEntry → List AccElem
  | a :: b :: l =>
    if dbl then ⟨a.bits.toNat + b.bits.toNat * 2 ^ 320, a.state.toNat, a.poison⟩ :: chainElems dbl l
    else ⟨a.bits.toNat, a.state.toNat, a.poison⟩ :: ⟨b.bits.toNat, b.state.toNat, b.poison⟩ :: chainElems dbl l
  | _ => []

/-- Add the records of a chain to the group of its add; a mismatch makes every element NaR (R231, R238). -/
def applyChain (s : State) (x : Chain) (d : Fin 16) (gi : Nat) : State :=
  let k := getCore s d
  match mget k.groups gi with
  | none => s
  | some g =>
    if g.double != x.double || 64 * g.blocks != x.records.length then
      let r := (List.range (groupElems g)).foldl (fun r i => modElem g i (fun a => { a with state := 3 }) r) (k, {})
      captureOpen (macReport (modCore s d (fun _ => r.1)) d r.2) (.core d 1) stUnsupported 8
    else
      let r := ((List.range (groupElems g)).zip (chainElems g.double x.records)).foldl
        (fun (r : Core × Tally) p =>
          let r := modElem g p.1 (fun a => accAddElem g.double a p.2) r
          (r.1, { r.2 with poisoned := r.2.poisoned + bit01 p.2.poison })) (k, {})
      bump (macReport (modCore s d (fun _ => r.1)) d r.2) (.core d 1) 11 (recLen g + mapLen g)

/-- CHAIN_TRANSFER_COMPLETE (R234, R236, R238): the oldest send of the triple meets its oldest add. -/
def execChainTransferComplete (src : Fin 16) (dst : Fin 16) (chan : Fin 16) (s : State) : Res :=
  let r := takeFirst (fun x : Chain => x.src = src.val && x.dst = dst.val && x.chan = chan.val) s.chains
  let a := takeFirst (fun x : ChainAdd => x.src = src.val && x.dst = dst.val && x.chan = chan.val) s.chainAdds
  .next (match r.1, a.1 with
    | some x, some y => applyChain { s with chains := r.2, chainAdds := a.2 } x dst y.group
    | _, _ => s)

/-- Completion of a class D accumulation instruction. -/
def finishMac (s : State) (c : Fin 16) (d : DOp) : State :=
  let q := tileOf d.w d.rd d.ra d.rb d.rc
  let a := (d.ra + BitVec.ofInt 64 (imm32 d.w)).toNat
  match fOp d.w with
  | 0x51 => finishTmovIn s c q (fnA d.w = 1)
  | 0x52 => finishTmovOut s c q
  | 0x53 => finishTzero s c q
  | 0x59 => finishClose s c (fnI d.w % 32)
  | 0x5A => finishSave s c (fRd d.w % 32) a
  | 0x5B => finishLoad s c (fRd d.w % 32) a (fnM d.w = 1)
  | _ => s

end Sys2Proof.Machine
end

