-- ==== Sys2Proof/Machine/Transcend.lean ====
section
/-! DEFINITION. Correctly rounded element functions of the Egret unit: enclosures in fixed-point arithmetic, refined until
both ends round alike (R251 to R254, R259, R261). -/

namespace Sys2Proof.Machine

open Sys2Proof

/-- A dyadic number `m * 2 ^ e`. -/
abbrev Dy := Int × Int

/-! ## Fixed-point series: `x` stands for `x / 2 ^ w` -/

/-- Product of two fixed-point numbers. -/
def fxMul (w : Nat) (a b : Int) : Int := Int.tdiv (a * b) ((2 ^ w : Nat) : Int)

/-- Quotient of two fixed-point numbers. -/
def fxDiv (w : Nat) (a b : Int) : Int := Int.tdiv (a * ((2 ^ w : Nat) : Int)) b

/-- A fixed-point number from a dyadic one. -/
def fxOf (w : Nat) (v : Dy) : Int := scaleI v.1 (v.2 + w)

/-- Sum of terms, each `t_(n+1) = t_n * r / d n`, until a term vanishes. -/
def fxSeries (w : Nat) (r : Int) (d : Nat → Int) : Nat → Nat → Int → Int → Int
  | 0, _, _, acc => acc
  | f + 1, n, t, acc => if t = 0 then acc else fxSeries w r d f (n + 1) (Int.tdiv (fxMul w t r) (d n)) (acc + t)

/-- Sum of `p_n / (2n+1)` with `p_(n+1) = p_n * r`. -/
def fxOdd (w : Nat) (r : Int) : Nat → Nat → Int → Int → Int
  | 0, _, _, acc => acc
  | f + 1, n, p, acc => if p = 0 then acc else fxOdd w r f (n + 1) (fxMul w p r) (acc + Int.tdiv p (2 * n + 1))

def fxOne (w : Nat) : Int := ((2 ^ w : Nat) : Int)

/-- The inverse hyperbolic tangent of `z`, for `|z|` at most one half. -/
def fxAtanh (w : Nat) (z : Int) : Int := fxOdd w (fxMul w z z) w 0 z 0

/-- The arc tangent of `1 / q`. -/
def fxAtanInv (w q : Nat) : Int := fxOdd w (-(Int.tdiv (fxOne w) (q * q))) w 0 (Int.tdiv (fxOne w) q) 0

/-- The natural logarithm of 2. -/
def fxLn2 (w : Nat) : Int := 2 * fxAtanh w (Int.tdiv (fxOne w) 3)

/-- The circle constant (Machin). -/
def fxPi (w : Nat) : Int := 16 * fxAtanInv w 5 - 4 * fxAtanInv w 239

/-- e^r for a fixed-point `r` of magnitude below 1, and the power of two of the reduction. -/
def fxExp (w : Nat) (x : Int) : Dy :=
  let l := fxLn2 w
  let k := x / l
  (fxSeries w (x - k * l) (fun n => n + 1) w 0 (fxOne w) 0, k - w)

/-- e^x as a fixed-point number, for `x` not positive. -/
def fxExpNeg (w : Nat) (x : Int) : Int := let p := fxExp w x; scaleI p.1 (p.2 + w)

/-- ln of a positive dyadic number. -/
def fxLn (w : Nat) (m : Nat) (e : Int) : Int :=
  let l := Nat.log2 m
  let f := scaleI m ((w : Int) - l)
  let big := 3 * fxOne w ≤ 2 * f
  let k : Int := l + e + (if big then 1 else 0)
  let f := if big then f / 2 else f
  k * fxLn2 w + 2 * fxAtanh w (fxDiv w (f - fxOne w) (f + fxOne w))

/-- The hyperbolic tangent of a non-negative `x`. -/
def fxTanh (w : Nat) (x : Int) : Int :=
  if fxOne w ≤ 2 * x then
    let t := fxExpNeg w (-2 * x)
    fxDiv w (fxOne w - t) (fxOne w + t)
  else
    let q := fxMul w x x
    fxMul w x (fxDiv w (fxSeries w q (fun n => (2 * n + 2) * (2 * n + 3)) w 0 (fxOne w) 0)
      (fxSeries w q (fun n => (2 * n + 1) * (2 * n + 2)) w 0 (fxOne w) 0))

/-- The standard normal distribution function at a non-negative `x` below 16, less one half. -/
def fxPhi (w : Nat) (x : Int) : Int :=
  let q := fxMul w x x
  let t := fxSeries w q (fun n => 2 * n + 3) (4 * w) 0 x 0
  let c := (isqrt ((fxOne (3 * w) / (2 * fxPi w)).toNat) : Int)
  fxMul w (fxMul w c (fxExpNeg w (-(q / 2)))) t

/-! ## The functions (R251) -/

/-- An approximation of a function that is not algebraic, at working precision `w`: relative to the working scale it is
wrong by far less than the slack that `near` adds. -/
def fnApprox (fn w : Nat) (v : Dy) : Dy :=
  let x := fxOf w v
  let one := fxOne w
  let big := 2 ^ 13 * one
  let neg := v.1 < 0
  let decay := fun y => if big ≤ y then 0 else fxExpNeg w (-y)
  match fn with
  | 0x00 => fxExp w x
  | 0x01 => let k := x / one; let p := fxExp w (fxMul w (x - k * one) (fxLn2 w)); (p.1, p.2 + k)
  | 0x02 => (fxLn w v.1.toNat v.2, -w)
  | 0x03 => (fxDiv w (fxLn w v.1.toNat v.2) (fxLn2 w), -w)
  | 0x07 =>
    let t := decay x.natAbs
    (fxDiv w (if neg then t else one) (one + t), -w)
  | 0x08 => let t := if big ≤ x.natAbs then one else fxTanh w x.natAbs; (if neg then -t else t, -w)
  | 0x09 =>
    let t := decay x.natAbs
    ((if neg then 0 else x) + 2 * fxAtanh w (fxDiv w t (2 * one + t)), -w)
  | 0x0A => let p := fxPhi w x.natAbs; (fxMul w x (if neg then one / 2 - p else one / 2 + p), -w)
  | 0x0B => (fxSeries w (-(fxMul w x x)) (fun n => (2 * n + 2) * (2 * n + 3)) w 0 x 0, -w)
  | _ => (fxSeries w (-(fxMul w x x)) (fun n => (2 * n + 1) * (2 * n + 2)) w 0 one 0, -w)

/-- Working precision for a relative precision of `p` bits. -/
def workBits (p : Nat) : Nat := p + 320

/-- The two ends of the enclosure of an approximation. -/
def enclose (p : Nat) (a : Dy) : Dy × Dy :=
  let d : Int := Int.tdiv a.1.natAbs ((2 ^ p : Nat) : Int) + ((2 ^ 64 : Nat) : Int)
  ((a.1 - d, a.2), (a.1 + d, a.2))

/-- Round an enclosure of a number that is not exactly representable: the first precision, of three, whose ends agree.  The
last is far beyond the bits of any wide-long sum; should it not decide, the choice is free (DESIGN CHOICE, entry 40). -/
def decide2 {α : Type} [DecidableEq α] (pick : Bool) (rnd : Dy → α) (f : Nat → Dy) : α :=
  let e₁ := enclose 96 (f (workBits 96))
  if rnd e₁.1 = rnd e₁.2 then rnd e₁.1 else
    let e₂ := enclose 400 (f (workBits 400))
    if rnd e₂.1 = rnd e₂.2 then rnd e₂.1 else
      let e₃ := enclose 12000 (f (workBits 12000))
      if rnd e₃.1 = rnd e₃.2 then rnd e₃.1 else if pick then rnd e₃.2 else rnd e₃.1

/-! ## Rounding of results (R252, R253) -/

/-- The first of the two roundings to binary32: two bits below the last place of the result (R253). -/
def preRound32 (v : Dy) : Dy :=
  if v.1 = 0 then v else
    let q : Int := max ((Nat.log2 v.1.natAbs : Int) + v.2) (-126) - 25
    (scaleRne v.1 (v.2 - q), q)

/-- The result of a real value in type `dt` (R252, R253); an underflow is a non-zero value written as zero. -/
def roundFn (dt : Nat) (s : Int) (v : Dy) : Conv :=
  let c :=
    if dt = 0x0 then let p := preRound32 v; encFloat binary32 true (.num p.1 p.2)
    else encOf dt s true (.num v.1 v.2)
  { c with unf := v.1 != 0 && c.bits = 0 }

/-- A quotient of naturals times a power of two, with a sticky last bit. -/
def ratio (a b : Nat) (e : Int) : Dy :=
  let sh := 200 + Nat.log2 b - min (Nat.log2 a) (Nat.log2 b)
  let n := a * 2 ^ sh
  (((2 * (n / b) + (if n % b = 0 then 0 else 1) : Nat) : Int), e - sh - 1)

/-- The square root of `a / b * 2 ^ e`, with a sticky last bit. -/
def rootRatio (a b : Nat) (e : Int) : Dy :=
  let a := if e % 2 = 0 then a else 2 * a
  let e := if e % 2 = 0 then e else e - 1
  let sh := 200 + Nat.log2 b - min (Nat.log2 a) (Nat.log2 b)
  let n := a * 2 ^ (2 * sh)
  let r := isqrt (n / b)
  (((2 * r + (if r * r * b = n then 0 else 1) : Nat) : Int), e / 2 - sh - 1)

/-- What a built-in function does with a value. -/
inductive FnOut where
  /-- NaR, or the canonical NaN; whether DOMAIN_EVENTS counts it -/
  | nar (domain : Bool)
  /-- the largest magnitude, from an infinite input -/
  | largest
  /-- a value known exactly, or to within a sticky bit -/
  | exactly (v : Dy)
  /-- a value beyond every format: large, or non-zero and vanishing -/
  | huge
  | tiny
  /-- a transcendental value -/
  | near
  deriving DecidableEq, Repr

/-- The cases of R254 for an infinite input. -/
def fnInf (fn : Nat) (neg : Bool) : FnOut :=
  match fn with
  | 0x04 => .exactly (0, 0)
  | 0x05 => if neg then .nar true else .exactly (0, 0)
  | 0x07 => .exactly (bit01 (!neg), 0)
  | 0x08 => .exactly (if neg then -1 else 1, 0)
  | 0x0B | 0x0C => .nar true
  | 0x02 | 0x03 | 0x06 => if neg then .nar true else .largest
  | _ => if neg then .exactly (0, 0) else .largest

/-- The cases of a finite input (R251, R254).  GELU of a value from 16 on lies below it by less than any last place. -/
def fnFinite (fn : Nat) (m e : Int) : FnOut :=
  let a := m.natAbs
  let above := fun (n : Nat) => !dyLt (a : Int) e n 0
  match fn with
  | 0x00 | 0x01 =>
    if m = 0 then .exactly (1, 0)
    else if above 8192 then (if m < 0 then .tiny else .huge)
    else if fn = 0x01 && scaleI (scaleI m e) (-e) = m then .exactly (1, scaleI m e)
    else .near
  | 0x02 | 0x03 =>
    if m ≤ 0 then .nar true
    else if a = 2 ^ Nat.log2 a ∧ (fn = 0x03 ∨ (Nat.log2 a : Int) + e = 0) then .exactly ((Nat.log2 a : Int) + e, 0)
    else .near
  | 0x04 =>
    if m = 0 then .nar true
    else let q := ratio 1 a (-e); .exactly (if m < 0 then -q.1 else q.1, q.2)
  | 0x05 => if m ≤ 0 then .nar true else .exactly (rootRatio 1 a (-e))
  | 0x06 => if m < 0 then .nar true else if m = 0 then .exactly (0, 0) else .exactly (rootRatio a 1 e)
  | 0x07 => if m = 0 then .exactly (1, -1) else if m < 0 && above 8192 then .tiny else .near
  | 0x09 => if m < 0 && above 8192 then .tiny else .near
  | 0x0A =>
    if m = 0 then .exactly (0, 0)
    else if above 16 then (if m < 0 then .tiny else .exactly (m * (2 ^ 200 : Nat) - 1, e - 200))
    else .near
  | 0x0B | 0x0C =>
    if above 4 then .nar true
    else if m = 0 then .exactly (if fn = 0x0B then 0 else 1, 0) else .near
  | _ => if m = 0 then .exactly (0, 0) else .near

/-- One result of a built-in function: its bits, and the counters it moves. -/
structure FnRes where
  bits : Nat
  domain : Bool := false
  ovf : Bool := false
  unf : Bool := false
  deriving DecidableEq, Repr

def ofConv (c : Conv) : FnRes := ⟨c.bits, false, c.ovf, c.unf⟩

/-- A built-in function of one element (R250 to R254).  SOFTPLUS of the largest value lies beyond it by less than any
working precision shows, and counts (R254). -/
def builtin (fn dt : Nat) (s : Int) (b : Nat) : FnRes :=
  let v := valOf dt s b
  let o : FnOut := match v with
    | .nan => .nar false
    | .inf neg => fnInf fn neg
    | .num m e => fnFinite fn m e
  match o with
  | .nar d => ⟨nanBits dt, d, false, false⟩
  | .largest | .huge => ⟨largestFinite dt false, false, true, false⟩
  | .tiny => ⟨0, false, false, true⟩
  | .exactly x => ofConv (roundFn dt s x)
  | .near => match v with
    | .num m e =>
      let r := ofConv (decide2 (Config.roundUp fn m e) (roundFn dt s) (fun w => fnApprox fn w (m, e)))
      { r with ovf := r.ovf || (fn = 0x09 && b = largestFinite dt false) }
    | _ => ⟨nanBits dt, false, false, false⟩

/-! ## Terms of a softmax row (R259, R262) -/

/-- Rounding to a 24-bit significand, ties to even. -/
def round24 (v : Dy) : Dy :=
  if v.1 = 0 then v else
    let q : Int := (Nat.log2 v.1.natAbs : Int) - 23
    let n := scaleRne v.1 (-q)
    if n.natAbs = 2 ^ 24 then (Int.tdiv n 2, v.2 + q + 1) else (n, v.2 + q)

/-- The term e^v of a finite input: none when it is not below 2^2048, zero when it is below 2^-2048. -/
def expTerm (m e : Int) : Option Dy :=
  if m = 0 then some (2 ^ 23, -23)
  else if !dyLt m e 8192 0 then none
  else if !dyLt (-8192) 0 m e then some (0, 0)
  else
    let t := decide2 (Config.roundUp 0x40 m e) round24 (fun w => fxExp w (fxOf w (m, e)))
    let o := (Nat.log2 t.1.natAbs : Int) + t.2
    if 2048 ≤ o then none else if o < -2048 then some (0, 0) else some t

/-- The L32 word of e^v (R43, R256), for `|v|` below 1,420.  The word of 1.0, octave 0 and fraction 0, is the one that R44
reads as zero: e^0 shows 0x0000_0000 (DESIGN CHOICE, entry 118). -/
def longLogExp (m e : Int) : Word :=
  let w := 128
  let d := scaleRne (fxDiv w (fxOf w (m, e)) (fxLn2 w)) (19 - (w : Int))
  BitVec.ofNat 32 (wrap 31 d)

/-- The L32 words of zero and of NaR (R44, R55). -/
def l32Zero : Word := 0
def l32Nar : Word := 0x80000000

/-- The L32 word of the term e^v of a value (R44, R256, R259): zero for a flushed term, NaR for one that is not a number;
beyond 2^2048 it is free. -/
def expWord (fn dt : Nat) (s : Int) (b : Nat) : Word :=
  match valOf dt s b with
  | .nan => l32Nar
  | .inf neg => if neg then l32Zero else Config.longLog fn dt s b 0
  | .num m e => match expTerm m e with
    | some t => if t.1 = 0 then l32Zero else longLogExp m e
    | none => Config.longLog fn dt s b 0

end Sys2Proof.Machine
end

