-- ==== Sys2Proof/Machine/Egret.lean ====
section
/-! DEFINITION. The Egret unit: element functions, row operations, micro-programs (R249 to R284). -/

namespace Sys2Proof.Machine

open Sys2Proof

/-- A unit fault of the Egret page. -/
def egretFault (shared detail : Nat) : Act := .fault 2 shared detail 0 0

/-! ## Element functions -/

/-- The type bit of a micro-program image (R271). -/
def microType (dt : Nat) : Nat :=
  match dt with
  | 0x4 => 0
  | 0x3 => 1
  | 0x1 => 2
  | 0x2 => 3
  | _ => 4

/-- The functions of Rerda mode (R276). -/
def rerdaFn (fn : Nat) : Bool := [0x00, 0x02, 0x04, 0x05, 0x06, 0x07, 0x08, 0x0A].contains fn

/-- A TRC-1 result with its negative zero and NaNs replaced (R278). -/
def rerdaFix (dt b : Nat) : Nat :=
  let f := dtFloat dt
  let b := b % 2 ^ dtWidth dt
  let mag := b % 2 ^ (dtWidth dt - 1)
  if f.infBits < mag then f.nanBits else if mag = 0 then 0 else b

/-- What one element of EFN delivers; a micro-program, too, writes no negative zero and one NaN (R56, R57, R275). -/
def efnElem (k : Core) (fn dt : Nat) (s : Int) (b : Nat) : FnRes :=
  if 0x80 ≤ fn then ⟨rerdaFix dt (Config.rerdaResult (fn % 64) dt b), false, false, false⟩
  else if 0x20 ≤ fn then match mget k.micro (fn - 0x20) with
    | some p =>
      ⟨ownElem dt (Config.microResult p.words p.steps p.func dt (if dt = 0x4 then s else 0) b % 2 ^ dtWidth dt), false,
        false, false⟩
    | none => ⟨0, false, false, false⟩
  else builtin fn dt s b

/-- The counters of a list of element results (R281): pulses of IRQ bit 1 with DOMAIN_EVENTS. -/
def egretCount (s : State) (c : Fin 16) (l : List FnRes) : State :=
  let n := fun (p : FnRes → Bool) => (l.filter p).length
  let pg := PageId.core c 2
  let s := bump s pg 1 (n (·.domain))
  let s := if n (·.domain) = 0 then s else pulseIrq s pg 1
  bump (bump s pg 2 (n (·.ovf))) pg 3 (n (·.unf))

/-- The long-log word of one element of EFN (R256): that of EXP, or NaR; of another function's path, of a micro-program and
in Rerda mode it is free (entry 40). -/
def efnWord (fn dt : Nat) (s : Int) (b salt : Nat) : Word :=
  if 0x20 ≤ fn then Config.longLog fn dt s b (salt + 1)
  else if fn = 0 then expWord fn dt s b
  else if (valOf dt s b).isNan then l32Nar
  else Config.longLog fn dt s b 0

/-- The results of EFN on the governed elements, and their counts. -/
def efnAct (c : Fin 16) (w : DWord) (s : State) : Act :=
  let k := getCore s c
  let dt := dtA w
  let fn := fnA w
  let wd := dtWidth dt
  let sc := scaleOf k (fRc w)
  let v := getV k (fRa w)
  let js := active wd (laneMask k w)
  let rs := js.map (fun j => (j, efnElem k fn dt sc (elem wd v j)))
  let old := getV k (fRd w)
  let res := ofElems wd ((List.range (elems wd)).map (fun j =>
    match rs.find? (fun x => x.1 = j) with
    | some x => x.2.bits
    | none => elem wd old j))
  let s := modCore s c (fun k =>
    { setV k (fRd w) res with l32 := js.foldl (fun m j =>
        mputD m 0 (laneOf wd j) (efnWord fn dt sc (elem wd v j) s.freeIdx)) k.l32 })
  let s := if 0x20 ≤ fn then (drawFree s).2 else s
  let s := bump s (.core c 2) 0 js.length
  let s := if 0x80 ≤ fn then bump s (.core c 2) 10 js.length else s
  .done (egretCount s c (rs.map (·.2)))

/-- EFN (R250 to R255, R274 to R279). -/
def execEfn (c : Fin 16) (w : DWord) (s : State) : Res :=
  let fn := fnA w % 64
  .next (issue c 0x60 false
    (dtReal (dtA w) && !(fnA w).testBit 6 && (fn ≤ 0x0C || (0x20 ≤ fn && fn < 0x30)) && zeroA w) w s
    (if 0x80 ≤ fnA w then
      if rerdaFn fn && dtIeee (dtA w) then efnAct c w s else egretFault 0x0E 8
     else if 0x20 ≤ fn then
      match mget (getCore s c).micro (fn - 0x20) with
      | some p => if p.types.testBit (microType (dtA w)) then efnAct c w s else egretFault 0x0E 3
      | none => egretFault 0x0E 3
     else efnAct c w s))

/-! ## Row operations (R257 to R270) -/

/-- The operands of EROW (R257). -/
structure RowOp where
  out : Nat
  inp : Nat
  len : Nat
  rows : Nat
  s : Int
  eps : Nat
  stride : Nat
  op : Nat
  phase : Nat
  slot : Nat
  dt : Nat
  deriving DecidableEq, Repr

def rowOf (w rd ra rb rc : DWord) : RowOp :=
  ⟨rd.toNat, ra.toNat, fld rb 47 0, fld rb 63 48 + 1, sgn 8 (fld rc 7 0), fld rc 23 8, fld rc 63 32,
    bitsOf (fnA w) 1 0, bitsOf (fnA w) 3 2, bitsOf (fnA w) 7 4, dtA w⟩

/-- Bytes of the outputs of a row, and where row `r` writes (R258). -/
def rowOutBytes (q : RowOp) : Nat := if q.op = 2 then dtBytes q.dt else q.len * dtBytes q.dt
def rowOutAddr (q : RowOp) (r : Nat) : Nat := if q.op = 2 then q.out + r * dtBytes q.dt else q.out + r * q.stride

/-- An APPLY of LOGSUMEXP reads no row (R265). -/
def rowReads (q : RowOp) : Bool := q.phase = 0 || q.phase = 1 || (q.phase = 2 && q.op != 2)
def rowWrites (q : RowOp) : Bool := q.phase = 0 || q.phase = 2

/-- The SHAPE conditions of R279; stride and alignment are taken as SHAPE, as R279 lists them (DEDUCED, entry 39). -/
def rowShapeOk (q : RowOp) (rc : DWord) : Bool :=
  let b := dtBytes q.dt
  fld rc 31 24 = 0 && (q.op = 0 || q.eps = 0) && (q.phase != 0 || q.slot = 0) && (q.phase = 0 || q.rows = 1) &&
    (!rowReads q || (0 < q.len && q.stride % b = 0 && q.len * b ≤ q.stride && q.inp % b = 0)) &&
    (!rowWrites q || q.out % b = 0)

/-- The kind an operation gives a slot (R265). -/
def rowKind (op : Nat) : SlotKind := if op = 0 then .rms else .exp

def slotOf (k : Core) (i : Nat) : StatSlot := mgetD k.slots {} i

/-- SUM on a slot of the other kind, or APPLY on a slot not of the kind (R266). -/
def slotOk (k : Core) (q : RowOp) : Bool :=
  let kd := (slotOf k q.slot).kind
  q.phase = 0 || kd = rowKind q.op || (q.phase = 1 && kd = .empty)

/-- EROW (R257 to R270, R279): checked at issue, executed at its completion. -/
def execErow (c : Fin 16) (w : DWord) (s : State) : Res :=
  let k := getCore s c
  let q := rowOf w (getS k (fRd w)) (getS k (fRa w)) (getS k (fRb w)) (getS k (fRc w))
  .next (issue c 0x61 false (dtReal (dtA w) && q.op != 3 && zeroA w) w s
    (if q.phase = 3 then .done (pushD s c w)
     else if !rowShapeOk q (getS k (fRc w)) then egretFault 0x0E 1
     else if !slotOk k q then egretFault 0x0E 2
     else firstAct
      ((List.range q.rows).flatMap (fun r =>
        [if rowReads q then spadCheck s c 1 (q.inp + r * q.stride) (q.len * dtBytes q.dt) else none,
         if rowWrites q then spadCheck s c 1 (rowOutAddr q r) (rowOutBytes q) else none]))
      (.done (pushD s c w))))

/-- The unit of a wide-long: bit 0 has weight 2^-2080 (R260). -/
def wideBias : Int := 2080

/-- What one element adds to a statistic. -/
structure RowTerm where
  sum : Int := 0               -- in units of the wide-long
  nar : Bool := false
  range : Bool := false
  underflow : Bool := false
  log : Word
  deriving DecidableEq, Repr

/-- The term of an element and its L32 word (R44, R259, R262, R263). -/
def rowTerm (q : RowOp) (b : Nat) : RowTerm :=
  let v := valOf q.dt q.s b
  if q.op = 0 then
    let sq := if q.dt = 0x3 then mulL16 b b else if q.dt = 0x4 then mulL8 q.s b b else v.mul v
    match sq with
    | .num m e => { sum := scaleI m (e + wideBias),
                    log := if m = 0 then l32Zero else Config.longLog 0x40 q.dt q.s b 0 }
    | _ => { nar := true, log := l32Nar }
  else
    let log := expWord 0x41 q.dt q.s b
    match v with
    | .nan => { nar := true, log := log }
    | .inf neg => { range := !neg, log := log }
    | .num m e => match expTerm m e with
      | none => { range := true, log := log }
      | some t => { sum := scaleI t.1 (t.2 + wideBias), underflow := t.1 = 0, log := log }

/-- The statistic of a row on top of an earlier one. -/
def rowStat (a : StatSlot) (ts : List RowTerm) (len : Nat) (kind : SlotKind) (poison : Bool) : StatSlot :=
  { kind := kind, sum := a.sum + BitVec.ofInt 4224 ((ts.map (·.sum)).sum), n := a.n + BitVec.ofNat 64 len,
    poison := a.poison || poison, nar := a.nar || ts.any (·.nar), range := a.range || ts.any (·.range) }

/-- One output of RMSNORM: x / sqrt (S / N + ε) (R261, R264). -/
def rmsOut (q : RowOp) (a : StatSlot) (b : Nat) : FnRes :=
  let sm := sgn 4224 a.sum.toNat
  match valL16 q.eps, valOf q.dt q.s b with
  | .num me ee, .num m e =>
    let n : Int := a.n.toNat
    let d := sm + scaleI (me * n) (ee + wideBias)
    if d < 0 then ⟨nanBits q.dt, false, false, false⟩
    else if d = 0 || m = 0 then ⟨0, false, false, false⟩
    else
      let r := rootRatio (m.natAbs * m.natAbs * a.n.toNat) d.toNat (2 * e + wideBias)
      ofConv (roundFn q.dt q.s (if m < 0 then -r.1 else r.1, r.2))
  | _, _ => ⟨nanBits q.dt, false, false, false⟩

/-- One output of SOFTMAX: T / S (R261). -/
def softOut (q : RowOp) (a : StatSlot) (t : RowTerm) : FnRes :=
  let sm := sgn 4224 a.sum.toNat
  if t.sum = 0 then ⟨0, false, false, false⟩
  else ofConv (roundFn q.dt q.s (ratio t.sum.toNat sm.toNat 0))

/-- The output of LOGSUMEXP: ln S (R261). -/
def lseOut (q : RowOp) (a : StatSlot) : FnRes :=
  let sm := (sgn 4224 a.sum.toNat).toNat
  if sm = 2 ^ Nat.log2 sm ∧ (Nat.log2 sm : Int) = wideBias then ⟨0, false, false, false⟩
  else ofConv (decide2 (Config.roundUp 0x42 sm 0) (roundFn q.dt q.s) (fun w => (fxLn w sm (-wideBias), -w)))

/-- The row denominator has no root, or no value: NaR and a DOMAIN_EVENTS count (R264). -/
def rowDomain (q : RowOp) (a : StatSlot) : Bool :=
  let sm := sgn 4224 a.sum.toNat
  if q.op = 0 then match valL16 q.eps with
    | .num me ee => sm + scaleI (me * (a.n.toNat : Int)) (ee + wideBias) < 0
    | _ => false
  else sm = 0

/-- The outputs of a row from its statistic (R261 to R264, R267, R284). -/
def rowOutputs (q : RowOp) (a : StatSlot) (bs : List Nat) (ts : List RowTerm) : List FnRes × Bool × Bool :=
  let n := if q.op = 2 then 1 else q.len
  let nar : List FnRes := List.replicate n ⟨nanBits q.dt, false, false, false⟩
  if a.nar || (q.op = 0 && (valL16 q.eps).isNan) then (nar, false, false)
  else if a.range then (nar, true, false)
  else if rowDomain q a then (nar, false, true)
  else if q.op = 0 then (bs.map (rmsOut q a), false, false)
  else if q.op = 1 then (ts.map (softOut q a), false, false)
  else ([lseOut q a], false, false)

/-- Counts of a row written: ROWS, ROW_RANGE, DOMAIN_EVENTS and the results' own. -/
def rowCount (s : State) (c : Fin 16) (o : List FnRes × Bool × Bool) : State :=
  let pg := PageId.core c 2
  let s := bump s pg 4
  let s := if o.2.1 then pulseIrq (bump s pg 5) pg 2 else s
  let s := if o.2.2 then pulseIrq (bump s pg 1) pg 1 else s
  egretCount s c o.1

/-- One row of an EROW: phases WHOLE, SUM and APPLY. -/
def runRow (s : State) (c : Fin 16) (q : RowOp) (r : Nat) : State :=
  let b := dtBytes q.dt
  let k := getCore s c
  let a := q.inp + r * q.stride
  let bs := if rowReads q then (List.range q.len).map (fun i => k.spad.readLE (a + i * b) b) else []
  let ts := bs.map (rowTerm q)
  let slot := if q.phase = 0 then {} else slotOf k q.slot
  let dirty := (rowReads q && k.spad.poisonedAt 32 a (q.len * b)) || (q.phase = 2 && slot.poison)
  let l32 := ((List.range bs.length).zip ts).foldl (fun m x => mputD m 0 (x.1 % 64) x.2.log) k.l32
  let s := modCore s c (fun k => { k with l32 := l32 })
  let s := if q.phase = 2 then s else bump s (.core c 2) 6 (ts.filter (·.underflow)).length
  let s := if dirty then bump s (.core c 2) 7 else s
  if q.phase = 1 then
    modCore s c (fun k =>
      { k with slots := mputD k.slots {} q.slot (rowStat slot ts q.len (rowKind q.op) dirty) })
  else
    let st := if q.phase = 0 then rowStat {} ts q.len (rowKind q.op) dirty
      else { slot with nar := slot.nar || ts.any (·.nar), range := slot.range || (q.op != 0 && ts.any (·.range)) }
    let o := rowOutputs q st bs ts
    let s := spadWriteP s c (rowOutAddr q r) (withMark dirty (o.1.flatMap (fun x => leBytes b x.bits)))
    rowCount s c o

/-- Completion of EROW. -/
def finishErow (s : State) (c : Fin 16) (d : DOp) : State :=
  let q := rowOf d.w d.rd d.ra d.rb d.rc
  if q.phase = 3 then modCore s c (fun k => { k with slots := mdel k.slots q.slot })
  else (List.range q.rows).foldl (fun s r => runRow s c q r) s

/-! ## Micro-programs (R271 to R275, R282, R283) -/

/-- Bytes of a micro-program image whose header is at `a`; only the header where WORDS is out of range. -/
def imageLen (k : Core) (a : Nat) : Nat :=
  let n := k.spad.readLE (a + 4) 2
  if 1 ≤ n ∧ n ≤ 512 then 32 + 8 * n + 96 else 32

/-- EMPLD (R271, R279): the whole image must be readable. -/
def execEmpld (c : Fin 16) (w : DWord) (s : State) : Res :=
  let k := getCore s c
  let a := addrM k w
  .next (issue c 0x62 false (fnM w = 0 && dtM w = 0) w s
    (match spadReadCheck s c 32 a 32 with
      | some t => t
      | none => firstAct [spadReadCheck s c 32 a (imageLen k a)] (.done (pushD s c w))))

/-- Words the loaded slots hold, other than one of them (R272, R273). -/
def microWords (k : Core) (but : Nat) : Nat :=
  ((k.micro.filter (fun x => x.1 != but)).map (fun x => x.2.words.length)).sum

/-- The check an image fails first (R272): its code and page detail. -/
def imageFault (s : State) (c : Fin 16) (img : List Byte) : Option (Byte × Nat) :=
  let n := leField img 4 2
  let f := fun i => (img.getD i 0).toNat
  if !(regOf s (.core c 2) 0x04C).testBit 0 then some (stProtection, 5)
  else if !(leField img 0 2 = 0xE67C && f 2 = 1 && f 3 < 16 && 1 ≤ n && n ≤ 512 && 1 ≤ f 6 && f 6 ≤ 64 &&
      f 7 < 32 && leField img 12 4 = 2 && leField img 20 12 = 0) then some (stUnsupported, 6)
  else if !Config.microSignature img then some (stProtection, 4)
  else if 512 < microWords (getCore s c) (f 3) + n then some (stUnsupported, 7)
  else none

/-- Completion of EMPLD (R272, R273). -/
def finishEmpld (s : State) (c : Fin 16) (d : DOp) : State :=
  let k := getCore s c
  let a := (d.ra + BitVec.ofInt 64 (imm32 d.w)).toNat
  let img := k.spad.read a (imageLen k a)
  let pg := PageId.core c 2
  match imageFault s c img with
  | some f =>
    let s := modCore s c (fun k => setS k (fRd d.w) (f.1.zeroExtend 64))
    captureOpen (bump s pg 9) pg f.1 f.2
  | none =>
    let n := leField img 4 2
    let p : Micro := {
      words := (List.range n).map (fun i => BitVec.ofNat 64 (leField img (32 + 8 * i) 8)),
      steps := (img.getD 6 0).toNat, types := (img.getD 7 0).toNat, func := BitVec.ofNat 32 (leField img 8 4) }
    let s := modCore s c (fun k =>
      { setS k (fRd d.w) 0 with micro := mput k.micro (img.getD 3 0).toNat p })
    pulseIrq (bump s pg 8) pg 3

/-! ## The image table (R28, R280) -/

/-- IMG_DATA_READ (R280): m16[IMG_INDEX], and the index advances. -/
def execImgDataRead (rq : Requester) (n : Fin 16) (s : State) : Res :=
  .next (gatedRead s rq (.core n 2) (fun p =>
    let i := regOf s p 0x040 % 256
    emit (.readData (BitVec.ofNat 64 (m16 i))) (putReg s p 0x040 ((i + 1) % 256))))

end Sys2Proof.Machine
end

