-- ==== Sys2Proof/Machine/Sandpiper.lean ====
section
/-! DEFINITION. The Sandpiper unit and the fold: rank order, threshold compaction, sorting, the ladder, error feedback
(R285 to R329).  The conservation check that ends a FOLD stands with the fencing of cores. -/

namespace Sys2Proof.Machine

open Sys2Proof

/-- A unit fault of the Sandpiper page: always UNSUPPORTED (R323). -/
def sandFault (detail : Nat) : Act := .fault 3 0x0E detail 0 0

/-! ## Rank order (R285, R286) -/

/-- Magnitude key of an element; NaR is its own word, above every code (R285). -/
def magKey (dt b : Nat) : Nat :=
  let w := dtWidth dt
  let b := b % 2 ^ w
  match dt with
  | 0x3 | 0x4 => if b = 2 ^ (w - 1) then b else b % 2 ^ (w - 1)
  | 0x8 => (sgn 32 b).natAbs
  | 0xC => b
  | _ => b % 2 ^ (w - 1)

/-- NaR or NaN. -/
def isNar (dt b : Nat) : Bool := dt < 6 && (valOf dt 0 b).isNan

/-- Key in the signed order. -/
def signedKey (dt b : Nat) : Int :=
  let w := dtWidth dt
  let b := b % 2 ^ w
  if isNar dt b then 2 ^ 40
  else match dt with
    | 0x8 => sgn 32 b
    | 0xC => b
    | _ => let m : Int := b % 2 ^ (w - 1); if b.testBit (w - 1) then -m else m

/-- Key of an element in the order an instruction names. -/
def rankKey (dt : Nat) (mag : Bool) (b : Nat) : Int := if mag then magKey dt b else signedKey dt b

/-! ## The selection descriptor (R287, R288) -/

structure SelDesc where
  src : Nat
  resIn : Nat
  resOut : Nat
  idxOut : Nat
  valOut : Nat
  summary : Nat
  len : Nat
  cap : Nat
  base : Nat
  s : Int
  g : Int
  sRaw : Nat
  gRaw : Nat
  deriving DecidableEq, Repr

def selDesc (d : BitVec 512) : SelDesc :=
  ⟨fld d 63 0, fld d 127 64, fld d 191 128, fld d 255 192, fld d 319 256, fld d 383 320, fld d 415 384, fld d 447 416,
    fld d 495 448, sgn 8 (fld d 503 496), sgn 8 (fld d 511 504), fld d 503 496, fld d 511 504⟩

/-- Fields that both instructions share: lengths in range and address bits zero. -/
def selCommonOk (q : SelDesc) : Bool :=
  1 ≤ q.len && q.len ≤ 2 ^ 24 && q.cap ≤ q.len &&
    [q.src, q.resIn, q.resOut, q.idxOut, q.valOut, q.summary].all (fun a => a < 2 ^ 24)

/-- A region of the scratchpad. -/
structure Span where
  a : Nat
  n : Nat
  al : Nat
  deriving DecidableEq, Repr

def spansMeet (x y : Span) : Bool := x.n != 0 && y.n != 0 && x.a < y.a + y.n && y.a < x.a + x.n

/-- The inputs and outputs of SP.THR and of FOLD. -/
def thrIn (dt : Nat) (q : SelDesc) : List Span := [⟨q.src, q.len * dtBytes dt, dtBytes dt⟩]
def thrOut (dt : Nat) (q : SelDesc) : List Span :=
  [⟨q.idxOut, 8 * q.cap, 8⟩, ⟨q.valOut, q.cap * dtBytes dt, dtBytes dt⟩, ⟨q.summary, 256, 32⟩]
def foldIn (dt : Nat) (q : SelDesc) : List Span := [⟨q.src, q.len * dtBytes dt, dtBytes dt⟩, ⟨q.resIn, 8 * q.len, 8⟩]
def foldOut (q : SelDesc) : List Span :=
  [⟨q.resOut, 8 * q.len, 8⟩, ⟨q.idxOut, 8 * q.cap, 8⟩, ⟨q.valOut, q.cap, 1⟩, ⟨q.summary, 256, 32⟩]

/-- Some output overlaps another output or an input; RES_OUT may equal RES_IN exactly (R288). -/
def overlaps (ins outs : List Span) (same : Span → Span → Bool) : Bool :=
  ((List.range outs.length).any (fun i => (List.range i).any (fun j =>
    match outs[i]?, outs[j]? with
    | some x, some y => spansMeet x y
    | _, _ => false))) ||
  outs.any (fun o => ins.any (fun i => spansMeet o i && !same o i))

/-- The checks of a descriptor in the order SHAPE, MISALIGNED, SPAD_RANGE, OVERLAP (DEDUCED, entry 39). -/
def selCheck (s : State) (c : Fin 16) (shape : Bool) (ins outs : List Span) (same : Span → Span → Bool) (a : Act) : Act :=
  if !shape then sandFault 1
  else
    let all := ins ++ outs
    match all.find? (fun x => x.a % x.al != 0) with
    | some x => .trap 0x02 0 0x0E x.a
    | none =>
      match all.find? (fun x => !spadOk s c x.a x.n) with
      | some x => .trap 0x03 0 0x03 x.a
      | none => if overlaps ins outs same then sandFault 2 else a

/-! ## Selection (R291 to R293) -/

/-- The `n`-th largest of a list of keys below 2^64, for `n` between 1 and the length: the highest value that at least
`n` keys reach. -/
def kthKey (keys : List Nat) (n : Nat) : Nat :=
  (List.range 64).foldl (fun acc i =>
    let t := acc + 2 ^ (63 - i)
    if n ≤ (keys.filter (fun k => t ≤ k)).length then t else acc) 0

/-- The outcome of a selection over indexed candidate keys. -/
structure Sel where
  chosen : List Nat
  capped : Bool
  tie : Bool
  cut : Option Nat             -- CUT_KEY; none where no C-th candidate exists (C = 0)
  deriving DecidableEq, Repr

/-- Selection among candidates `(index, key)` in ascending index order. -/
def selectCap (cands : List (Nat × Nat)) (cap : Nat) : Sel :=
  if cands.length ≤ cap then ⟨cands.map (·.1), false, false, some 0⟩
  else if cap = 0 then ⟨[], true, false, none⟩
  else
    let mu := kthKey (cands.map (·.2)) cap
    let above := (cands.filter (fun x => mu < x.2)).length
    let level := (cands.filter (fun x => x.2 = mu)).length
    let go := cands.foldl (fun (acc : List Nat × Nat) x =>
      if mu < x.2 then (x.1 :: acc.1, acc.2)
      else if x.2 = mu && 0 < acc.2 then (x.1 :: acc.1, acc.2 - 1)
      else acc) ([], cap - above)
    ⟨go.1.reverse, true, cap - above < level, some mu⟩

/-! ## Summary records (R296) -/

/-- A double-long sum as bytes. -/
def dlBytes (n : Int) : List Byte := leBytes 80 (wrap 640 n)

/-- The 256 bytes of a summary record. -/
def summaryBytes (selected considered saturated clamped qzero nar cut flags status : Nat) (sel lo : Int) : List Byte :=
  leBytes 8 selected ++ leBytes 8 considered ++ leBytes 8 saturated ++ leBytes 8 clamped ++ leBytes 8 qzero ++
    leBytes 8 nar ++ leBytes 8 cut ++ leBytes 4 flags ++ leBytes 4 status ++ dlBytes sel ++ dlBytes lo ++
    List.replicate 32 0

/-- CUT_KEY of a selection among candidates; a free value of them, the same on every run, where the specification defines none
(DESIGN CHOICE, entry 90). -/
def cutKey (cands : List (Nat × Nat)) (x : Sel) : Nat :=
  match x.cut with
  | some k => k
  | none => (Config.cutKey cands).toNat

/-- What SP.THR and FOLD leave on the page when they complete (R325, R326). -/
def selReport (s : State) (c : Fin 16) (flags : Nat) : State :=
  let pg := PageId.core c 3
  let s := modCore s c (fun k => { k with lastFlags := flags % 256 })
  let s := if flags.testBit 0 then bump s pg 9 else s
  let s := if flags.testBit 1 then pulseIrq (bump s pg 8) pg 1 else s
  let s := if flags.testBit 3 then pulseIrq s pg 3 else s
  if flags.testBit 4 then pulseIrq s pg 4 else s

/-- Queue a descriptor instruction with the descriptor it read at issue, and whether that was poisoned. -/
def pushDesc (s : State) (c : Fin 16) (w : DWord) (d : BitVec 512) (poison : Bool) : State :=
  modCore s c (fun k => { k with dops := k.dops ++ [
    ⟨w, 0, getS k (fRa w), getS k (fRb w), 0, 0, [d.zeroExtend 2048], if poison then [1] else []⟩] })

/-! ## SP.THR (R287 to R298, R320) -/

/-- Read the descriptor of SP.THR or FOLD: misaligned and out-of-range addresses trap (R324). -/
def descAct (s : State) (c : Fin 16) (w : DWord) (f : BitVec 512 → Bool → Act) : Act :=
  let a := (getS (getCore s c) (fRa w)).toNat
  match spadCheck s c 64 a 64 with
  | some t => t
  | none => f (BitVec.ofNat 512 (leNat (spadRead s c a 64))) (spadPoison s c a 64)

/-- SP.THR (R290): checked at issue. -/
def execSpThr (c : Fin 16) (w : DWord) (s : State) : Res :=
  let dt := dtA w
  .next (issue c 0x68 false (dtReal dt && fnA w = 0 && zeroA w) w s
    (descAct s c w (fun d p =>
      let q := selDesc d
      let tau := (getS (getCore s c) (fRb w)).toNat
      selCheck s c
        (selCommonOk q && fRc w = 0 && q.resIn = 0 && q.resOut = 0 && q.gRaw = 0 && (dt = 0x4 || q.sRaw = 0) &&
          !isNar dt tau)
        (thrIn dt q) (thrOut dt q) (fun _ _ => false) (.done (pushDesc s c w d p)))))

/-- A value in units of a double-long, and whether it is not a real number. -/
def dlTerm (v : Val) : Int × Bool :=
  match v with
  | .num m e => (scaleI m (e + 320), false)
  | _ => (0, true)

/-- Sum of the terms of a list of values. -/
def dlSum (vs : List Val) : Int × Bool :=
  vs.foldl (fun acc v => let t := dlTerm v; (acc.1 + t.1, acc.2 || t.2)) (0, false)

/-- Completion of SP.THR. -/
def finishThr (s : State) (c : Fin 16) (d : DOp) : State :=
  let dt := dtA d.w
  let b := dtBytes dt
  let q := selDesc (BitVec.ofNat 512 ((d.va.getD 0 0).toNat))
  let k := getCore s c
  let es := (List.range q.len).map (fun i => (i, k.spad.readLE (q.src + b * i) b))
  let poison := k.spad.poisonedAt 32 q.src (q.len * b) || !d.vb.isEmpty
  let tau := magKey dt d.rb.toNat
  let cands := (es.filter (fun x => isNar dt x.2 || tau ≤ magKey dt x.2)).map (fun x => (x.1, magKey dt x.2))
  let sel := selectCap cands q.cap
  let mask := (sel.chosen.map (fun i => (i, ())) : SMap Unit)
  let parts := es.partition (fun x => (mget mask x.1).isSome)
  let ss := dlSum (parts.1.map (fun x => valOf dt q.s x.2))
  let ls := dlSum (parts.2.map (fun x => valOf dt q.s x.2))
  let nar := (es.filter (fun x => isNar dt x.2)).length
  let flags := bit01 sel.capped + 2 * bit01 sel.tie + 4 * bit01 poison + 16 * bit01 (nar != 0) + 64 * bit01 ss.2 +
    128 * bit01 ls.2
  let code : Byte := if poison then stPoison else stOk
  let put := fun (s : State) (a : Nat) (bs : List Byte) => spadWriteP s c a (withMark poison bs)
  let s := put s q.idxOut (parts.1.flatMap (fun x => leBytes 8 ((q.base + x.1) % 2 ^ 48)))
  let s := put s q.valOut (parts.1.flatMap (fun x => leBytes b x.2))
  let s := put s q.summary (summaryBytes parts.1.length q.len 0 0 0 nar (cutKey cands sel) flags code.toNat ss.1 ls.1)
  let s := modCore s c (fun k => setS k (fRd d.w) (code.zeroExtend 64))
  let pg := PageId.core c 3
  let s := bump s pg 0 q.len
  let s := bump s pg 1 parts.1.length
  let s := bump s pg 7 nar
  selReport s c flags

/-! ## Sorting (R299 to R302) -/

/-- The key types of SP.SORT, SP.MERGE and SP.LADDER, and the key bits of a lane (R300). -/
def sortDt (dt : Nat) : Bool := dt < 5 || dt = 0x8 || dt = 0xC
def laneKey (dt : Nat) (mag : Bool) (lane : Nat) : Int := rankKey dt mag (lane % 2 ^ dtWidth dt)

/-- A key lane with its index. -/
structure SortEntry where
  lane : Nat
  idx : Nat
  key : Int
  deriving DecidableEq, Repr

/-- Entry `a` stands before `b` (R301). -/
def sortBefore (desc : Bool) (a b : SortEntry) : Bool :=
  (if desc then b.key < a.key else a.key < b.key) || (a.key = b.key && a.idx < b.idx)

def entriesOf (dt : Nat) (mag : Bool) (keys idx : List (BitVec 2048)) : List SortEntry :=
  (keys.zip idx).flatMap (fun p => (List.range 64).map (fun i =>
    let l := elem 32 p.1 i
    ⟨l, elem 32 p.2 i, laneKey dt mag l⟩))

/-- SP.SORT (R299, R300, R323). -/
def execSpSort (c : Fin 16) (w : DWord) (s : State) : Res :=
  .next (issue c 0x69 false (sortDt (dtA w) && zeroA w) w s
    (if fnA w < 4 then .done (pushD s c w) else sandFault 1))

/-- The registers of SP.MERGE lie below v64 and do not overlap, except a destination with its source (R302). -/
def mergeRegsOk (w : DWord) : Bool :=
  let n := fnA w % 32 + 1
  let meet := fun (a b : Nat) => a < b + n && b < a + n
  let d := fRd w
  let x := fRc w
  let a := fRa w
  let b := fRb w
  [d, x, a, b].all (fun r => r + n ≤ 64) && !meet d x && !meet a b && !meet d b && !meet x a &&
    (!meet d a || d = a) && (!meet x b || x = b)

/-- SP.MERGE (R302, R323). -/
def execSpMerge (c : Fin 16) (w : DWord) (s : State) : Res :=
  .next (issue c 0x6A false (sortDt (dtA w) && zeroA w) w s
    (if 128 ≤ fnA w then sandFault 1
     else if mergeRegsOk w then .done (pushD s c w) else sandFault 3))

/-- Write sorted entries to `n` key and index registers. -/
def writeSorted (k : Core) (rd rc n : Nat) (l : List SortEntry) : Core :=
  let col := fun (k : Core) (r : Nat) (f : SortEntry → Nat) =>
    (List.range n).foldl (fun k i => setV k (r + i) (ofElems 32 (((l.drop (64 * i)).take 64).map f))) k
  col (col k rd (·.lane)) rc (·.idx)

/-- Every register of a merge is sorted. -/
def isSorted (desc : Bool) : List SortEntry → Bool
  | a :: b :: l => !sortBefore desc b a && isSorted desc (b :: l)
  | _ => true

/-- Completion of SP.SORT and SP.MERGE; a merge of registers that are not sorted writes a permutation the specification
does not choose: a free value of the operands, the same on every run, ranks the entries (DESIGN CHOICE, entry 90). -/
def finishSort (s : State) (c : Fin 16) (d : DOp) : State :=
  let merge := fOp d.w = 0x6A
  let desc := (fnA d.w).testBit (if merge then 5 else 0)
  let mag := (fnA d.w).testBit (if merge then 6 else 1)
  let n := if merge then fnA d.w % 32 + 1 else 1
  let es := entriesOf (dtA d.w) mag d.va d.vb
  let ok := !merge || (List.range n).all (fun i => isSorted desc ((es.drop (64 * i)).take 64))
  let l := if ok then sortBy (sortBefore desc) es
    else ((sortBy (fun (a b : Nat × SortEntry) => a.1 < b.1)
      (((List.range es.length).zip es).map (fun x =>
        (Config.mergeRank (fnA d.w) (dtA d.w) d.va d.vb x.1, x.2)))).map (·.2))
  bump (modCore s c (fun k => writeSorted k (fRd d.w) (fRc d.w) n l)) (.core c 3) 11 (64 * n)

/-! ## The ladder (R303 to R306) -/

/-- SP.LADDER's checks (R304, R323). -/
def ladderCheck (k : Core) (w : DWord) (a : Act) : Act :=
  let fn := fnA w
  if 8 ≤ fn then sandFault 1
  else if fn.testBit 0 then
    let n := fld (getS k (fRd w)) 8 0
    if 1 ≤ n ∧ n ≤ 256 then a else sandFault 1
  else match k.ladder with
    | none => sandFault 4
    | some l =>
      if l.dt.toNat = dtA w && l.mag = fn.testBit 1 && l.smallest = fn.testBit 2 then a else sandFault 1

/-- SP.LADDER (R303, R304). -/
def execSpLadder (c : Fin 16) (w : DWord) (s : State) : Res :=
  .next (issue c 0x6B false (sortDt (dtA w) && zeroA w) w s
    (ladderCheck (getCore s c) w (.done (pushD s c w))))

/-- Rank of a ladder entry, larger is kept. -/
def ladderRank (l : Ladder) (lane : Nat) : Int :=
  let k := laneKey l.dt.toNat l.mag lane
  if l.smallest then -k else k

/-- Feed one entry: the new ladder, and whether it was accepted; only a refusal of a level entry is a tie (R305). -/
def ladderFeed (l : Ladder) (lane : Nat) (idx : BitVec 48) : Ladder × Bool :=
  let r := ladderRank l lane
  let rk := fun (e : LadderEntry) => ladderRank l e.key.toNat
  let e : LadderEntry := ⟨BitVec.ofNat 32 lane, idx⟩
  let ins := insertBy (fun a b => rk b < rk a) e l.entries
  if l.entries.length < l.k then ({ l with entries := ins }, true)
  else match l.entries.getLast? with
    | none => (l, false)
    | some z =>
      if rk z < r then ({ l with entries := ins.take l.k }, true)
      else ({ l with tie := l.tie || rk z = r }, false)

/-- Completion of SP.LADDER. -/
def finishLadder (s : State) (c : Fin 16) (d : DOp) : State :=
  let fn := fnA d.w
  let fresh : Ladder := ⟨fld d.rd 8 0, BitVec.ofNat 4 (dtA d.w), fn.testBit 1, fn.testBit 2, false, []⟩
  let l := if fn.testBit 0 then fresh else (getCore s c).ladder.getD fresh
  let keys := d.va.getD 0 0
  let idx := d.vb.getD 0 0
  let r := (active 32 d.pred).foldl (fun (acc : Ladder × Nat) i =>
    let o := ladderFeed acc.1 (elem 32 keys i) (BitVec.ofNat 48 (d.rc.toNat + elem 32 idx i))
    (o.1, acc.2 + bit01 o.2)) (l, 0)
  bump (modCore s c (fun k => { k with ladder := some r.1 })) (.core c 3) 12 r.2

/-- Entries in rank order, equal keys by ascending index (R306). -/
def ladderOrder (l : Ladder) : List LadderEntry :=
  sortBy (fun a b => ladderRank l b.key.toNat < ladderRank l a.key.toNat ||
    (ladderRank l b.key.toNat = ladderRank l a.key.toNat && a.idx.toNat < b.idx.toNat)) l.entries

/-- SP.DRAIN (R306, R323). -/
def execSpDrain (c : Fin 16) (w : DWord) (s : State) : Res :=
  let k := getCore s c
  let a := (getS k (fRa w)).toNat
  .next (issue c 0x6C false (zeroA w) w s
    (if fnA w != 0 || dtA w != 0 then sandFault 1
     else match k.ladder with
      | none => sandFault 4
      | some l => firstAct [spadCheck s c 32 a (16 * l.entries.length)] (.done (pushD s c w))))

/-- Completion of SP.DRAIN. -/
def finishDrain (s : State) (c : Fin 16) (d : DOp) : State :=
  match (getCore s c).ladder with
  | none => s
  | some l =>
    let es := ladderOrder l
    let s := spadWrite s c d.ra.toNat (es.flatMap (fun e => leBytes 4 e.key.toNat ++ leBytes 4 0 ++ leBytes 8 e.idx.toNat))
    let s := modCore s c (fun k => setS k (fRd d.w) (BitVec.ofNat 64 (es.length + bit01 l.tie * 2 ^ 63)))
    if l.tie then bump s (.core c 3) 8 else s

/-! ## The fold (R307 to R315) -/

/-- The residual NaR (R307) and the largest residual. -/
def resNar : Nat := 2 ^ 63
def resMax : Int := 2 ^ 62 - 1

/-- The sum y of an element, none for a NaR element, and whether its input was clamped (R309, R310). -/
def foldSum (g : Int) (x : Val) (old : Nat) : Option Int × Bool :=
  match x with
  | .num m e =>
    if old = resNar then (none, false) else
      let y := scaleRne m (e - (g - 48)) + sgn 64 old
      if resMax < y then (some resMax, true) else if y < -resMax then (some (-resMax), true) else (some y, false)
  | _ => (none, false)

/-- What becomes of one element. -/
structure FoldElem where
  code : Option Nat := none      -- the L8 code, where it stays selected
  qzero : Bool := false
  res : Option Int               -- the new residual, none for NaR
  sat : Bool := false
  contrib : Int := 0             -- c in residual units
  narSel : Bool := false
  deriving DecidableEq, Repr

/-- One element after selection (R311 to R313). -/
def foldElem (s g : Int) (y : Option Int) (chosen : Bool) : FoldElem :=
  match y, chosen with
  | none, true => { code := some 0x80, res := some 0, narSel := true }
  | none, false => { res := none }
  | some y, false => { res := some y }
  | some y, true =>
    let code := (encL8 s (.num y (g - 48))).bits
    if code % 128 = 0 then { qzero := true, res := some y }
    else
      let n := encE56 s (valL8 s code)
      let c := scaleI (sgn 56 n.1) (s - g)
      { code := some code, res := some (y - c), sat := n.2, contrib := c }

/-- Write what FOLD writes before its summary (R314) and hold the rest for the conservation check. -/
def runFold (s : State) (c : Fin 16) (w : DWord) (q : SelDesc) (descPoison : Bool) : State :=
  let k := getCore s c
  let dt := dtA w
  let b := dtBytes dt
  let tau := (getS k (fRb w)).toNat
  let poison := descPoison || k.spad.poisonedAt 32 q.src (q.len * b) || k.spad.poisonedAt 32 q.resIn (8 * q.len)
  let ys := (List.range q.len).map (fun i =>
    (i, foldSum q.g (valOf dt 0 (k.spad.readLE (q.src + b * i) b)) (k.spad.readLE (q.resIn + 8 * i) 8)))
  let key := fun (y : Option Int) => match y with
    | some v => v.natAbs
    | none => resNar
  let cands := (ys.filter (fun x => x.2.1.isNone || tau ≤ key x.2.1)).map (fun x => (x.1, key x.2.1))
  let sel := selectCap cands q.cap
  let mask := (sel.chosen.map (fun i => (i, ())) : SMap Unit)
  let es := ys.map (fun x => (x.1, foldElem q.s q.g x.2.1 (mget mask x.1).isSome))
  let kept := es.filter (fun x => x.2.code.isSome)
  let n := fun (p : FoldElem → Bool) => (es.filter (fun x => p x.2)).length
  let clamped := (ys.filter (fun x => x.2.2)).length
  let nar := (ys.filter (fun x => x.2.1.isNone)).length
  let unit := fun (v : Int) => scaleI v (q.g - 48 + 320)
  let contribs := (es.map (fun x => x.2.contrib)).sum
  let residuals := (es.map (fun x => x.2.res.getD 0)).sum
  let sat := n (·.sat)
  let flags := bit01 sel.capped + 2 * bit01 sel.tie + 4 * bit01 poison + 8 * bit01 (sat + clamped != 0) +
    16 * bit01 (nar != 0) + 64 * bit01 (n (·.narSel) != 0) + 128 * bit01 (n (fun e => e.res.isNone) != 0)
  let code : Byte := if poison then stPoison else if sat + clamped != 0 then stSaturated else stOk
  let put := fun (s : State) (a : Nat) (bs : List Byte) => spadWriteP s c a (withMark poison bs)
  let s := put s q.idxOut (kept.flatMap (fun x => leBytes 8 ((q.base + x.1) % 2 ^ 48)))
  let s := put s q.valOut (kept.map (fun x => BitVec.ofNat 8 (x.2.code.getD 0)))
  let s := put s q.resOut (es.flatMap (fun x => leBytes 8 (match x.2.res with
    | some r => wrap 64 r
    | none => resNar)))
  modCore s c (fun k => { k with fold := some {
    w := w, descAddr := (getS k (fRa w)).toNat, summaryAddr := q.summary, rd := fRd w,
    summary := summaryBytes kept.length q.len sat clamped (n (·.qzero)) nar (cutKey cands sel) flags code.toNat (unit contribs)
      (unit residuals),
    flags := flags, status := code, poisoned := poison,
    inputSide := (ys.map (fun x => x.2.1.getD 0)).sum,
    outputSide := contribs + (es.map (fun x => if x.2.narSel then 0 else x.2.res.getD 0)).sum,
    elements := q.len, selected := kept.length, saturated := sat, clamped := clamped, quantZero := n (·.qzero),
    nar := nar } })

/-- FOLD (R308, R309 to R314): checked at issue; its conservation check ends it. -/
def execFold (c : Fin 16) (w : DWord) (s : State) : Res :=
  let dt := dtA w
  .next (issue c 0x70 false ((dt = 0x3 || dt = 0x1) && fnA w = 0 && zeroA w) w s
    (descAct s c w (fun d p =>
      let q := selDesc d
      selCheck s c (selCommonOk q && fRc w = 0 && q.g ≤ q.s) (foldIn dt q) (foldOut q)
        (fun o i => o = ⟨q.resOut, 8 * q.len, 8⟩ && i = ⟨q.resIn, 8 * q.len, 8⟩ && q.resIn = q.resOut)
        (.done (runFold s c w q p)))))

/-- Completion of a class D instruction of this chapter. -/
def finishSand (s : State) (c : Fin 16) (d : DOp) : State :=
  match fOp d.w with
  | 0x68 => finishThr s c d
  | 0x69 | 0x6A => finishSort s c d
  | 0x6B => finishLadder s c d
  | 0x6C => finishDrain s c d
  | _ => s

/-- CLASS_D_COMPLETION (R151): the oldest class D operation of the core finishes. -/
def execClassDCompletion (c : Fin 16) (s : State) : Res :=
  .next (match (getCore s c).dops with
    | [] => s
    | d :: rest =>
      let s := modCore s c (fun k => { k with dops := rest })
      let op := fOp d.w
      if op = 0x46 || op = 0x47 then finishIndexed s c d
      else if op = 0x61 then finishErow s c d
      else if op = 0x62 then finishEmpld s c d
      else if op ≤ 0x5C then finishMac s c d
      else finishSand s c d)

end Sys2Proof.Machine
end

