-- ==== Sys2Proof/Machine/Curlew.lean ====
section
/-! DEFINITION. Curlew streams and tables: symbols, bit order, canonical codes, the hardware first pass, packing of one
stream, and the decoder that the packer and every link expander share (R330 to R352, R362 to R364). -/

namespace Sys2Proof.Machine

open Sys2Proof

/-! ## Bit order (R338) -/

/-- The low `n` bits of a natural, least significant first. -/
def bitsLsb : Nat → Nat → List Bool
  | 0, _ => []
  | n + 1, v => v.testBit 0 :: bitsLsb n (v >>> 1)

/-- The low `n` bits of a natural, most significant first. -/
def bitsMsb (n v : Nat) : List Bool := (bitsLsb n v).reverse

/-- The natural that bits spell, least significant first. -/
def lsbNat : List Bool → Nat
  | [] => 0
  | b :: l => bit01 b + 2 * lsbNat l

/-- Bits fill bytes from bit 0 of byte 0 upward; the last byte is padded with zeros. -/
def packBits : List Bool → List Byte
  | a :: b :: c :: d :: e :: f :: g :: h :: l => BitVec.ofNat 8 (lsbNat [a, b, c, d, e, f, g, h]) :: packBits l
  | [] => []
  | l => [BitVec.ofNat 8 (lsbNat l)]

def bytesBits (bs : List Byte) : List Bool := bs.flatMap (fun b => bitsLsb 8 b.toNat)

/-! ## Tables (R341 to R343) -/

/-- LENGTHS of a table image. -/
def tableLens (t : List Byte) : List Nat :=
  ((t.drop 16).take 136).flatMap (fun b => [b.toNat % 16, b.toNat / 16])

/-- Σ 2^(−len), in units of 2^−15. -/
def kraft (lens : List Nat) : Nat := (lens.map (fun l => if l = 0 then 0 else 2 ^ (15 - l))).sum

/-- A valid table (R342). -/
def tableValid (t : List Byte) : Bool :=
  leField t 0 2 = 0xC6A3 && leField t 2 1 = 1 && (leField t 3 1 = 1 || leField t 3 1 = 2) && leField t 4 12 = 0 &&
    leField t 152 8 = 0 && leField t 976 44 = 0 && leField t 1020 4 = crc32c (t.take 1020) &&
    (tableLens t).any (· != 0) && kraft (tableLens t) ≤ 2 ^ 15

/-- One codeword: its length, its value, its symbol. -/
structure Codeword where
  len : Nat
  code : Nat
  sym : Nat
  deriving DecidableEq, Repr

/-- The codewords of one length, from a first value. -/
def codesOfLen (lens : List Nat) (len code : Nat) : List Codeword :=
  let syms := (List.range lens.length).filter (fun x => lens.getD x 0 = len)
  ((List.range syms.length).zip syms).map (fun p => ⟨len, code + p.1, p.2⟩)

/-- The canonical code (R343). -/
def canonical (lens : List Nat) : List Codeword :=
  ((List.range 15).foldl (fun (acc : List Codeword × Nat) i =>
    let cs := codesOfLen lens (i + 1) acc.2
    (acc.1 ++ cs, (acc.2 + cs.length) * 2)) ([], 0)).1

/-! ## Symbols (R331 to R334) -/

/-- A symbol as emitted: its value, and the extra or raw bits behind it. -/
structure Sym where
  sym : Nat
  n : Nat
  bits : Nat
  deriving DecidableEq, Repr

/-- The symbols of a run of `r` zeros (R333); the first argument bounds the long runs. -/
def runSyms : Nat → Nat → List Sym
  | _, 0 => []
  | 0, r => [⟨256 + Nat.log2 r, Nat.log2 r, r - 2 ^ Nat.log2 r⟩]
  | k + 1, r => if 65535 < r then ⟨271, 15, 32767⟩ :: runSyms k (r - 65535)
    else [⟨256 + Nat.log2 r, Nat.log2 r, r - 2 ^ Nat.log2 r⟩]

/-- The literal of a non-zero element. -/
def litSym (mode v : Nat) : Sym := if mode = 2 then ⟨v / 256, 8, v % 256⟩ else ⟨v, 0, 0⟩

/-- The symbols of `count` elements whose non-zero ones are listed as (index, word) from index `at'` on. -/
def symsFrom (mode count : Nat) : Nat → List (Nat × Nat) → List Sym
  | i, [] => runSyms (count - i) (count - i)
  | i, (j, v) :: l => runSyms (j - i) (j - i) ++ litSym mode v :: symsFrom mode count (j + 1) l

/-! ## The hardware first pass (R345, R346) -/

/-- An entry of the package-merge lists. -/
structure Package where
  weight : Nat
  kind : Nat
  key : Nat
  members : List Nat
  deriving DecidableEq, Repr

def packageBefore (a b : Package) : Bool :=
  a.weight < b.weight || (a.weight = b.weight && (a.kind < b.kind || (a.kind = b.kind && a.key < b.key)))

/-- Pair neighbours into packages. -/
def pairUp : Nat → List Package → List Package
  | k, a :: b :: l => ⟨a.weight + b.weight, 1, k, a.members ++ b.members⟩ :: pairUp (k + 1) l
  | _, _ => []

/-- Code lengths from counts (R346). -/
def packageMerge (w : List Nat) : List Nat :=
  let base := sortBy packageBefore
    (((List.range w.length).filter (fun x => w.getD x 0 != 0)).map (fun x => ⟨w.getD x 0, 0, x, [x]⟩))
  let last := (List.range 14).foldl (fun l _ => sortBy packageBefore (base ++ pairUp 0 l)) base
  let ms := (last.take (2 * base.length - 2)).flatMap (·.members)
  (List.range w.length).map (fun x => ms.count x)

/-- Give the lowest symbols with count 0 a count of 1 until two symbols have one. -/
def fillCounts (w : List Nat) : List Nat :=
  let have' := (w.filter (· != 0)).length
  (w.foldl (fun (acc : List Nat × Nat) x =>
    if x = 0 && 0 < acc.2 then (1 :: acc.1, acc.2 - 1) else (x :: acc.1, acc.2)) ([], 2 - have')).1.reverse

/-- The counts of R345. -/
def histCounts (floor : Bool) (syms : List Sym) : List Nat :=
  let w := (List.range 272).map (fun x => (syms.filter (fun y => y.sym = x)).length + bit01 floor)
  fillCounts w

/-- Two 4-bit lengths a byte. -/
def nibblePairs : List Nat → List Byte
  | a :: b :: l => BitVec.ofNat 8 (a + 16 * b) :: nibblePairs l
  | _ => []

/-- The table image PACK.HIST writes (R341, R346). -/
def buildTable (kind : Nat) (counts : List Nat) : List Byte :=
  let body := leBytes 2 0xC6A3 ++ [1, BitVec.ofNat 8 kind] ++ List.replicate 12 0 ++ nibblePairs (packageMerge counts) ++
    List.replicate 8 0 ++ counts.flatMap (fun n => leBytes 3 (min n 0xFFFFFF)) ++ List.replicate 44 0
  body ++ leBytes 4 (crc32c body)

/-! ## One stream (R337, R348) -/

/-- A stream header (R348). -/
structure Hdr where
  mode : Nat
  table : Nat
  scale : Nat
  rank : Nat
  flags : Nat
  count : Nat
  plen : Nat
  tcheck : Nat
  symbols : Nat
  deriving DecidableEq, Repr

def hdrBytes (h : Hdr) : List Byte :=
  leBytes 2 0xC6A2 ++ [1] ++ leBytes 1 h.mode ++ leBytes 1 h.table ++ leBytes 1 h.scale ++ leBytes 1 h.rank ++
    leBytes 1 h.flags ++ leBytes 8 h.count ++ leBytes 6 h.plen ++ leBytes 2 h.tcheck ++ leBytes 8 h.symbols

/-- Header, payload and CRC. -/
def sealStream (h : Hdr) (payload : List Byte) : List Byte :=
  let b := hdrBytes { h with plen := payload.length } ++ payload
  b ++ leBytes 4 (crc32c b)

/-- The values of `n` elements from index `i`, zeros included. -/
def denseFrom : Nat → Nat → List (Nat × Nat) → List Nat
  | 0, _, _ => []
  | n + 1, i, [] => 0 :: denseFrom n (i + 1) []
  | n + 1, i, (j, v) :: l => if j = i then v :: denseFrom n (i + 1) l else 0 :: denseFrom n (i + 1) ((j, v) :: l)

/-- The bits of coded symbols; none where a symbol has no codeword. -/
def codeSyms (cs : List Codeword) : List Sym → Option (List Bool)
  | [] => some []
  | y :: l => match cs.find? (fun c => c.sym = y.sym), codeSyms cs l with
    | some c, some r => some (bitsMsb c.len c.code ++ bitsLsb y.n y.bits ++ r)
    | _, _ => none

/-- A written stream, and why it fell back to STORED. -/
structure Packed where
  bytes : List Byte
  stored : Bool
  uncodable : Bool
  deriving DecidableEq, Repr

/-- Pack `count` elements in ENTROPY or ACTIVATION mode with a table, or STORED (R337). -/
def packCoded (mode tableId scale : Nat) (table : List Byte) (poison : Bool) (count : Nat) (es : List (Nat × Nat)) :
    Packed :=
  let wide := mode = 2
  let w := if wide then 2 else 1
  let syms := symsFrom mode count 0 es
  let coded := codeSyms (canonical (tableLens table)) syms
  let raw : Packed :=
    ⟨sealStream ⟨0, 0, if wide then 0 else scale, 0, bit01 poison + 2 * bit01 wide, count, 0, 0, count⟩
        ((denseFrom count 0 es).flatMap (leBytes w)), true, coded.isNone⟩
  match coded with
  | none => raw
  | some b =>
    let p := packBits b
    if count * w < p.length then raw
    else ⟨sealStream ⟨mode, tableId, if wide then 0 else scale, 0, bit01 poison, count, 0, leField table 1020 2,
      syms.length⟩ p, false, false⟩

/-- A LOWRANK stream (R335). -/
def packLowrank (scale m n r : Nat) (poison : Bool) (p q : List Byte) : List Byte :=
  sealStream ⟨3, 0, scale, r, bit01 poison, m * n, 0, 0, (m + n) * r⟩ (leBytes 8 m ++ leBytes 8 n ++ p ++ q)

/-! ## The decoder (R362 to R367) -/

/-- The header of a stream inside `span` bytes, if it passes check 1 (R363); a table slot above 63 fails it, and so does a
LOWRANK payload too short for its sub-header (DEDUCED, entry 41). -/
def hdrOf (bs : List Byte) (span : Nat) : Option Hdr :=
  let h : Hdr := ⟨leField bs 3 1, leField bs 4 1, leField bs 5 1, leField bs 6 1, leField bs 7 1, leField bs 8 8,
    leField bs 16 6, leField bs 22 2, leField bs 24 8⟩
  let coded := h.mode = 1 || h.mode = 2
  let wide := h.flags.testBit 1
  let sub := leField bs 32 8
  let sub' := leField bs 40 8
  if 36 ≤ span && 36 + h.plen ≤ span && leField bs 0 2 = 0xC6A2 && leField bs 2 1 = 1 && h.mode < 4 &&
    (if coded then h.table < 64 else h.table = 0) &&
    (h.mode = 1 || h.mode = 3 || (h.mode = 0 && !wide) || h.scale = 0) &&
    (if h.mode = 3 then 1 ≤ h.rank && h.rank ≤ 16 else h.rank = 0) && h.flags < 4 && (h.mode = 0 || !wide) &&
    h.count != 0 && (coded || h.tcheck = 0) &&
    (h.mode != 3 || (16 ≤ h.plen && sub * sub' = h.count && (sub + sub') * h.rank = h.symbols))
  then some h else none

/-- A decoded stream: (index, word) in ascending order, L8 or L16 words without their zeros, or every E56 word of a LOWRANK
stream, and the clamps of R336. -/
structure Decoded where
  elems : List (Nat × Nat)
  sat : Nat
  deriving DecidableEq, Repr

/-- What the next bits spell. -/
inductive NextSym where
  | sym (x len : Nat) (rest : List Bool)
  | invalid
  | short

/-- Read one codeword: bits that begin no codeword are INVALID_CODE, and a payload that ends inside one is LENGTH
(DEDUCED, entry 42). -/
def nextSym (cs : List Codeword) : Nat → Nat → Nat → List Bool → NextSym
  | 0, _, _, _ => .invalid
  | k + 1, len, code, bits =>
    match cs.find? (fun c => c.len = len && c.code = code) with
    | some c => .sym c.sym len bits
    | none =>
      if !cs.any (fun c => len < c.len && c.code >>> (c.len - len) = code) then .invalid
      else match bits with
        | [] => .short
        | b :: l => nextSym cs k (len + 1) (2 * code + bit01 b) l

/-- Outcome of the symbols of a payload: a failure with its detail and byte offset, or the elements, the bits left and
the bits consumed. -/
inductive SymsRes where
  | bad (detail off : Nat)
  | ok (elems : List (Nat × Nat)) (left : List Bool) (pos : Nat)

/-- Decode `n` symbols (each takes at least one bit, so the first argument bounds them by the payload). -/
def decodeSyms (cs : List Codeword) (mode total : Nat) :
    Nat → Nat → List Bool → Nat → Nat → List (Nat × Nat) → SymsRes
  | 0, _, _, pos, _, _ => .bad 5 (32 + pos / 8)
  | fuel + 1, n, bits, pos, got, acc =>
    if n = 0 then (if got < total then .bad 4 (32 + pos / 8) else .ok acc.reverse bits pos)
    else match nextSym cs 16 0 0 bits with
      | .invalid => .bad 3 (32 + pos / 8)
      | .short => .bad 5 (32 + pos / 8)
      | .sym x len rest =>
        let ex := if 256 ≤ x then x - 256 else if mode = 2 then 8 else 0
        if rest.length < ex then .bad 5 (32 + pos / 8)
        else
          let v := lsbNat (rest.take ex)
          let num := if 256 ≤ x then 2 ^ (x - 256) + v else 1
          let word := if 256 ≤ x then 0 else if mode = 2 then 256 * x + v else x
          if total < got + num then .bad 4 (32 + pos / 8)
          else decodeSyms cs mode total fuel (n - 1) (rest.drop ex) (pos + len + ex) (got + num)
            (if word = 0 then acc else (got, word) :: acc)

/-- Element `(i, j)` of a LOWRANK product as an E56 word, and whether it was clamped (R335, R336). -/
def lowrankElem (r : Nat) (scale : Int) (p q : List Byte) (i j : Nat) : Nat × Bool :=
  encE56 scale ((List.range r).foldl (fun acc k =>
    acc.add (mulL16 (leField p (2 * (i * r + k)) 2) (leField q (2 * (j * r + k)) 2))) (.num 0 0))

/-- Checks 2 to 6 of R363 on a stream whose header passed: the elements, or detail and byte offset of the first failure.
A STORED stream whose SYMBOL_COUNT differs from ELEMENT_COUNT fails COUNT (DEDUCED, entry 41). -/
def decodeBody (t : List Byte) (bs : List Byte) (h : Hdr) : Except (Nat × Nat) Decoded :=
  let pay := sliceB bs 32 h.plen
  let crc := leField bs (32 + h.plen) 4 = crc32c (bs.take (32 + h.plen))
  let fin := fun (d : Decoded) => if crc then .ok d else .error (6, 32 + h.plen)
  if h.mode = 1 || h.mode = 2 then
    if !(tableValid t && leField t 3 1 = h.mode && leField t 1020 2 = h.tcheck) then .error (2, 4)
    else
      let bits := bytesBits pay
      match decodeSyms (canonical (tableLens t)) h.mode h.count (bits.length + 1) h.symbols bits 0 0 [] with
      | .bad d o => .error (d, o)
      | .ok es left pos => if 8 ≤ left.length || left.any id then .error (5, 32 + pos / 8) else fin ⟨es, 0⟩
  else if h.mode = 0 then
    let w := if h.flags.testBit 1 then 2 else 1
    if h.symbols != h.count then .error (4, 24)
    else if h.plen != h.count * w then .error (5, 16)
    else fin ⟨((List.range h.count).map (fun i => (i, leField pay (w * i) w))).filter (fun x => x.2 != 0), 0⟩
  else
    let m := leField pay 0 8
    let n := leField pay 8 8
    if h.plen != 16 + 2 * (m + n) * h.rank then .error (5, 16)
    else
      let p := pay.drop 16
      let q := p.drop (2 * m * h.rank)
      let es := (List.range m).flatMap (fun i => (List.range n).map (fun j =>
        (i * n + j, lowrankElem h.rank (sgn 8 h.scale) p q i j)))
      fin ⟨es.map (fun x => (x.1, x.2.1)), (es.filter (fun x => x.2.2)).length⟩

/-- The E56 word of an element of a decoded stream, and whether its entry clamped it (R40, R41, R369). -/
def e56Of (h : Hdr) (w : Nat) : Nat × Bool :=
  if h.mode = 3 then (w, false) else encE56 (sgn 8 h.scale) (valL8 (sgn 8 h.scale) w)

/-- Elements of a decoded stream whose entry into E56 was clamped (R40, R336). -/
def e56Clamps (h : Hdr) (x : Decoded) : Nat := x.sat + (x.elems.filter (fun e => (e56Of h e.2).2)).length

/-- The table in a slot, as the packers and expanders read it (R339, R340, R344). -/
def slotImage (s : State) (t : Nat) : SlotImage :=
  let a := t * 0x400
  if cmFencedIn s a 0x400 then ⟨[], false, true⟩ else ⟨cmBytes s a 0x400, cmPoisonIn s a 0x400, false⟩

/-- The table of a stream of which some bytes are there: read once, as soon as the byte that names it is (R344). -/
def startTable (s : State) (had : Option SlotImage) (b : List Byte) : Option SlotImage :=
  match had with
  | some t => some t
  | none => if 5 ≤ b.length then some (slotImage s (leField b 4 1)) else none

/-- The stream's header names a table slot (R348). -/
def namesTable (h : Hdr) : Bool := h.mode = 1 || h.mode = 2

/-- What a decoder makes of a stream: its header, whether it is poisoned, and its elements or the detail and byte offset of
its first failure (R362 to R368). -/
structure StreamRes where
  hdr : Option Hdr
  poisoned : Bool
  out : Except (Nat × Nat) Decoded

/-- The one decoder of UNPACK and the expanders (R362): a stream is poisoned by FLAGS.POISONED, by a mark on its bytes (of a
stream whose header fails, on any byte of the span: DEDUCED, entry 44) or on its table (R367, R641). -/
def decodeStream (t : SlotImage) (bs : List PByte) : StreamRes :=
  let b := plain bs
  match hdrOf b b.length with
  | none => ⟨none, anyMark bs || (leField b 7 1).testBit 0, .error (1, 0)⟩
  | some h => ⟨some h, anyMark (bs.take (36 + h.plen)) || h.flags.testBit 0 || (namesTable h && t.poison),
    decodeBody t.bytes b h⟩

end Sys2Proof.Machine
end

