-- ==== Sys2Proof/Machine/Packer.lean ====
section
/-! DEFINITION. The Curlew packer of a core: PACK, UNPACK, PACK.HIST and their completion (R351 to R361, R366 to R368,
R375, R376). -/

namespace Sys2Proof.Machine

open Sys2Proof

/-- A packer instruction (R353): traps only on its descriptor address (R354), waits for a queue slot and a flight
context, and answers its tag. -/
def packAct (c : Fin 16) (w : DWord) (op : Nat) (s : State) : Act :=
  let a := addrX (getCore s c) w
  match spadCheck s c 64 a 64 with
  | some t => t
  | none =>
    let p := partOfCore s c
    match freeTag s p with
    | none => .wait s
    | some tag =>
      if 4 ≤ (getCore s c).packQ.length then .wait s
      else
        let s := takeCtx s tag { owner := .core c, kind := .pack, part := p, addr := a }
        .done (modCore s c (fun k =>
          setS { k with packQ := k.packQ ++ [⟨op, a, tag⟩] } (fRd w) (BitVec.ofNat 64 tag)))

/-- PACK (R353): opcode 0x74; a word with FN 1 is UNPACK's. -/
def execPack (c : Fin 16) (w : DWord) (s : State) : Res :=
  .next (if fOp w = 0x74 ∧ fnX w = 1 then s else issue c 0x74 false (fnX w = 0 && coreX w = 0 && chanX w = 0) w s (packAct c w 0 s))

/-- UNPACK (R353): opcode 0x74 with FN 1; a word with FN 0 is PACK's. -/
def execUnpack (c : Fin 16) (w : DWord) (s : State) : Res :=
  .next (if fOp w = 0x74 ∧ fnX w = 0 then s else issue c 0x74 false (fnX w = 1 && coreX w = 0 && chanX w = 0) w s (packAct c w 1 s))

/-- PACK.HIST (R345, R353). -/
def execPackHist (c : Fin 16) (w : DWord) (s : State) : Res :=
  .next (issue c 0x75 false (fnX w = 0 && coreX w = 0 && chanX w = 0) w s (packAct c w 2 s))

/-! ## Descriptors (R355) -/

structure PackDesc where
  src : Nat
  src2 : Nat
  dst : Nat
  cap : Nat
  count : Nat
  aux : Nat
  origin : Nat
  table : Nat
  scale : Nat
  mode : Nat
  rank : Nat
  opts : Nat
  rest : Nat
  deriving DecidableEq, Repr

def packDesc (b : List Byte) : PackDesc :=
  ⟨leField b 0 8, leField b 8 8, leField b 16 8, leField b 24 8, leField b 32 8, leField b 40 8, leField b 48 6,
    leField b 54 1, leField b 55 1, leField b 56 1, leField b 57 1, leField b 58 1, leField b 59 5⟩

/-- Address and space of an address field. -/
def fieldAddr (f : Nat) : Nat := bitsOf f 59 0
def fieldSpace (f : Nat) : Nat := bitsOf f 63 62
/-- Bits [61:60] of an address field are zero (DEDUCED, entry 43). -/
def fieldOk (f : Nat) : Bool := bitsOf f 61 60 = 0

def optSparse (d : PackDesc) : Bool := d.opts.testBit 0
def optFloor (d : PackDesc) : Bool := d.opts.testBit 1
def optChunked (d : PackDesc) : Bool := d.opts.testBit 2

/-- Columns n of a LOWRANK product. -/
def packCols (d : PackDesc) : Nat := d.count / d.aux

/-- The SHAPE conditions of PACK and PACK.HIST (R352, R355, R358); PACK.HIST builds a table, so its mode is ENTROPY or
ACTIVATION (DEDUCED, entry 43). -/
def packShapeOk (d : PackDesc) (hist : Bool) : Bool :=
  let low := d.mode = 3
  d.count != 0 && d.rest = 0 && d.opts < 8 && fieldOk d.src && fieldOk d.src2 && fieldOk d.dst &&
    fieldAddr d.dst % 32 = 0 && (d.mode = 1 || d.mode = 2 || (low && !hist)) &&
    (!optSparse d || d.mode = 1) && (!optFloor d || hist) && (!optChunked d || d.mode != 2) &&
    (optSparse d || low || (d.src2 = 0 && d.aux = 0)) && (optSparse d || d.origin = 0) &&
    (if low then d.table = 0 else d.table < 64) && (d.mode != 2 || d.scale = 0) &&
    (if low then 1 ≤ d.rank && d.rank ≤ 16 && d.aux != 0 && d.count % d.aux = 0 &&
        (!optChunked d || (packCols d + 1) * d.rank ≤ 32742)
      else d.rank = 0)

/-- The blocks of R351, first element (or row) and length; one block without OPTS.CHUNKED. -/
def packBlocks (d : PackDesc) : List (Nat × Nat) :=
  let total := if d.mode = 3 then d.aux else d.count
  let step := if !optChunked d then total else if d.mode = 3 then 32742 / d.rank - packCols d else 65472
  (List.range ((total + step - 1) / step)).map (fun k => (k * step, min step (total - k * step)))

/-- Raw size (R350). -/
def packRaw (d : PackDesc) : Nat :=
  match d.mode with
  | 1 => d.count
  | 2 => 2 * d.count
  | _ => 16 + 2 * (d.aux + packCols d) * d.rank

/-- The capacity R357 asks for. -/
def packNeeds (d : PackDesc) : Nat := if optChunked d then 65536 * (packBlocks d).length else packRaw d + 36

/-- How a packer instruction ends: the state, its code, its detail and the failing byte offset. -/
structure PackEnd where
  s : State
  code : Byte := stOk
  detail : Nat := 0
  off : Nat := 0

/-- A packer's access to one range: scratchpad or partition HBM only (R358). -/
def packCheck (s : State) (c : Fin 16) (f n : Nat) (write : Bool) : Byte :=
  if 1 < fieldSpace f then stProtection
  else devCheck s (some c) (partOfCore s c) (fieldSpace f) (fieldAddr f) n write

def packRefuse (s : State) (c : Fin 16) (f n : Nat) (code : Byte) : PackEnd :=
  ⟨if code = stFenced then countFenced s (partOfCore s c) (fieldSpace f) (fieldAddr f) n else s, code,
    if code = stProtection then 0x10 else 0, 0⟩

def packRead (s : State) (c : Fin 16) (f n : Nat) : List PByte × State :=
  devRead s (some c) (partOfCore s c) (fieldSpace f) (fieldAddr f) n

def packWrite (s : State) (c : Fin 16) (f : Nat) (bs : List PByte) : State :=
  devWrite s (some c) (partOfCore s c) (fieldSpace f) (fieldAddr f) bs

/-- Words of `w` bytes. -/
def wordsOf (w n : Nat) (bs : List Byte) : List Nat := (List.range n).map (fun i => leField bs (w * i) w)

/-- The positions of a SPARSE source, if they ascend strictly, lie below ELEMENT_COUNT and are well formed (R356). -/
def sparseOk (d : PackDesc) (idx : List Nat) : Bool :=
  let pos := idx.map (fun x => x - d.origin)
  idx.all (fun x => x < 2 ^ 48 && d.origin ≤ x) && pos.all (· < d.count) && (pos.zip (pos.drop 1)).all (fun x => x.1 < x.2)

/-- The source of an ENTROPY or ACTIVATION pack: its non-zero elements by position, whether it was poisoned; or the
failure. -/
def packSource (s : State) (c : Fin 16) (d : PackDesc) : Except PackEnd (State × List (Nat × Nat) × Bool) :=
  if optSparse d then
    let c1 := packCheck s c d.src2 (8 * d.aux) false
    let c2 := packCheck s c d.src d.aux false
    if c1 != stOk then .error (packRefuse s c d.src2 (8 * d.aux) c1)
    else if c2 != stOk then .error (packRefuse s c d.src d.aux c2)
    else
      let r1 := packRead s c d.src2 (8 * d.aux)
      let r2 := packRead r1.2 c d.src d.aux
      let idx := wordsOf 8 d.aux (plain r1.1)
      if !sparseOk d idx then .error ⟨r2.2, stUnsupported, 0x13, 0⟩
      else .ok (r2.2, ((idx.map (· - d.origin)).zip (wordsOf 1 d.aux (plain r2.1))).filter (fun x => x.2 != 0),
        anyMark r1.1 || anyMark r2.1)
  else
    let w := d.mode
    let c1 := packCheck s c d.src (w * d.count) false
    if c1 != stOk then .error (packRefuse s c d.src (w * d.count) c1)
    else
      let r := packRead s c d.src (w * d.count)
      .ok (r.2, ((List.range d.count).zip (wordsOf w d.count (plain r.1))).filter (fun x => x.2 != 0), anyMark r.1)

/-- The elements of one block, from index 0. -/
def blockElems (es : List (Nat × Nat)) (b : Nat × Nat) : List (Nat × Nat) :=
  (es.filter (fun x => b.1 ≤ x.1 && x.1 < b.1 + b.2)).map (fun x => (x.1 - b.1, x.2))

/-- Write the streams of a pack, refusing at the first one that may not be written; counts and IRQ bits (R375, R376). -/
def writeStreams (c : Fin 16) (d : PackDesc) (poison : Bool) :
    Nat → List (Packed × Nat) → State → PackEnd
  | _, [], s => ⟨s, if poison then stPoison else stOk, 0, 0⟩
  | k, (x, n) :: l, s =>
    let f := d.dst + k * 0x10000
    let code := packCheck s c f x.bytes.length true
    if code != stOk then packRefuse s c f x.bytes.length code
    else
      let pg := PageId.core c 4
      let s := packWrite s c f (withMark poison x.bytes)
      let s := bump (bump s pg 2 n) pg 3 x.bytes.length
      let s := if x.stored then pulseIrq (bump s pg 4) pg 1 else s
      let s := if x.uncodable then bump s pg 5 else s
      let s := if poison then bump s pg 8 else s
      let s := modCore s c (fun z => { z with lastLength := x.bytes.length % 2 ^ 32 })
      writeStreams c d poison (k + 1) l s

/-- PACK and PACK.HIST in ENTROPY or ACTIVATION mode, from a descriptor whose own checks have passed. -/
def runPackCoded (s : State) (c : Fin 16) (d : PackDesc) (hist dirty : Bool) : PackEnd :=
  let ta := d.table * 0x400
  let p := partOfCore s c
  let image := slotImage s d.table
  if hist && !cmMayRange s p ta 0x400 true then ⟨s, stProtection, 0x10, 0⟩
  else if image.fenced then ⟨s, stFenced, 0, 0⟩
  else if !hist && !(tableValid image.bytes && leField image.bytes 3 1 = d.mode) then ⟨s, stUnsupported, 0x14, 0⟩
  else match packSource s c d with
    | .error e => e
    | .ok (s, es, srcPoison) =>
      let poison := dirty || srcPoison || (!hist && image.poison)
      let blocks := packBlocks d
      let table := if hist then
          buildTable d.mode (histCounts (optFloor d) (blocks.flatMap (fun b => symsFrom d.mode b.2 0 (blockElems es b))))
        else image.bytes
      let s := if hist then
          pulseIrq (bump (cmWrite s ta (withMark poison table)) (.core c 4) 6) (.core c 4) 3
        else s
      writeStreams c d poison 0
        (blocks.map (fun b => (packCoded d.mode d.table d.scale table poison b.2 (blockElems es b), b.2))) s

/-- PACK in LOWRANK mode. -/
def runPackLow (s : State) (c : Fin 16) (d : PackDesc) (dirty : Bool) : PackEnd :=
  let n := packCols d
  let row := 2 * d.rank
  let c1 := packCheck s c d.src (d.aux * row) false
  let c2 := packCheck s c d.src2 (n * row) false
  if c1 != stOk then packRefuse s c d.src (d.aux * row) c1
  else if c2 != stOk then packRefuse s c d.src2 (n * row) c2
  else
    let r1 := packRead s c d.src (d.aux * row)
    let r2 := packRead r1.2 c d.src2 (n * row)
    let poison := dirty || anyMark r1.1 || anyMark r2.1
    writeStreams c d poison 0 ((packBlocks d).map (fun b =>
      (⟨packLowrank d.scale b.2 n d.rank poison (((plain r1.1).drop (b.1 * row)).take (b.2 * row)) (plain r2.1),
        false, false⟩, b.2 * n))) r2.2

/-- PACK and PACK.HIST (R357, R358): the descriptor's own failures come first, then the table, the source and the
destination (DESIGN CHOICE, entry 43). -/
def runPack (s : State) (c : Fin 16) (d : PackDesc) (hist dirty : Bool) : PackEnd :=
  if !packShapeOk d hist then ⟨s, stUnsupported, 0x11, 0⟩
  else if d.cap < packNeeds d then ⟨s, stUnsupported, 0x12, 0⟩
  else if d.mode = 3 then runPackLow s c d dirty
  else runPackCoded s c d hist dirty

/-! ## UNPACK -/

/-- SHAPE of UNPACK (R348, R355): unused fields zero, a defined output type, the stream 32 B aligned and the output
aligned to its element (7-byte E56 words to nothing: DEDUCED, entry 43). -/
def unpackShapeOk (d : PackDesc) : Bool :=
  d.src2 = 0 && d.count = 0 && d.origin = 0 && d.table = 0 && d.scale = 0 && d.rank = 0 && d.opts = 0 && d.rest = 0 &&
    d.mode ≤ 2 && fieldOk d.src && fieldOk d.dst && fieldAddr d.src % 32 = 0 && (d.mode != 2 || fieldAddr d.dst % 2 = 0)

/-- Bytes of an output element. -/
def unpackWidth (d : PackDesc) : Nat :=
  match d.mode with
  | 0 => 1
  | 1 => 7
  | _ => 2

/-- The output type suits the stream (R358). -/
def unpackTypeOk (d : PackDesc) (h : Hdr) : Bool :=
  let wide := h.mode = 2 || (h.mode = 0 && h.flags.testBit 1)
  if h.mode = 3 then d.mode = 1 else if wide then d.mode = 2 else d.mode < 2

/-- The output bytes of a decoded stream. -/
def unpackBytes (d : PackDesc) (h : Hdr) (x : Decoded) : List Byte :=
  (denseFrom h.count 0 x.elems).flatMap (fun w => leBytes (unpackWidth d) (if d.mode = 1 then (e56Of h w).1 else w))

/-- UNPACK (R358, R359, R363 to R368).  A poisoned stream that is also damaged keeps the destination's bytes and marks
them (DESIGN CHOICE, entry 44). -/
def runUnpack (s : State) (c : Fin 16) (d : PackDesc) (dirty : Bool) : PackEnd :=
  if !unpackShapeOk d then ⟨s, stUnsupported, 0x11, 0⟩
  else
    let c1 := packCheck s c d.src d.aux false
    if c1 != stOk then packRefuse s c d.src d.aux c1
    else
      let r := packRead s c d.src d.aux
      let s := r.2
      let pg := PageId.core c 4
      let image := slotImage s (leField (plain r.1) 4 1)
      let z := decodeStream image r.1
      let poison := dirty || z.poisoned
      match z.hdr with
      | none => if poison then ⟨bump s pg 8, stPoison, 0, 0⟩ else ⟨s, stDamaged, 1, 0⟩
      | some h =>
        let n := h.count * unpackWidth d
        let c2 := packCheck s c d.dst n true
        if d.cap < n then ⟨s, stUnsupported, 0x12, 0⟩
        else if !unpackTypeOk d h then ⟨s, stUnsupported, 0x15, 0⟩
        else if c2 != stOk then packRefuse s c d.dst n c2
        else if namesTable h && image.fenced then ⟨s, stFenced, 0, 0⟩
        else
          let s := bump s pg 8 (bit01 poison)
          match z.out with
          | .ok x => ⟨bump (packWrite s c d.dst (withMark poison (unpackBytes d h x))) pg 9
              (if d.mode = 1 then e56Clamps h x else 0), if poison then stPoison else stOk, 0, 0⟩
          | .error e =>
            if poison then
              let o := packRead s c d.dst n
              ⟨packWrite o.2 c d.dst (withMark true (plain o.1)), stPoison, 0, 0⟩
            else ⟨s, stDamaged, e.1, e.2⟩

/-- PACK_COMPLETION (R353, R354, R358, R375): the oldest instruction of the packer runs and completes; a poisoned
descriptor counts as a poisoned read (DEDUCED, entry 43). -/
def execPackCompletion (c : Fin 16) (s : State) : Res :=
  .next (match (getCore s c).packQ with
    | [] => s
    | q :: rest =>
      let d := packDesc (spadRead s c q.addr 64)
      let dirty := spadPoison s c q.addr 64
      let e := if q.op = 1 then runUnpack s c d dirty else runPack s c d (q.op = 2) dirty
      let pg := PageId.core c 4
      let s := bump e.s pg (if q.op = 1 then 1 else 0)
      let s := if e.code = stDamaged then pulseIrq (bump s pg 7) pg 2 else s
      let s := modCore s c (fun k =>
        { k with packQ := rest, lastStatus := e.code.toNat, lastDetail := e.detail })
      let s := captureError s pg e.code e.detail q.addr e.off
      finishCtx s q.tag { code := e.code, detail := e.detail })

end Sys2Proof.Machine
end

