-- ==== Sys2Proof/Machine/Coherence.lean ====
section
/-! DEFINITION. The directory protocol of control memory and the four control-memory instructions of a core (R154, R155,
R638, R642 to R652). -/

namespace Sys2Proof.Machine

open Sys2Proof

/-- The page of a line's home slice. -/
def homePage (s : State) (line : Nat) : PageId := .slice (sliceFin (cmHome s line))

/-- An agent has been fenced (R650). -/
def agentFenced (s : State) (a : Nat) : Bool := s.fencedAgents.toNat.testBit a

/-- A slice takes no request: it is fenced (R652) or its page is disabled (R103). -/
def sliceShut (s : State) (j : Nat) : Bool := sliceFenced s j || !(getPage s (.slice (sliceFin j))).enable

/-- The line lies in control memory (R637). -/
def lineExists (s : State) (line : Nat) : Bool := line * 64 < cmCap s

/-- A slice reads a line for a request; a poisoned one counts and raises POISON_READ, and an error is met (R628 to R630, R641,
R660). -/
def lineRead (s : State) (line : Nat) : State :=
  let s := if (dirLine s line).cachedPoison && !s.cm.marked line then pulseIrq (bump s (homePage s line) 11) (homePage s line) 2 else s
  cmFind s line

/-- Recall the copy of an owner other than `a` (R648). -/
def recallOther (s : State) (line a : Nat) : State :=
  match (dirLine s line).owner with
  | some o => if o = a then s else cmMerge (bump s (homePage s line) 4) line
  | none => s

/-- GETS is granted: the owner is recalled and the agent joins the sharers (R643). -/
def grantS (s : State) (line a : Nat) : State :=
  let s := lineRead (recallOther s line a) line
  let d := dirLine s line
  if d.owner = some a then s else setDir s line { d with sharers := d.sharers ||| BitVec.ofNat 19 (2 ^ a) }

/-- GETM is granted: every other copy goes, the agent owns the line and leaves the queue, and the hold begins (R643,
R647, R648). -/
def grantM (s : State) (line a : Nat) : State :=
  let s := lineRead (recallOther s line a) line
  let d := dirLine s line
  let sent := popCount d.sharers.toNat 19 - bit01 (d.sharers.toNat.testBit a)
  let s := bump s (homePage s line) 4 sent
  setDir s line { d with sharers := 0, owner := some a, held := true, resv := d.resv.filter (· != a) }

/-- The value an atomic operation leaves (R154, R155). -/
def atomicNew (op : AtomicOp) (old : DWord) : DWord :=
  match op with
  | .add v => old + v
  | .swap v => v
  | .cas e v => if old = e then v else old

/-- ATOMIC at the home slice: every copy is recalled or invalidated, the operation is applied to the home copy, the line is
left in state I (R648); a poisoned line takes nothing (R649). -/
def applyAtomic (s : State) (addr a : Nat) (op : AtomicOp) : State :=
  let line := addr / 64
  let s := cmRecallAll s line
  let d := dirLine s line
  let s := setDir s line { d with resv := d.resv.filter (· != a) }
  let s := lineRead s line
  if cmPoison s line then s
  else
    let old := BitVec.ofNat 64 (s.cm.readLE addr 8)
    bump { s with cm := s.cm.writeLE addr 8 (atomicNew op old).toNat } (homePage s line) 6

/-- The line has had its grant of this cycle (R646). -/
def noteGrant (s : State) (line : Nat) : State := { s with granted := nInsert s.granted line }

/-- Serve a request that has been accepted. -/
def grant (s : State) (line a : Nat) : DirReq → State
  | .gets => grantS s line a
  | .getm => noteGrant (grantM s line a) line
  | .atomic addr op => noteGrant (applyAtomic s addr a op) line

/-- The request is refused with RETRY: the agent joins the tail of the queue unless it is in it (R646, R647). -/
def refuseRetry (s : State) (line a : Nat) : State :=
  let s := bump s (homePage s line) 1
  let d := dirLine s line
  if d.resv.contains a then s else bump (setDir s line { d with resv := d.resv ++ [a] }) (homePage s line) 2

/-- A GETM or ATOMIC must wait its turn: another agent heads the queue, or another request waits on the line (R646). -/
def mustRetry (d : DirLine) (a : Nat) : Bool :=
  (d.resv.head?.any (· != a)) || d.wait.any (fun x => x.1 != a)

/-- A GETM or ATOMIC receives RETRY: it must wait its turn, or the line has had its grant of this cycle (R646; the requests
with no tick between them meet in one cycle: DESIGN CHOICE, entry 137). -/
def turnedAway (s : State) (line a : Nat) (d : DirLine) : Bool := mustRetry d a || s.granted.contains line

/-- Another agent owns the line and its hold still runs (R648). -/
def holdRuns (d : DirLine) (a : Nat) : Bool := d.held && d.owner.any (· != a)

/-- An agent's request is counted, and what it answers a RETRY with is no longer awaited (R646, R659). -/
def cmAsk (s : State) (line a : Nat) : State :=
  let s := bump s (homePage s line) 0
  setDir s line { dirLine s line with retried := (dirLine s line).retried &&& ~~~(BitVec.ofNat 19 (2 ^ a)) }

/-- A request reaches its home slice: a fenced slice answers FENCED (R652), a disabled one UNSUPPORTED (R103), and the requests of a
fenced agent are gone (R650). -/
def request (s : State) (line a : Nat) (r : DirReq) : State :=
  if !lineExists s line || sliceShut s (cmHome s line) || agentFenced s a then s
  else
    let s := cmAsk s line a
    let d := dirLine s line
    if r != .gets && turnedAway s line a d then refuseRetry s line a
    else if holdRuns d a then
      (if d.wait.isSome then s else setDir s line { d with wait := some (a, r) })
    else grant s line a r

/-- GETS (R643). -/
def execGets (a : Fin 19) (line : Nat) (s : State) : Res := .next (request s line a .gets)

/-- GETM (R643, R646, R647). -/
def execGetm (a : Fin 19) (line : Nat) (s : State) : Res := .next (request s line a .getm)

/-- ATOMIC (R648, R649); the address is 8 B aligned (R155). -/
def execAtomic (a : Fin 19) (addr : Nat) (op : AtomicOp) (s : State) : Res :=
  .next (request s (addr / 64) a (.atomic (addr / 8 * 8) op))

/-- PUTM (R643, R651): the owner's line is merged into the home copy and left in state I; from a fenced agent it is dropped
and counted. -/
def execPutm (a : Fin 19) (line : Nat) (merge : BitVec 512) (s : State) : Res :=
  .next (
    if !lineExists s line || sliceShut s (cmHome s line) then s
    else if agentFenced s a then bump s (homePage s line) 8
    else
      let s := bump s (homePage s line) 0
      let d := dirLine s line
      if d.owner = some a.val then
        bump (cmMerge (setDir s line { d with cached := some merge }) line) (homePage s line) 5
      else s)

/-- PUTS (R643): the agent leaves the sharers. -/
def execPuts (a : Fin 19) (line : Nat) (s : State) : Res :=
  .next (
    if !lineExists s line || sliceShut s (cmHome s line) || agentFenced s a then s
    else
      let s := bump s (homePage s line) 0
      let d := dirLine s line
      setDir s line { d with sharers := d.sharers &&& ~~~(BitVec.ofNat 19 (2 ^ a.val)) })

/-- RETRY (R646): the answer reaches its agent, which will ask again. -/
def execRetry (a : Fin 19) (line : Nat) (s : State) : Res :=
  .next (
    let d := dirLine s line
    if d.resv.contains a.val then setDir s line { d with retried := d.retried ||| BitVec.ofNat 19 (2 ^ a.val) } else s)

/-- RECALL (R648): the hold of a line ends; a request that waited for it is granted. -/
def execRecall (line : Nat) (s : State) : Res :=
  .next (
    let d := dirLine s line
    if !d.held then s
    else
      let s := setDir { s with granted := s.granted.filter (· != line) } line { d with held := false, wait := none }
      match d.wait with
      | some x => grant s line x.1 x.2
      | none => s)

/-- RESERVATION_EXPIRY (R647): the head of the queue has held its RETRY for 64 FCLK cycles and has not asked again. -/
def execReservationExpiry (line : Nat) (s : State) : Res :=
  .next (
    let d := dirLine s line
    match d.resv with
    | a :: rest =>
      if d.retried.toNat.testBit a then
        bump (setDir s line { d with resv := rest, retried := d.retried &&& ~~~(BitVec.ofNat 19 (2 ^ a)) })
          (homePage s line) 3
      else s
    | [] => s)

/-- An agent holds a copy of the line. -/
def holdsLine (s : State) (line a : Nat) : Bool :=
  let d := dirLine s line
  d.owner = some a || d.sharers.toNat.testBit a

/-- PARITY_ERROR (R642): a clean line is discarded and fetched again, which its slice serves as a request; a modified one goes
home with its poison mark set. -/
def execParityError (a : Fin 19) (line : Nat) (s : State) : Res :=
  .next (
    let d := dirLine s line
    if d.owner = some a.val && d.cached.isSome && !sliceFenced s (cmHome s line) then
      let s := bump (cmMerge (setDir s line { d with cachedPoison := true }) line) (homePage s line) 0
      bump s (homePage s line) 5
    else if holdsLine s line a && !sliceShut s (cmHome s line) then lineRead (bump s (homePage s line) 0) line
    else s)

/-! ## Fencing an agent (R650) -/

/-- What a fence does to one line: requests, reservations and shares of the agent go; a line it owns is poisoned. -/
def reclaimLine (a : Nat) (d : DirLine) : DirLine :=
  let m := BitVec.ofNat 19 (2 ^ a)
  { d with
    sharers := d.sharers &&& ~~~m, resv := d.resv.filter (· != a), retried := d.retried &&& ~~~m,
    wait := if d.wait.any (fun x => x.1 = a) then none else d.wait,
    owner := if d.owner = some a then none else d.owner,
    cached := if d.owner = some a then none else d.cached,
    cachedPoison := if d.owner = some a then false else d.cachedPoison,
    held := d.held && d.owner != some a }

/-- A waiting request for a line whose owner has been fenced is answered (R650). -/
def answerWait (s : State) (line : Nat) : State :=
  let d := dirLine s line
  match d.wait with
  | some x => if d.held then s else grant (setDir s line { d with wait := none }) line x.1 x.2
  | none => s

/-- Fence an agent: every slice in service reclaims its lines and captures the fence; the log records the lines poisoned
(R650, R659, R743). -/
def fenceAgent (s : State) (a : Nat) : State :=
  if a = 16 || agentFenced s a then s
  else
    let owned := (s.dir.filter (fun x => x.2.owner = some a)).map (·.1)
    let s := { s with fencedAgents := s.fencedAgents ||| BitVec.ofNat 19 (2 ^ a) }
    let lines := s.dir.map (·.1)
    let s := lines.foldl (fun s l => setDir s l (reclaimLine a (dirLine s l))) s
    let s := owned.foldl (fun s l => { s with cm := s.cm.setMark l true }) s
    let s := (cmSlices s).foldl (fun s j =>
      let n := (owned.filter (fun l => cmHome s l = j)).length
      let pg := PageId.slice (sliceFin j)
      let s := bump s pg 7 n
      pulseIrq (captureError s pg stFenced 2 a n) pg 1) s
    let s := logFault s 0x03 1 0x0402 0 stFenced 2 (a + owned.length * 2 ^ 32)
    owned.foldl answerWait s

/-- AGENT_FENCE (R650). -/
def execAgentFence (a : Fin 19) (s : State) : Res := .next (fenceAgent s a)

/-! ## The instructions of a core -/

/-- The checks every control-memory instruction makes: alignment (R155), the partition's access (R638), a fenced slice
(R652), a disabled one (R103); an instruction of a fenced agent stalls (R650).  No scratchpad address is involved: TRAP_ADDR is 0. -/
def cmAct (s : State) (c : Fin 16) (w : DWord) (write : Bool) (f : Nat → Act) : Act :=
  let a := addrM (getCore s c) w
  if a % 8 != 0 then .trap 0x02 0 0x0E 0
  else if !cmMayRange s (partOfCore s c) a 8 write then .trap 0x0C 0x03 0x03 0
  else if cmFencedIn s a 8 then .trap 0x0C 0x0B 0x0B 0
  else if cmDisabledIn s a 8 then .trap 0x0C 0x0E 0x0E 0
  else if agentFenced s c then .wait s
  else f a

/-- A core asks the home slice of a line.  A GETM or ATOMIC that another agent precedes in the reservation queue receives
RETRY, and a request that meets another agent's hold waits for its end; the instruction then waits and asks again (R646 to
R648). -/
def cmServe (s : State) (line a : Nat) (gets : Bool) (f : State → Act) : Act :=
  let d := dirLine s line
  if !gets && mustRetry d a then .wait (refuseRetry (cmAsk s line a) line a)
  else if holdRuns d a then .wait s
  else f (cmAsk s line a)

/-- CMLD (R155, R643, R649): a miss fetches a shared copy. (DEDUCED, entry 91). -/
def execCmld (c : Fin 16) (w : DWord) (s : State) : Res :=
  .next (issue c 0x85 false (fnM w = 0 && dtOk (dtM w)) w s
    (cmAct s c w false (fun a =>
      let line := a / 64
      let read (fetch : Bool) (s : State) : Act :=
        if cmPoison s line then .trapIn (lineRead s line) 0x04 0 0x05 0
        else
          let s := if fetch then grantS s line c else s
          doneS s c (fRd w) (BitVec.ofNat 64 (leNat (cmBytes s a 8)))
      if holdsLine s line c then read false s else cmServe s line c true (read true))))

/-- Store 8 bytes in the copy of the line's owner; its poison mark stays (R649). -/
def storeOwned (s : State) (a : Nat) (v : DWord) : State :=
  let line := a / 64
  let old := leNat (cmBytes s (64 * line) 64)
  let sh := 8 * (a % 64)
  let new := old - (bitsOf old (sh + 63) sh) * 2 ^ sh + v.toNat * 2 ^ sh
  setDir s line { dirLine s line with cached := some (BitVec.ofNat 512 new) }

/-- CMST (R155, R643, R649): a miss or a shared copy first takes ownership. -/
def execCmst (c : Fin 16) (w : DWord) (s : State) : Res :=
  .next (issue c 0x86 false (fnM w = 0 && dtOk (dtM w)) w s
    (cmAct s c w true (fun a =>
      let line := a / 64
      let v := getS (getCore s c) (fRd w)
      if (dirLine s line).owner = some c.val then .done (storeOwned s a v)
      else cmServe s line c false (fun s => .done (storeOwned (grantM s line c) a v)))))

/-- CMADD (R154, R155): an ATOMIC at the home slice that returns nothing. -/
def execCmadd (c : Fin 16) (w : DWord) (s : State) : Res :=
  .next (issue c 0x87 false (fnM w = 0 && dtOk (dtM w)) w s
    (cmAct s c w true (fun a =>
      cmServe s (a / 64) c false (fun s => .done (applyAtomic s a c (.add (getS (getCore s c) (fRd w))))))))

/-- The operation of CMATOM: FN 0 fetch-and-add, 1 swap, 2 compare-and-swap against scalar RT + 1 (DEDUCED, entry 16). -/
def cmatomOp (k : Core) (w : DWord) : AtomicOp :=
  let v := getS k (fRd w)
  match fnM w with
  | 0 => .add v
  | 1 => .swap v
  | _ => .cas (getS k (fRd w + 1)) v

/-- CMATOM (R154, R155, R649): traps on a poisoned line, which takes nothing. -/
def execCmatom (c : Fin 16) (w : DWord) (s : State) : Res :=
  .next (issue c 0x88 true (fnM w < 3 && dtOk (dtM w)) w s
    (cmAct s c w true (fun a =>
      cmServe s (a / 64) c false (fun s =>
        if cmPoison s (a / 64) then .trapIn (lineRead s (a / 64)) 0x04 0 0x05 0
        else
          let old := BitVec.ofNat 64 (leNat (cmBytes s a 8))
          doneS (applyAtomic s a c (cmatomOp (getCore s c) w)) c (fRd w) old))))

end Sys2Proof.Machine
end

