-- ==== Sys2Proof/Machine/Link.lean ====
section
/-! DEFINITION. Baton frames and the parts of a port that every unit uses: header fields, MAC addresses, topology and
routing, and the queues of the three traffic classes (R391 to R400, R405, R418 to R424). -/

namespace Sys2Proof.Machine

open Sys2Proof

/-! ## Frame fields (R393) -/

/-- `n` bytes of the Baton header at byte `i`. -/
def hb (f : Frame) (i n : Nat) : Nat := fld f.hdr (8 * (i + n) - 1) (8 * i)

def frKind (f : Frame) : Nat := hb f 0 1 % 16
def frVersion (f : Frame) : Nat := hb f 0 1 / 16
def frClass (f : Frame) : Nat := hb f 1 1 % 4
def frAckValid (f : Frame) : Bool := (hb f 1 1).testBit 2
def frPoison (f : Frame) : Bool := (hb f 1 1).testBit 3
def frCurlew (f : Frame) : Bool := (hb f 1 1).testBit 4
def frLast (f : Frame) : Bool := (hb f 1 1).testBit 5
def frSeq (f : Frame) : BitVec 16 := BitVec.ofNat 16 (hb f 2 2)
def frAck (f : Frame) : BitVec 16 := BitVec.ofNat 16 (hb f 4 2)
def frLen (f : Frame) : Nat := hb f 6 2
def frDst (f : Frame) : Nat := hb f 8 1
def frSrc (f : Frame) : Nat := hb f 9 1
def frHops (f : Frame) : Nat := hb f 10 1
def frDetour (f : Frame) : Nat := hb f 11 1

/-- Replace `n` header bytes at byte `i`. -/
def setHb (f : Frame) (i n v : Nat) : Frame :=
  { f with hdr := BitVec.ofNat 256 (f.hdr.toNat - hb f i n * 2 ^ (8 * i) + (v % 2 ^ (8 * n)) * 2 ^ (8 * i)) }

/-- A header from its bytes. -/
def hdrOfBytes (bs : List Byte) : BitVec 256 := BitVec.ofNat 256 (leNat (sliceB bs 0 32))

/-- A frame of this chip before it is started: sequence number, acknowledgement and addresses come at its start. -/
def mkFrame (s : State) (kind cls dst : Nat) (flags : Nat) (client : List Byte) (payload : List Byte) : Frame :=
  { hdr := hdrOfBytes ([BitVec.ofNat 8 (kind + 16), BitVec.ofNat 8 (cls + flags)] ++ leBytes 2 0 ++ leBytes 2 0 ++
      leBytes 2 payload.length ++ [BitVec.ofNat 8 dst, BitVec.ofNat 8 (chipId s), 0, 0] ++ leBytes 4 0 ++
      sliceB client 0 16),
    payload := payload }

/-- Flag bits of header byte 1. -/
def flagBits (poison curlew last : Bool) : Nat := 8 * bit01 poison + 16 * bit01 curlew + 32 * bit01 last

/-- A class M DATA frame with its CLIENT bytes 16 and 17 (R395). -/
def mkM (s : State) (dst recipient msg : Nat) (rest : List Byte) (payload : List Byte) : Frame :=
  mkFrame s 0 0 dst (flagBits false false true) ([BitVec.ofNat 8 recipient, BitVec.ofNat 8 msg] ++ rest) payload

/-! ## Port configuration -/

def getPort (s : State) (m : Fin 8) : Port := s.ports[m]
def setPort (s : State) (m : Fin 8) (p : Port) : State := { s with ports := s.ports.set m p }
def modPort (s : State) (m : Fin 8) (f : Port → Port) : State := setPort s m (f s.ports[m])

def clsFin (c : Nat) : Fin 3 := ⟨c % 3, Nat.mod_lt _ (by decide)⟩
def getCls (p : Port) (c : Fin 3) : ClassState := p.cls[c]
def modCls (s : State) (m : Fin 8) (c : Fin 3) (f : ClassState → ClassState) : State :=
  modPort s m (fun p => { p with cls := p.cls.set c (f p.cls[c]) })

def isUp (s : State) (m : Nat) : Bool := (getPort s (portFin m)).st = .up

def linkEnabled (s : State) (m : Fin 8) : Bool := (regOf s (.baton m) 0x040).testBit 0

/-- ROLE: 0 UNUSED, 1 CUBE, 2 RING_NEXT, 3 RING_PREV (R418). -/
def roleOf (s : State) (m : Nat) : Nat := bitsOf (regOf s (.baton (portFin m)) 0x048) 1 0
/-- Chips in the system, as port `m` has it. -/
def sizeOf' (s : State) (m : Nat) : Nat := bitsOf (regOf s (.baton (portFin m)) 0x048) 15 8 + 1

/-- The ports that take part in the topology. -/
def usedPorts (s : State) : List Nat := (List.range 8).filter (fun m => roleOf s m != 0)

/-- Chips in the system: SYSTEM_SIZE of the used ports, 1 with none. -/
def systemSize (s : State) : Nat := match usedPorts s with
  | m :: _ => sizeOf' s m
  | [] => 1

def isCube (s : State) : Bool := match usedPorts s with
  | m :: _ => roleOf s m = 1
  | [] => false

/-- The chip does not mix CUBE and ring roles, and its ports have one SYSTEM_SIZE_M1 (R418). -/
def rolesOk (s : State) : Bool :=
  let rs := (usedPorts s).map (roleOf s)
  (rs.all (· = 1) || rs.all (· != 1)) && (List.range 8).all (fun m => sizeOf' s m = sizeOf' s 0)

/-- The chip, port and role the topology gives for the other end of port `m` (R419, R420). -/
def expectedPeer (s : State) (m : Nat) : Nat × Nat × Nat :=
  let n := systemSize s
  match roleOf s m with
  | 1 => (chipId s ^^^ 2 ^ m, m, 1)
  | 2 => ((chipId s + 1) % n, m + 1, 3)
  | _ => ((chipId s + n - 1) % n, m - 1, 2)

/-- The MAC of port `m` of this chip (R392). -/
def macOf (s : State) (m : Nat) : BitVec 48 :=
  BitVec.ofNat 48 (regOf s (.baton (portFin m)) 0x050 % 2 ^ 24 * 2 ^ 24 + chipId s * 256 + m)

/-- PCP of a class on port `m`. -/
def pcpOf (s : State) (m cls : Nat) : Nat := bitsOf (regOf s (.baton (portFin m)) 0x054) (4 * cls + 2) (4 * cls)

def etherOf (s : State) (m : Nat) : Nat := regOf s (.baton (portFin m)) 0x04C % 65536

/-! ## Occupancy (R400) -/

def payBytes (l : List Frame) : Nat := (l.map (fun f => f.payload.length)).sum

/-- Retransmit share of a class, in bytes. -/
def retxShare (cls : Nat) : Nat := match cls with
  | 0 => 64 * 1024
  | 1 => 448 * 1024
  | _ => 512 * 1024

/-- Receive buffer of a class, in bytes (R400). -/
def rxShare (cls : Nat) : Nat := if cls = 0 then 256 * 1024 else 640 * 1024

/-- Bytes of a class in the receive buffer; the chunks the expander holds belong to class C. -/
def occupancy (p : Port) (c : Fin 3) : Nat :=
  payBytes (getCls p c).rxbuf + (if c.val = 2 then ((p.held.map (fun h => payBytes h.frames)).sum) else 0)

/-! ## Routing (R422 to R424) -/

/-- The egress port of a frame for another chip and its DETOUR byte there; none where no port is UP. -/
def egress (s : State) (dst detour : Nat) : Option (Nat × Nat) :=
  let n := systemSize s
  if isCube s then
    let x := chipId s ^^^ dst
    let dims := List.range (Nat.log2 n)
    let onWay := fun (but : Nat) => dims.find? (fun d => x.testBit d && d != but && isUp s d)
    if detour.testBit 7 then
      let dim := detour % 8
      if x = 2 ^ dim then (if isUp s dim then some (dim, 0) else none)
      else (onWay dim).map (fun d => (d, detour))
    else match onWay 8 with
      | some d => some (d, 0)
      | none => (dims.find? (fun d => !x.testBit d && isUp s d)).map (fun d => (d, 128 + d))
  else
    let f := (dst + n - chipId s) % n
    let dirPorts := fun (prev : Bool) =>
      ((List.range 4).map (fun r => 2 * r + bit01 prev)).filter (fun m => roleOf s m = 2 + bit01 prev && isUp s m)
    let pick := fun (prev : Bool) => let l := dirPorts prev; l[dst % l.length]?
    let kept := detour.testBit 7
    let dir := if kept then detour.testBit 3 else n < 2 * f
    match pick dir with
    | some m => some (m, if kept then detour else 0)
    | none => (pick (!dir)).map (fun m => (m, 128 + 8 * bit01 (!dir)))

/-- Put a frame at the end of a port's queue of frames to start. -/
def enqueue (s : State) (m : Nat) (f : Frame) : State :=
  if isUp s m then modCls s (portFin m) (clsFin (frClass f)) (fun c => { c with txq := c.txq ++ [f] }) else s

/-- Send a frame this chip originates; none where no route exists (R422). -/
def originate (s : State) (f : Frame) : Option State :=
  (egress s (frDst f) (frDetour f)).map (fun r => enqueue s r.1 (setHb f 11 1 r.2))

/-- Send a class M message to a chip; a message without a route is lost. -/
def sendM (s : State) (f : Frame) : State := (originate s f).getD s

/-- Send a control frame at once (R394, R404). -/
def sendControl (s : State) (m : Fin 8) (f : Frame) : State :=
  let p := getPort s m
  emit (.frame m.val { f with
    dst := if frKind f = 4 then BitVec.allOnes 48 else p.peerMac,
    src := macOf s m, pcp := BitVec.ofNat 3 (pcpOf s m (frClass f)),
    etherType := BitVec.ofNat 16 (etherOf s m) }) s

/-! ## Acknowledgement (R409) -/

/-- A class C frame that belongs to a chunk: RELAY_KIND UP or DOWN (R507, R531). -/
def isChunkFrame (f : Frame) : Bool := frKind f = 0 && frClass f = 2 && (hb f 16 1 = 2 || hb f 16 1 = 3)

/-- Chunk frames of port `m` that a replay holds (R569). -/
def replayHeld (s : State) (m : Fin 8) : List Frame :=
  s.recorder.held.filterMap (fun h => match h with
    | .frame p f => if p = m.val && isChunkFrame f then some f else none
    | _ => none)

/-- One past the newest frame of a class that may be acknowledged: frames of a chunk the expander has not checked may
not. -/
def ackPoint (s : State) (m : Fin 8) (c : Fin 3) : BitVec 16 :=
  let p := getPort s m
  let waiting := p.held.flatMap (·.frames) ++ replayHeld s m
  if c.val = 2 then
    match waiting.head? with
    | some f => frSeq f
    | none => (getCls p c).expected
  else (getCls p c).expected

/-- Record that an acknowledgement of everything up to the acknowledgeable point has been sent. -/
def noteAck (s : State) (m : Fin 8) (c : Fin 3) : State :=
  let a := ackPoint s m c
  modCls s m c (fun x => { x with ackSent := a - 1, ackedTo := a })

/-- Send a standalone ACK (KIND 1) or NAK (KIND 2). -/
def sendAckNak (s : State) (m : Fin 8) (c : Fin 3) (kind : Nat) : State :=
  let f := setHb (mkFrame s kind c.val (getPort s m).peerChip.toNat 4 [] []) 4 2 (ackPoint s m c - 1).toNat
  noteAck (sendControl s m f) m c

/-- Acknowledgeable frames no acknowledgement has covered. -/
def unacked (s : State) (m : Fin 8) (c : Fin 3) : Nat := (ackPoint s m c - (getCls (getPort s m) c).ackedTo).toNat

/-! ## Priority flow control (R401) -/

/-- Send a PFC frame for the priority of a class. -/
def sendPfc (s : State) (m : Fin 8) (c : Fin 3) (time : Nat) : State :=
  let q := pcpOf s m c
  bump (emit (.pfc m.val ⟨BitVec.ofNat 8 (2 ^ q),
    (List.range 8).map (fun i => if i = q then BitVec.ofNat 16 time else 0)⟩) s) (.baton m) 15

/-- XOFF and XON of a class, in bytes. -/
def xoffOf (s : State) (m : Fin 8) (c : Fin 3) : Nat := bitsOf (regOf s (.baton m) (0x058 + 4 * c.val)) 11 0 * 1024
def xonOf (s : State) (m : Fin 8) (c : Fin 3) : Nat := bitsOf (regOf s (.baton m) (0x058 + 4 * c.val)) 27 16 * 1024

/-- Pause or resume the peer as the occupancy of a class asks, while the port is UP. -/
def flowCheck (s : State) (m : Fin 8) (c : Fin 3) : State :=
  let p := getPort s m
  let paused := p.localPaused.toNat.testBit c
  let b := BitVec.ofNat 3 (2 ^ c.val)
  let n := occupancy p c
  if p.st != .up then s
  else if !paused && xoffOf s m c ≤ n then
    sendPfc (modPort s m (fun p => { p with localPaused := p.localPaused ||| b })) m c 0xFFFF
  else if paused && n ≤ xonOf s m c then
    sendPfc (modPort s m (fun p => { p with localPaused := p.localPaused &&& ~~~b })) m c 0
  else s

/-- Take the first frame equal to `f` out of a class's receive buffer, if it heads it: its delivery frees the room. -/
def takeHead (s : State) (m : Fin 8) (c : Fin 3) (f : Frame) : State :=
  match (getCls (getPort s m) c).rxbuf with
  | g :: rest => if g = f then flowCheck (modCls s m c (fun x => { x with rxbuf := rest })) m c else s
  | [] => s

/-! ## Accepted frames on their way to a unit (R421, R409) -/

/-- The table of a Curlew chunk of which some frames are there (R344, R531). -/
def chunkTable (s : State) (had : Option SlotImage) (fs : List Frame) : Option SlotImage :=
  if fs.head?.any (fun f => hb f 17 1 / 64 = 0) then startTable s had (fs.flatMap (·.payload)) else none

/-- Put an accepted frame where it waits: a chunk frame for this chip in the expander, everything else in the receive
buffer. -/
def storeAccepted (s : State) (m : Fin 8) (f : Frame) : State :=
  let s :=
    if isChunkFrame f && frDst f = chipId s then
      modPort s m (fun p =>
        let opened := p.held.getLast?.any (fun h => !h.complete)
        if opened then
          { p with held := p.held.dropLast ++ (p.held.getLast?.map (fun h =>
            { h with frames := h.frames ++ [f], complete := frLast f, table := chunkTable s h.table (h.frames ++ [f]) })).toList }
        else { p with held := p.held ++
          [⟨[f], frLast f, p.refusedSeqs.contains (frSeq f), chunkTable s none [f]⟩] })
    else modCls s m (clsFin (frClass f)) (fun c => { c with rxbuf := c.rxbuf ++ [f] })
  flowCheck s m (clsFin (frClass f))

end Sys2Proof.Machine
end

