-- ==== Sys2Proof/Machine/Record.lean ====
section
/-! DEFINITION. The Split recorder's hook on every external input (R564 to R571), and the delivery of the inputs a replay
holds: doorbells, accepted frames and Bittern wakes. -/

namespace Sys2Proof.Machine

open Sys2Proof

/-! ## Doorbells (R593, R623) -/

/-- Place of ring `r` of partition `p`. -/
def ringFin (p r : Nat) : Fin 64 := ⟨(16 * p + r) % 64, Nat.mod_lt _ (by decide)⟩
def getRing (s : State) (p r : Nat) : Ring := s.rings[ringFin p r]
def modRing (s : State) (p r : Nat) (f : Ring → Ring) : State :=
  { s with rings := s.rings.set (ringFin p r) (f (getRing s p r)) }

/-- Register of ring `r`: offset within the queue page. -/
def ringReg (r off : Nat) : Nat := 0x100 + 0x40 * r + off

/-- RING_CFG and the sizes of a ring. -/
def ringCfg (s : State) (p r : Nat) : Nat := regOf s (.queues (partFin p)) (ringReg r 0x10)
def sqSize (s : State) (p r : Nat) : Nat := 2 ^ bitsOf (ringCfg s p r) 7 4
def cqSize (s : State) (p r : Nat) : Nat := 2 ^ bitsOf (ringCfg s p r) 11 8

/-- Descriptors of a ring still hold their contexts. -/
def ringHolds (s : State) (p r : Nat) : Bool :=
  s.ctxs.any (fun x => match x.2.owner with
    | .ring q t _ => q = p && t = r
    | .core _ => false)

/-- RING_STATUS.RUNNING (R616, R619). -/
def ringRunning (s : State) (p r : Nat) : Bool := (getRing s p r).enable || ringHolds s p r

/-- A ring takes a doorbell (R623): an enabled one; one that drains its completions takes CQ doorbells (R616; DEDUCED,
entry 66). -/
def takesBell (s : State) (p r : Nat) (cq : Bool) : Bool := (getRing s p r).enable || (cq && ringHolds s p r)

/-- A doorbell takes effect (R593): the tail of the SQ or the head of the CQ moves; a value out of range is captured. -/
def deliverBell (s : State) (p r : Nat) (cq : Bool) (v : Nat) : State :=
  let k := getRing s p r
  if !takesBell s p r cq || k.fault then s
  else if (if cq then cqSize s p r else sqSize s p r) ≤ v then
    captureOpen1 s (.queues (partFin p)) stUnsupported 3 r
  else modRing s p r (fun k => if cq then { k with cqHead := v } else { k with sqTail := v })

/-! ## Bittern wakes (R701, R703) -/

/-- The host-visible part of a wake: WAKE_PENDING, WAKE_CODE and the WAKE level. (DESIGN CHOICE, entry 106). -/
def presentWake (s : State) (code : Nat) : State :=
  let b := s.bittern
  levelIrq { s with bittern := { b with
    wakePending := true, wakeCode := if b.wakePending then b.wakeCode else BitVec.ofNat 8 code } } .bittern 1 true

/-! ## The record region (R565 to R567) -/

/-- Address and length of the region; it lies in the HBM space of partition 0 (DEDUCED, entry 46). -/
def recBase (s : State) : Nat := regOf s .determinism 0x0C8 + regOf s .determinism 0x0CC * 2 ^ 32
def recSpan (s : State) : Nat := regOf s .determinism 0x0D0 * 0x200000
def recCap (s : State) : Nat := (recSpan s - 64) / 32

/-- Write bytes of the region that lie in HBM. -/
def recWrite (s : State) (off : Nat) (bs : List Byte) : State :=
  if off + bs.length ≤ recSpan s && hbmInside s 0 (recBase s + off) bs.length then
    hbmWrite s 0 (recBase s + off) (withMark false bs) else s

def recRead (s : State) (off n : Nat) : List Byte :=
  (List.range n).map (fun i => s.hbm.byte (hbmAddr s 0 (recBase s + off + i)))

/-- REC_STATE with its interrupt levels (R574). -/
def setRecSt (s : State) (st : RecSt) : State :=
  let s := { s with recorder := { s.recorder with st := st } }
  levelIrq (levelIrq s .determinism 3 (st = .full)) .determinism 4 (st = .diverged || st = .ended)

/-- The 32 bytes of a record (R567). -/
def recordBytes (order frame : Nat) (r : RecInput) : List Byte :=
  leBytes 8 order ++ leBytes 8 frame ++ [BitVec.ofNat 8 r.kind, BitVec.ofNat 8 r.source, 0, 0] ++
    leBytes 4 r.arg0.toNat ++ leBytes 8 r.arg1.toNat

/-- Append one record; the record that fills the region stops the recording (R568), and a region that holds none takes none. -/
def appendRec (s : State) (r : RecInput) : State :=
  let k := s.recorder.count
  if recCap s ≤ k then setRecSt s .full else
  let frames := frameCount s - s.recorder.startFrame.toNat
  let s := bump (recWrite s (64 + 32 * k) (recordBytes k frames r)) .determinism 5
  let s := { s with recorder := { s.recorder with count := k + 1 } }
  if recCap s ≤ k + 1 then setRecSt s .full else s

/-- The record at a position. -/
def recAt (s : State) (k : Nat) : RecInput :=
  let b := recRead s (64 + 32 * k) 32
  ⟨leField b 16 1, leField b 17 1, BitVec.ofNat 32 (leField b 20 4), BitVec.ofNat 64 (leField b 24 8)⟩

/-! ## Inputs -/

/-- CLIENT bytes 16 to 23 of a frame. -/
def client8 (f : Frame) : DWord := BitVec.ofNat 64 (hb f 16 8)

/-- The record of a held input (R567). -/
def inputOf : HeldInput → RecInput
  | .doorbell p r _ v => ⟨1, p, BitVec.ofNat 32 r, v.zeroExtend 64⟩
  | .frame m f => ⟨3, m, BitVec.ofNat 32 (frClass f + 256 * frSrc f), client8 f⟩
  | .wake code => ⟨4, 0, BitVec.ofNat 32 code, 0⟩

/-- An input reaches its unit. -/
def deliver (s : State) : HeldInput → State
  | .doorbell p r cq v => deliverBell s p r cq v.toNat
  | .frame m f => storeAccepted s (portFin m) f
  | .wake code => presentWake s code

/-- The replay ends: held inputs are released in arrival order (R570, R571). -/
def endReplay (s : State) (st : RecSt) : State :=
  let held := s.recorder.held
  let s := setRecSt { s with recorder := { s.recorder with held := [], checked := [] } } st
  held.foldl deliver s

/-- Every running core of the chip traps with BREAK and a code (R563, R570). -/
def stopAll (s : State) (code : Nat) : State := (List.finRange 16).foldl (fun s c => stopCore s c code) s

/-- R570. -/
def diverge (s : State) : State := endReplay (stopAll s 2) .diverged

/-- Move past records that read data has matched already, and end at the last record (R571). -/
def settleReplay : Nat → State → State
  | 0, s => s
  | n + 1, s =>
    let r := s.recorder
    if r.total ≤ r.count then endReplay s .ended
    else if r.checked.contains r.count then settleReplay n { s with recorder := { r with count := r.count + 1 } }
    else s

/-- The record at the replay position has been met. -/
def consumeRec (s : State) : State :=
  let s := bump s .determinism 5
  let s := { s with recorder := { s.recorder with count := s.recorder.count + 1 } }
  settleReplay (s.recorder.checked.length + 1) s

/-- A live doorbell, accepted frame or wake: recorded and delivered, or held for its place in a replay (R567, R569). -/
def liveInput (s : State) (i : HeldInput) : State :=
  match s.recorder.st with
  | .recording => deliver (appendRec s (inputOf i)) i
  | .replaying => { s with recorder := { s.recorder with held := s.recorder.held ++ [i] } }
  | _ => deliver s i

/-- A gun fire or a change of PHOTO_FINISH_ACTIVE: recorded, or checked against the record at the replay position (R569,
R570).  In a replay only the kind and, for a mode change, the new value are compared. -/
def markInput (s : State) (r : RecInput) : State :=
  match s.recorder.st with
  | .recording => appendRec s r
  | .replaying =>
    let x := recAt s s.recorder.count
    if x.kind = r.kind && x.arg0 = r.arg0 then consumeRec s else diverge s
  | _ => s

/-- The first record of PCIe read data for a partition that no data has met, from position `k` on. -/
def findRead (s : State) (part : Nat) : Nat → Nat → Option Nat
  | 0, _ => none
  | n + 1, k =>
    let x := recAt s k
    if x.kind = 2 && x.source = part && !s.recorder.checked.contains k then some k else findRead s part n (k + 1)

/-- PCIe read completion data (KIND 0x02): recorded, or checked when it arrives; the flight tag is not compared (R535,
R567, R569; DEDUCED, entry 47). -/
def readInput (s : State) (part tag : Nat) (bs : List Byte) : State :=
  let crc := crc32c bs
  match s.recorder.st with
  | .recording => appendRec s ⟨2, part, BitVec.ofNat 32 bs.length, BitVec.ofNat 64 (crc + tag * 2 ^ 32)⟩
  | .replaying =>
    let r := s.recorder
    match findRead s part (r.total - r.count) r.count with
    | none => diverge s
    | some k =>
      let x := recAt s k
      if x.arg0.toNat = bs.length && fld x.arg1 31 0 = crc then
        if k = r.count then consumeRec s
        else bump { s with recorder := { r with checked := nInsert r.checked k } } .determinism 5
      else diverge s
  | _ => s

end Sys2Proof.Machine
end

