-- ==== Sys2Proof/Machine/Post.lean ====
section
/-! DEFINITION. Posting of Relay and Stork descriptors by cores, and what the two engines share: picking a descriptor up in
posting order, reading it, and completing it (R182, R183, R443, R445, R494, R525, R586 to R588). -/

namespace Sys2Proof.Machine

open Sys2Proof

/-- A WRITE or FLAG that has failed leaves its code on its queue for the queue's later FLAGs: that of the first such operation
in posting order (R457). -/
def noteFail (s : State) (queue code order : Nat) : State :=
  if s.stork.fails.any (fun q => q.queue = queue && q.order < order) then s
  else { s with stork := { s.stork with fails := s.stork.fails.filter (fun q => q.queue != queue) ++ [⟨queue, code, order⟩] } }

/-- A Stork descriptor refused before the engine sees it, as its queue's later FLAGs see it (R457). -/
def noteRefused (s : State) (kind : CtxKind) (desc : List Byte) : State :=
  let op := leField desc 0 1
  let n := s.stork.nextOrder
  if kind = .stork && (op = 1 || op = 3) then
    { noteFail s (leField desc 2 1) stUnsupported.toNat n with stork.nextOrder := n + 1 }
  else s

/-- Write a core's completion record where COMPLETION asks (R445, R525); one that would leave its scratchpad is not written. -/
def putRecord (s : State) (c : Fin 16) (compl : Nat) (record : List Byte) : State :=
  let a := bitsOf compl 23 0
  if compl.testBit 63 && a % 16 = 0 && spadOk s c a 16 then spadWrite s c a record else s

/-- The completion record of a post that Pacer refuses (R445, R525, R560). -/
def pacedRecord (s : State) (kind : CtxKind) (desc : List Byte) : List Byte :=
  if kind = .relay then
    let g := leField desc 1 1 % 64
    [stUnsupported, BitVec.ofNat 8 g, 0, 0] ++ leBytes 2 (mgetD s.relay {} g).epoch.toNat ++ List.replicate 10 0
  else [stUnsupported, 0, 0, 0] ++ sliceB desc 8 2 ++ List.replicate 10 0

/-- A post while Pacer runs completes with UNSUPPORTED (R560). -/
def refusePost (s : State) (c : Fin 16) (tag a : Nat) (kind : CtxKind) : State :=
  let d := spadRead s c a 64
  let s := putRecord s c (leField d (if kind = .relay then 56 else 48) 8) (pacedRecord s kind d)
  finishCtx (noteRefused s kind d) tag { code := stUnsupported }

/-- RPOST and SPOST: the descriptor lies at RA; issue waits for a flight context (R588).  While Pacer runs, the post
completes with UNSUPPORTED (R560). -/
def postAct (c : Fin 16) (w : DWord) (kind : CtxKind) (s : State) : Act :=
  let a := (getS (getCore s c) (fRa w)).toNat
  match spadCheck s c 1 a 64 with
  | some t => t
  | none =>
    let p := partOfCore s c
    match freeTag s p with
    | none => .wait s
    | some tag =>
      let paced := s.pacer.st = .running
      let s := takeCtx s tag { owner := .core c, kind := kind, part := p, addr := a, started := paced }
      let s := if paced then refusePost s c tag a kind else s
      doneS s c (fRd w) (BitVec.ofNat 64 tag)

/-- RPOST (R494). -/
def execRpost (c : Fin 16) (w : DWord) (s : State) : Res :=
  .next (issue c 0x7C false (fnX w = 0) w s (postAct c w .relay s))

/-- SPOST (R443). -/
def execSpost (c : Fin 16) (w : DWord) (s : State) : Res :=
  .next (issue c 0x7D false (fnX w = 0) w s (postAct c w .stork s))

/-- The core that posted a context. -/
def ctxCore (x : Ctx) : Option (Fin 16) :=
  match x.owner with
  | .core n => some (coreFin n)
  | .ring _ _ _ => none

/-- The 64 descriptor bytes of a context, and whether they are poisoned. -/
def ctxDesc (s : State) (x : Ctx) : List Byte × Bool :=
  match x.desc with
  | some d => (leBytes 64 d.toNat, false)
  | none => match ctxCore x with
    | some c => (spadRead s c x.addr 64, spadPoison s c x.addr 64)
    | none => (List.replicate 64 0, false)

/-- The context of a tag whose descriptor an engine may pick up now: posted, not started, and the oldest such of its kind
in its partition (R502, R456: posting order is kept). -/
def pickUp (s : State) (tag : Nat) (kind : CtxKind) : Option Ctx :=
  match mget s.ctxs tag with
  | none => none
  | some x =>
    if x.kind = kind && !x.started && x.result.isNone &&
      !s.ctxs.any (fun y => y.2.kind = kind && y.2.part = x.part && !y.2.started && y.2.result.isNone && y.2.order < x.order)
    then some x else none

/-- An engine has picked a descriptor up. -/
def startCtx (s : State) (tag : Nat) : State :=
  match mget s.ctxs tag with
  | some x => { s with ctxs := mput s.ctxs tag { x with started := true } }
  | none => s

/-- The COMPLETION field of a descriptor is well formed: zero bits zero, 16 B aligned, and zero from the host (R443,
R590). -/
def complOk (x : Ctx) (f : Nat) : Bool :=
  match ctxCore x with
  | some _ => if f.testBit 63 then bitsOf f 62 24 = 0 && f % 16 = 0 else f = 0
  | none => f = 0

/-- Complete a posted descriptor: a core's completion record is written where COMPLETION asks, before WAIT can see the
end (R445, R525). -/
def completePost (s : State) (tag : Nat) (compl : Nat) (record : List Byte) (r : Result) : State :=
  match mget s.ctxs tag with
  | none => s
  | some x =>
    let s := match ctxCore x with
      | some c => putRecord s c compl record
      | none => s
    finishCtx s tag r

end Sys2Proof.Machine
end

