-- ==== Sys2Proof/Machine/Relay.lean ====
section
/-! DEFINITION. Relay groups: ownership, the reduction tree, the frames of class C and the control messages of class M, E56
streams, and the chunks that carry them (R489 to R493, R505 to R509, R515, R530, R531). -/

namespace Sys2Proof.Machine

open Sys2Proof

/-! ## Detail codes (R523) -/

def rdShape : Nat := 0x01
def rdMismatch : Nat := 0x02
def rdRefused : Nat := 0x03
def rdStaging : Nat := 0x04
def rdNotOwner : Nat := 0x05
def rdGroupState : Nat := 0x06
def rdNoQuorum : Nat := 0x07
def rdStepWait : Nat := 0x08
def rdCreateWait : Nat := 0x09
def rdReformLimit : Nat := 0x0A
def rdRange : Nat := 0x0B
def rdCapacity : Nat := 0x0C

/-- The step number that means no step (DEDUCED, entry 48). -/
def noStep : Nat := 0xFFFFFFFF

/-! ## Groups -/

def getGrp (s : State) (g : Nat) : RGroup := mgetD s.relay {} g
def setGrp (s : State) (g : Nat) (x : RGroup) : State := { s with relay := mputD s.relay {} g x }
def modGrp (s : State) (g : Nat) (f : RGroup → RGroup) : State := setGrp s g (f (getGrp s g))

/-- Partition `p` owns group `g` (R490). -/
def ownsGroup (s : State) (p g : Nat) : Bool := !isDay s || g / 16 = p

/-- ERR_INFO0 of the Relay page (R532). -/
def grpInfo (s : State) (g : Nat) : Nat := g + (getGrp s g).epoch.toNat * 65536

/-- Chip logical core of a group's staging region. -/
def stageChip (s : State) (x : RGroup) : Nat := partBase s x.part + x.stageCore

def setMembers (m : BitVec 256) : List Nat := bitList m.toNat 256
def setOf (l : List Nat) : BitVec 256 := BitVec.ofNat 256 ((l.eraseDups.map (2 ^ ·)).sum)
def inSet (m : BitVec 256) (c : Nat) : Bool := c < 256 && m.toNat.testBit c

/-! ## The tree (R492) -/

def topoOf (l : List TopoRec) (c : Nat) : Option TopoRec := l.find? (fun r => r.chip = c)

/-- The member that port `m` of member `a` reaches over a member link: both ports report the link UP. -/
def memberLink (cube : Bool) (l : List TopoRec) (a m : Nat) : Option Nat :=
  match topoOf l a with
  | none => none
  | some r =>
    let b := r.peers.getD m 0
    let m' := if cube then m else m ^^^ 1
    match topoOf l b with
    | some q => if r.upMask.toNat.testBit m && q.upMask.toNat.testBit m' && q.peers.getD m' 0 = a && a != b then some b else none
    | none => none

/-- The members one link away. -/
def nextTo (cube : Bool) (l : List TopoRec) (a : Nat) : List Nat := (List.range 8).filterMap (memberLink cube l a)

/-- The members at each depth from a frontier outward. -/
def layers (cube : Bool) (l : List TopoRec) : Nat → List Nat → List Nat → List (List Nat)
  | 0, _, _ => []
  | n + 1, front, seen =>
    if front.isEmpty then [] else
      let next := (front.flatMap (nextTo cube l)).eraseDups.filter (fun c => !seen.contains c)
      front :: layers cube l n next (seen ++ next)

def layersFrom (cube : Bool) (l : List TopoRec) (c : Nat) : List (List Nat) := layers cube l 257 [c] [c]

/-- Every member connected to `c` by member links. -/
def component (cube : Bool) (l : List TopoRec) (c : Nat) : List Nat := (layersFrom cube l c).flatten

/-- A member's place in the tree. -/
structure TreePlace where
  root : Nat
  depth : Nat
  parent : Option Nat
  children : List Nat     -- ports
  deriving DecidableEq, Repr

/-- Depth of a member among the layers. -/
def depthIn (ls : List (List Nat)) (c : Nat) : Nat := ls.findIdx (fun l => l.contains c)

/-- The port toward the parent: the lowest that leads one layer up. -/
def parentPort (cube : Bool) (l : List TopoRec) (ls : List (List Nat)) (c : Nat) : Option Nat :=
  (List.range 8).find? (fun m => match memberLink cube l c m with
    | some b => depthIn ls b + 1 = depthIn ls c
    | none => false)

/-- The tree as member `c` computes it from the records of the members. -/
def treeOf (cube : Bool) (l : List TopoRec) (members : BitVec 256) (c : Nat) : TreePlace :=
  let l := l.filter (fun r => inSet members r.chip)
  let root := (setMembers members).headD c
  let ls := layersFrom cube l root
  let pairedPort := fun (m : Nat) => if cube then m else m ^^^ 1
  { root := root, depth := depthIn ls c,
    parent := parentPort cube l ls c,
    children := (List.range 8).filter (fun m => match memberLink cube l c m with
      | some b => depthIn ls b = depthIn ls c + 1 && parentPort cube l ls b = some (pairedPort m)
      | none => false) }

/-! ## Control messages (R530) -/

/-- ABORT 1, TOPO 2, COMMIT 3 to one chip. -/
def sendRelayMsg (s : State) (g dst msg : Nat) (payload : List Byte) : State :=
  let e := (getGrp s g).epoch.toNat
  sendM s (mkM s dst 3 msg ([BitVec.ofNat 8 g, 0] ++ leBytes 2 e) payload)

/-- A message to every member of a set but this chip. -/
def sendRelayAll (s : State) (g : Nat) (set : BitVec 256) (msg : Nat) (payload : List Byte) : State :=
  ((setMembers set).filter (· != chipId s)).foldl (fun s c => sendRelayMsg s g c msg payload) s

/-- This chip's TOPO record; UP_MASK names the ports that are UP to a chip of `set`. -/
def ownTopo (s : State) (g : Nat) (set : BitVec 256) : TopoRec :=
  let x := getGrp s g
  let peers := (List.range 8).map (fun m => (getPort s (portFin m)).peerChip.toNat)
  { chip := chipId s, lastReady := x.lastReady, peers := peers,
    upMask := BitVec.ofNat 8 (((List.range 8).filter (fun m => isUp s m && inSet set (peers.getD m 0))).map (2 ^ ·)).sum,
    lastReleased := x.lastReleased, activeStep := (x.step.map (·.number)).getD noStep }

/-- The payload of TOPO. -/
def topoBytes (r : TopoRec) : List Byte :=
  leBytes 32 r.lastReady.toNat ++ r.peers.map (BitVec.ofNat 8) ++ [r.upMask, 0, 0, 0] ++ leBytes 4 r.lastReleased ++
    leBytes 4 r.activeStep ++ List.replicate 12 0

/-- The record a TOPO frame carries. -/
def topoRec (f : Frame) : TopoRec :=
  { chip := frSrc f, lastReady := BitVec.ofNat 256 (leField f.payload 0 32),
    peers := (List.range 8).map (fun i => leField f.payload (32 + i) 1), upMask := BitVec.ofNat 8 (leField f.payload 40 1),
    lastReleased := leField f.payload 44 4, activeStep := leField f.payload 48 4 }

/-! ## Class C frames (R531) -/

def rkCount : Nat := 1
def rkUp : Nat := 2
def rkDown : Nat := 3
def rkEnd : Nat := 4
def rkDone : Nat := 5
def rkRelease : Nat := 6

def frRelayKind (f : Frame) : Nat := hb f 16 1
def frGroup (f : Frame) : Nat := hb f 17 1 % 64
def frForm (f : Frame) : Nat := hb f 17 1 / 64
def frEpoch (f : Frame) : BitVec 16 := BitVec.ofNat 16 (hb f 18 2)
def frStep (f : Frame) : Nat := hb f 20 4
def frChunk (f : Frame) : Nat := hb f 24 4
def frSubStatus (f : Frame) : Nat := hb f 28 1
def frSubDetail (f : Frame) : Nat := hb f 29 2

/-- A class C DATA frame of a group to the neighbour at port `m`. -/
def relayFrame (s : State) (g m kind form step chunk flags status detail : Nat) (payload : List Byte) : Frame :=
  mkFrame s 0 2 (getPort s (portFin m)).peerChip.toNat flags
    ([BitVec.ofNat 8 kind, BitVec.ofNat 8 (g + 64 * form)] ++ leBytes 2 (getGrp s g).epoch.toNat ++ leBytes 4 step ++
      leBytes 4 chunk ++ leBytes 1 status ++ leBytes 2 detail ++ [0]) payload

/-- Send a single frame of a step (COUNT, END, DONE, RELEASE): it needs no credit. -/
def sendSingle (s : State) (g m kind step : Nat) (payload : List Byte) : State :=
  enqueue s (portFin m) (relayFrame s g m kind 0 step 0 (flagBits false false true) 0 0 payload)

/-- Send a single frame to every child. -/
def sendDown (s : State) (g kind step : Nat) (payload : List Byte) : State :=
  (bitList (getGrp s g).childPorts.toNat 8).foldl (fun s m => sendSingle s g m kind step payload) s

/-- Payload of a COUNT record. -/
def countBytes (count e segCrc : Nat) (refused dense : Bool) : List Byte :=
  leBytes 8 count ++ leBytes 8 e ++ leBytes 4 segCrc ++ [BitVec.ofNat 8 (bit01 refused + 2 * bit01 dense)] ++
    List.replicate 11 0

/-- Payload of END. -/
def endBytes (status detail count : Nat) (scales : List Int) : List Byte :=
  leBytes 1 status ++ [0] ++ leBytes 2 detail ++ leBytes 4 0 ++ leBytes 8 count ++
    sliceB (scales.map (fun i => BitVec.ofInt 8 i)) 0 64

/-- Split a chunk into frames of at most 8,192 B; an empty chunk is one empty frame. -/
def splitChunk : Nat → List PByte → List (List PByte)
  | 0, _ => []
  | n + 1, l => if l.length ≤ 8192 then [l] else l.take 8192 :: splitChunk n (l.drop 8192)

/-- The frames of one chunk; the subtree status goes into the LAST frame when `final`. -/
def chunkFrames (s : State) (g m kind form step chunk : Nat) (curlew : Bool) (status detail : Nat) (final : Bool)
    (bytes : List PByte) : List Frame :=
  let parts := splitChunk 8 bytes
  (List.range parts.length).map (fun i =>
    let p := parts.getD i []
    let last := i + 1 = parts.length
    relayFrame s g m kind form step chunk (flagBits (anyMark p) curlew last)
      (if last && final then status else 0) (if last && final then detail else 0) (plain p))

/-! ## Entries and chunks (R505 to R507) -/

/-- The 56-bit sum of two entries at one index; poison of either marks it (R505, R522). -/
def addEntry (a b : E56Entry) : E56Entry :=
  { a with word := BitVec.ofNat 56 (addE56 a.word.toNat b.word.toNat), poison := a.poison || b.poison }

/-- Merge two ascending streams, adding equal indices; with the number of additions (R506, R533). -/
def mergeE56 : Nat → List E56Entry → List E56Entry → List E56Entry × Nat
  | 0, _, _ => ([], 0)
  | _, [], l => (l, 0)
  | _, l, [] => (l, 0)
  | n + 1, a :: l, b :: r =>
    if a.idx < b.idx then let x := mergeE56 n l (b :: r); (a :: x.1, x.2)
    else if b.idx < a.idx then let x := mergeE56 n (a :: l) r; (b :: x.1, x.2)
    else let x := mergeE56 n l r; (addEntry a b :: x.1, x.2 + 1)

def mergeAll (l : List (List E56Entry)) : List E56Entry × Nat :=
  l.foldl (fun acc x => let r := mergeE56 (acc.1.length + x.length + 1) acc.1 x; (r.1, acc.2 + r.2)) ([], 0)

/-- Entries of a sparse stream on its way up: a zero drops out, but one that carries a poison mark stays. -/
def sparseOf (l : List E56Entry) : List E56Entry := l.filter (fun x => x.word != 0 || x.poison)

/-- A sparse result holds exactly the indices whose total is non-zero or NaR (R506). -/
def sparseResult (l : List E56Entry) : List E56Entry := l.filter (·.word != 0)

/-- A sign-extended record word (R507). -/
def wordBytes (w : BitVec 56) : List Byte := leBytes 8 (w.signExtend 64).toNat

/-- The entries of every index from `i` to `i + n - 1`, zeros where none is listed. -/
def denseEntries : Nat → Nat → List E56Entry → List E56Entry
  | 0, _, _ => []
  | n + 1, i, [] => ⟨i, 0, false⟩ :: denseEntries n (i + 1) []
  | n + 1, i, x :: l => if x.idx = i then x :: denseEntries n (i + 1) l else ⟨i, 0, false⟩ :: denseEntries n (i + 1) (x :: l)

def denseRecord (x : E56Entry) : List PByte := withMark x.poison (wordBytes x.word)
def sparseRecord (x : E56Entry) : List PByte := withMark x.poison (leBytes 8 x.idx ++ wordBytes x.word)

/-- Cut a list into pieces of `k`. -/
def cutEvery (k : Nat) : Nat → List E56Entry → List (List E56Entry)
  | 0, _ => []
  | n + 1, l => if l.length ≤ k then [l] else l.take k :: cutEvery k n (l.drop k)

/-- The raw chunks of a stream: dense with 8,192 words each, or sparse with 4,096 records each, a sparse stream that fills
whole chunks ending with an empty one (R507; DEDUCED, entry 49). -/
def rawChunks (dense : Bool) (e : Nat) (l : List E56Entry) : List (List PByte) :=
  if dense then
    let d := denseEntries e 0 l
    (cutEvery 8192 (d.length / 8192 + 1) d).map (fun c => c.flatMap denseRecord)
  else
    let d := sparseOf l
    let cs := (cutEvery 4096 (d.length / 4096 + 1) d).map (fun c => c.flatMap sparseRecord)
    if d.length != 0 && d.length % 4096 = 0 then cs ++ [[]] else cs

/-- Payload bytes of a chunk's frames with the marks their POISON bits give (R399). -/
def chunkBytes (fs : List Frame) : List PByte := fs.flatMap (fun f => withMark (frPoison f) f.payload)

/-- First element of Curlew chunk `j` (R351). -/
def curlewFirst (h : Hdr) (bs : List Byte) (j : Nat) : Nat :=
  if h.mode = 3 then let n := leField bs 40 8; j * ((32742 / h.rank - n) * n) else j * 65472

/-- What a checked chunk holds: its entries, the index after the block it covers (dense forms) and the elements its entry into
E56 clamped; or the detail of a failed check and the byte offset of the failure. -/
inductive ChunkData where
  | good (entries : List E56Entry) (next clamped : Nat)
  | bad (detail off : Nat)
  deriving DecidableEq, Repr

/-- A checked chunk and whether it is poisoned (R367). -/
structure ChunkRes where
  data : ChunkData
  poisoned : Bool
  deriving DecidableEq, Repr

/-- Entries of a raw dense chunk. -/
def denseFromBytes (bs : List PByte) (first : Nat) : List E56Entry :=
  (List.range (bs.length / 8)).map (fun i =>
    let b := (bs.drop (8 * i)).take 8
    ⟨first + i, BitVec.ofNat 56 (leNat (plain b)), anyMark b⟩)

/-- Entries of a raw sparse chunk. -/
def sparseFromBytes (bs : List PByte) : List E56Entry :=
  (List.range (bs.length / 16)).map (fun i =>
    let b := (bs.drop (16 * i)).take 16
    ⟨leNat (plain (b.take 8)), BitVec.ofNat 56 (leNat (plain (b.drop 8))), anyMark b⟩)

/-- Decode a Curlew chunk (R362, R369, R495): a mode other than ENTROPY, narrow STORED and LOWRANK fails its header; the
stream fills the chunk's payload (DEDUCED, entry 50). -/
def curlewChunk (t : SlotImage) (bs : List PByte) (j : Nat) : ChunkRes :=
  let z := decodeStream t bs
  match z.hdr, z.out with
  | none, _ => ⟨.bad 1 0, z.poisoned⟩
  | some h, out =>
    if h.mode = 2 || (h.mode = 0 && h.flags.testBit 1) then ⟨.bad 1 0, z.poisoned⟩
    else match out with
      | .error e => ⟨.bad e.1 e.2, z.poisoned⟩
      | .ok d =>
        if bs.length != 36 + h.plen then ⟨.bad 5 (36 + h.plen), z.poisoned || anyMark bs⟩
        else
          let first := curlewFirst h (plain bs) j
          ⟨.good (d.elems.map (fun x => ⟨first + x.1, BitVec.ofNat 56 (e56Of h x.2).1, z.poisoned⟩)) (first + h.count)
            (e56Clamps h d), z.poisoned⟩

/-- The worse of two step conditions: POISON, then DAMAGED_STREAM with the lower detail, then OK; an unknown code counts
as OK (R521; DEDUCED, entry 51). -/
def worseStatus (a b : Nat × Nat) : Nat × Nat :=
  if a.1 = 5 || b.1 = 5 then (5, 0)
  else if a.1 = 1 && b.1 = 1 then (1, min a.2 b.2)
  else if a.1 = 1 then a else if b.1 = 1 then b else (0, 0)

/-- The step condition a checked chunk brings; poison outranks damage (R368, R521, R522). -/
def chunkStatus (poisoned : Bool) (damaged : Option Nat) : Nat × Nat :=
  if poisoned then (5, 0) else damaged.elim (0, 0) (fun d => (1, d))

/-- One header field is the same in every frame. -/
def sameField (fs : List Frame) (i n : Nat) : Bool :=
  match fs with
  | [] => true
  | f :: l => l.all (fun x => hb x i n = hb f i n)

/-- The raw checks of R509: frames that agree, a whole number of records, rising indices, sign-extended words; within a
record the index comes first.  A failure gives its detail and its byte offset in the chunk. -/
def rawCheck (fs : List Frame) (sparse : Bool) : Option (Nat × Nat) :=
  let b := (chunkBytes fs)
  let w := if sparse then 16 else 8
  if !(sameField fs 16 12) then some (5, 0)
  else if 65536 < b.length then some (5, 65536)
  else if b.length % w != 0 then some (5, b.length / w * w)
  else
    let word := fun (r : List Byte) => leNat (if sparse then r.drop 8 else r)
    let badWord := fun (r : List Byte) => let v := word r; v != ((BitVec.ofNat 56 v).signExtend 64).toNat
    let recs := (List.range (b.length / w)).map (fun i => plain ((b.drop (w * i)).take w))
    let falls := fun (i : Nat) => sparse && i != 0 &&
      leNat ((recs.getD i []).take 8) ≤ leNat ((recs.getD (i - 1) []).take 8)
    ((List.range recs.length).find? (fun i => falls i || badWord (recs.getD i []))).map (fun i =>
      if falls i then (4, w * i) else (3, w * i + (if sparse then 8 else 0)))

/-- Contents of a chunk as the expander checks it and the Relay takes it. -/
def readChunk (t : SlotImage) (fs : List Frame) : ChunkRes :=
  let b := chunkBytes fs
  match fs with
  | [] => ⟨.bad 5 0, false⟩
  | f :: _ =>
    if frForm f = 0 then
      (if sameField fs 16 12 then curlewChunk t b (frChunk f) else ⟨.bad 5 0, (decodeStream t b).poisoned⟩)
    else match rawCheck fs (frForm f = 2) with
      | some d => ⟨.bad d.1 d.2, anyMark b⟩
      | none => ⟨if frForm f = 1 then .good (denseFromBytes b (8192 * frChunk f)) (8192 * (frChunk f + 1)) 0
          else .good (sparseFromBytes b) 0 0, anyMark b⟩

/-- This chunk ends its phase's stream: a dense form that reaches E, or a sparse chunk that is not full. -/
def chunkEnds (fs : List Frame) (e : Nat) (d : ChunkData) : Bool :=
  match fs with
  | [] => true
  | f :: _ =>
    if frForm f = 2 then (chunkBytes fs).length < 65536
    else match d with
      | .good _ next _ => e ≤ next
      | .bad _ _ => e ≤ (frChunk f + 1) * (if frForm f = 1 then 8192 else 65472)

/-! ## Credits (R514 to R517) -/

/-- The links of a group after its tree is known: slots shared equally, at most 8 each. -/
def linkSlots (size links : Nat) : Nat := min 8 (size / 0x10000 / links)

/-- Send a CREDIT frame with the cumulative grant; DIRECTION is that of the chunks it admits. -/
def sendCredit (s : State) (g : Nat) (l : LinkCredit) : State :=
  let x := getGrp s g
  let f := mkFrame s 3 2 (getPort s (portFin l.port)).peerChip.toNat 0
    ([0, BitVec.ofNat 8 g] ++ leBytes 2 x.epoch.toNat ++ leBytes 4 l.granted ++ [BitVec.ofNat 8 (bit01 (x.parent = some l.port))])
    []
  if isUp s l.port then sendControl s (portFin l.port) f else s

/-- A chunk from port `m` has been consumed: its slot is granted again. -/
def returnCredit (s : State) (g m : Nat) : State :=
  let s := modGrp s g (fun x => { x with links := x.links.map (fun l =>
    if l.port = m then { l with granted := (l.granted + 1) % 2 ^ 32 } else l) })
  match (getGrp s g).links.find? (fun l => l.port = m) with
  | some l => sendCredit s g l
  | none => s

/-- The frames of the chunk whose start has been sent stay together; other frames of a group go. -/
def purgeQueue (g : Nat) (openChunk : Bool) : List Frame → List Frame
  | [] => []
  | f :: l =>
    if openChunk then f :: purgeQueue g (!frLast f) l
    else if frGroup f = g then purgeQueue g false l else f :: purgeQueue g false l

/-- Frames of a group waiting to start are withdrawn (R526 step 1). -/
def purgeGroup (s : State) (g : Nat) : State :=
  (List.range 8).foldl (fun s m => modPort s (portFin m) (fun p =>
    let c := getCls p 2
    { p with cls := p.cls.set 2 { c with txq := purgeQueue g p.chunkOpen c.txq } })) s

end Sys2Proof.Machine
end

