-- ==== Sys2Proof/Machine/RelayStep.lean ====
section
/-! DEFINITION. One step of a Relay group on this chip: the descriptor and its local checks, the member's own contribution,
and the phases COUNT, UP, DOWN, END, DONE and RELEASE (R494 to R498, R502 to R513, R519 to R525). -/

namespace Sys2Proof.Machine

open Sys2Proof

/-! ## The descriptor (R494) -/

structure RDesc where
  op : Nat
  group : Nat
  kind : Nat
  flags : Nat
  scale : Nat
  b5 : Nat
  b67 : Nat
  src : Nat
  src2 : Nat
  dst : Nat
  cap : Nat
  count : Nat
  aux : Nat
  b54 : Nat
  compl : Nat
  deriving DecidableEq, Repr

def rDesc (b : List Byte) : RDesc :=
  ⟨leField b 0 1, leField b 1 1, leField b 2 1, leField b 3 1, leField b 4 1, leField b 5 1, leField b 6 2, leField b 8 8,
    leField b 16 8, leField b 24 8, leField b 32 8, leField b 40 8, leField b 48 6, leField b 54 2, leField b 56 8⟩

def stepDesc (st : StepState) : RDesc := rDesc (leBytes 64 st.desc.toNat)

def rOut32 (d : RDesc) : Bool := d.flags.testBit 0
def rSegmented (d : RDesc) : Bool := d.flags.testBit 1

/-- An address field uses a space the descriptor may use: 0 only from a core (R494). -/
def rSpaceOk (core : Option Nat) (f : Nat) : Bool := fieldOk f && fieldSpace f < 2 && (fieldSpace f = 1 || core.isSome)

/-- The SHAPE conditions of a STEP (R494 to R497). -/
def stepShapeOk (x : Ctx) (d : RDesc) : Bool :=
  let core := (ctxCore x).map (·.val)
  d.group < 64 && d.kind ≤ 2 && d.flags < 4 && (!rSegmented d || (d.scale = 0 && d.kind != 0)) && d.b5 = 0 && d.b67 = 0 && d.b54 = 0 &&
    1 ≤ d.count && d.count ≤ 2 ^ 48 && rSpaceOk core d.src && rSpaceOk core d.dst &&
    (if d.kind = 2 then rSpaceOk core d.src2 && d.aux ≤ d.count else d.src2 = 0) &&
    (d.kind != 1 || d.aux = 0) && complOk x d.compl

/-- Bytes of an output word, and the capacity a step needs (R498). -/
def outWidth (d : RDesc) : Nat := if rOut32 d then 4 else 8
def stepNeeds (d : RDesc) : Nat := 128 + outWidth d * d.count

/-! ## Sources and destinations -/

def relCore (st : StepState) : Option (Fin 16) := st.core.map coreFin

def relCheck (s : State) (st : StepState) (f n : Nat) (write : Bool) : Byte :=
  devCheck s (relCore st) st.part (fieldSpace f) (fieldAddr f) n write

def relRead (s : State) (st : StepState) (f off n : Nat) : List PByte × State :=
  devRead s (relCore st) st.part (fieldSpace f) (fieldAddr f + off) n

def relWrite (s : State) (st : StepState) (f off : Nat) (bs : List PByte) : State :=
  devWrite s (relCore st) st.part (fieldSpace f) (fieldAddr f + off) bs

/-- The 16 B entries of a segment table with its header, as SEG_CRC takes it (R496, R503). -/
def segTable (e : Nat) (segs : List (Nat × Int)) : List Byte :=
  [BitVec.ofNat 8 segs.length] ++ List.replicate 7 0 ++ leBytes 8 e ++
    segs.flatMap (fun x => leBytes 8 x.1 ++ [BitVec.ofInt 8 x.2] ++ List.replicate 7 0)

/-- The segments a fused buffer names, if its table is well formed (R496). -/
def readSegs (b : List Byte) (e : Nat) : Option (List (Nat × Int)) :=
  let n := leField b 0 1
  let segs := (List.range n).map (fun i => (leField b (16 * i + 16) 8, sgn 8 (leField b (16 * i + 24) 1)))
  if 1 ≤ n && n ≤ 64 && leField b 8 8 = e && segs.all (fun x => 1 ≤ x.1) && (segs.map (·.1)).sum = e &&
    sliceB b 0 (16 * (n + 1)) = segTable e segs then some segs else none

/-- The scale of the segment that holds an element. -/
def segScale : List (Nat × Int) → Nat → Int
  | [], _ => 0
  | (n, k) :: l, i => if i < n then k else segScale l (i - n)

/-- Byte offset of the codes of a step: behind the segment table of a fused buffer (R496). -/
def codesAt (d : RDesc) (segs : List (Nat × Int)) : Nat :=
  if rSegmented d then 64 * ((16 * (segs.length + 1) + 63) / 64) else 0

def enterL8 (segs : List (Nat × Int)) (i w : Nat) (p : Bool) : E56Entry :=
  let k := segScale segs i
  ⟨i, BitVec.ofNat 56 (encE56 k (valL8 k w)).1, p⟩

/-- Entries of dense codes (SRC_KIND 1). -/
def denseCodes (segs : List (Nat × Int)) (bs : List PByte) : List E56Entry :=
  (List.range bs.length).map (fun i => enterL8 segs i ((bs.getD i (0, false)).1.toNat) (bs.getD i (0, false)).2)

/-- Entries of an index array and its codes (SRC_KIND 2), if the indices rise strictly below E (R356, R495). -/
def sparseCodes (e k : Nat) (segs : List (Nat × Int)) (idx codes : List PByte) : Option (List E56Entry) :=
  let at' := fun (i : Nat) => (idx.drop (8 * i)).take 8
  let is := (List.range k).map (fun i => leNat (plain (at' i)))
  if is.all (· < e) && (is.zip (is.drop 1)).all (fun x => x.1 < x.2) then
    some ((List.range k).map (fun i =>
      let c := codes.getD i (0, false)
      enterL8 segs (is.getD i 0) c.1.toNat (c.2 || anyMark (at' i))))
  else none

/-- Number of 64 KiB chunks of a span. -/
def spanChunks (n : Nat) : Nat := (n + 0xFFFF) / 0x10000

/-- Bytes of stream `j` of a chunked source. -/
def streamAt (bs : List PByte) (j : Nat) : List PByte := (bs.drop (j * 0x10000)).take 0x10000

/-- The streams of SRC_KIND 0 obey R495: right modes and scale, each block following the one before, covering E. -/
def streamsOk (e scale : Nat) (bs : List PByte) : Nat → Nat → Nat → Bool
  | 0, _, got => got = e
  | n + 1, j, got =>
    let b := plain (streamAt bs j)
    match hdrOf b b.length with
    | none => false
    | some h =>
      (h.mode = 1 || h.mode = 3 || (h.mode = 0 && !h.flags.testBit 1)) && h.scale = scale && curlewFirst h b j = got &&
        got + h.count ≤ e && streamsOk e scale bs n (j + 1) (got + h.count)

/-- The member's own streams with the padding of each chunk cut off. -/
def ownStreams (bs : List PByte) : List (List PByte) :=
  (List.range (spanChunks bs.length)).map (fun j =>
    let b := streamAt bs j
    match hdrOf (plain b) b.length with
    | some h => b.take (36 + h.plen)
    | none => b)

/-- A step's own contribution: what it counts, its entries, and the condition of its streams (R521). -/
structure Contribution where
  count : Nat
  entries : List E56Entry
  cond : Nat × Nat := (0, 0)

/-- Decode own streams as an expander would (R508), with the condition they bring; a damaged one contributes nothing
(R522). -/
def decodeStreams (s : State) (l : List (List PByte)) : List E56Entry × (Nat × Nat) :=
  let rs := (List.range l.length).map (fun j =>
    let b := l.getD j []
    curlewChunk (slotImage s (leField (plain b) 4 1)) b j)
  (rs.flatMap (fun r => match r.data with
    | .good es _ _ => es
    | .bad _ _ => []),
   rs.foldl (fun acc r => worseStatus acc (chunkStatus r.poisoned (match r.data with
    | .good _ _ _ => none
    | .bad d _ => some d))) (0, 0))

/-- A local refusal (R497): code and detail. -/
abbrev Refused := Byte × Nat

/-- The member's own contribution, or the local refusal: ranges, then fenced memory, then contents. -/
def contribution (s : State) (st : StepState) : State × (Refused ⊕ (List (Nat × Int) × Contribution)) :=
  let d := stepDesc st
  let whole := [(d.count, sgn 8 d.scale)]
  let chk := fun (f n : Nat) (w : Bool) => let c := relCheck s st f n w; if c = stProtection then some (c, rdRange) else
    if c != stOk then some (c, 0) else none
  let headLen := if rSegmented d then 16 else 0
  match chk d.dst (stepNeeds d) true with
  | some r => (s, .inl r)
  | none =>
  match chk d.src headLen false with
  | some r => (s, .inl r)
  | none =>
    let nseg := if rSegmented d then leField (plain (relRead s st d.src 0 16).1) 0 1 else 0
    let tblLen := if rSegmented d then 16 * (nseg + 1) else 0
    match chk d.src tblLen false with
    | some r => (s, .inl r)
    | none =>
      let tb := relRead s st d.src 0 tblLen
      let s := tb.2
      let segs? := if rSegmented d then readSegs (plain tb.1) d.count else some whole
      match segs? with
      | none => (s, .inl (stUnsupported, rdShape))
      | some segs =>
        let at' := codesAt d segs
        let n := if d.kind = 1 then d.count else d.aux
        match chk d.src (at' + n) false, (if d.kind = 2 then chk d.src2 (8 * d.aux) false else none) with
        | some r, _ => (s, .inl r)
        | none, some r => (s, .inl r)
        | none, none =>
          let r := relRead s st d.src at' n
          let dirty := anyMark tb.1
          let mark := fun (l : List E56Entry) => l.map (fun x => { x with poison := x.poison || dirty })
          if d.kind = 1 then (r.2, .inr (segs, ⟨d.count, mark (denseCodes segs r.1), (0, 0)⟩))
          else if d.kind = 2 then
            let r2 := relRead r.2 st d.src2 0 (8 * d.aux)
            match sparseCodes d.count d.aux segs r2.1 r.1 with
            | none => (r2.2, .inl (stUnsupported, rdShape))
            | some es => (r2.2, .inr (segs, ⟨d.aux, mark es, (0, 0)⟩))
          else if !(streamsOk d.count d.scale r.1 (spanChunks d.aux) 0 0) then (r.2, .inl (stUnsupported, rdShape))
          else
            let x := decodeStreams r.2 (ownStreams r.1)
            (r.2, .inr (segs, ⟨d.count, x.1, x.2⟩))

/-! ## Completion (R523, R525, R533) -/

def getStep (s : State) (g : Nat) : Option StepState := (getGrp s g).step
def modStep (s : State) (g : Nat) (f : StepState → StepState) : State :=
  modGrp s g (fun x => { x with step := x.step.map f })

/-- The 16 B completion record (R525). -/
def relayRecord (g : Nat) (code : Byte) (detail epoch step : Nat) : List Byte :=
  [code, BitVec.ofNat 8 g] ++ leBytes 2 detail ++ leBytes 2 epoch ++ [0, 0] ++ leBytes 4 step ++ leBytes 4 0

/-- Complete a step's descriptor. -/
def completeStep (s : State) (g tag compl step : Nat) (code : Byte) (detail : Nat) : State :=
  let e := (getGrp s g).epoch.toNat
  completePost s tag compl (relayRecord g code detail e step)
    { code := code, detail := detail, object := g, value := step + e * 2 ^ 32 }

/-- Complete a CREATE, REFORM or DISSOLVE, or a STEP refused before it has a number. -/
def completeCmd (s : State) (g tag : Nat) (code : Byte) (detail : Nat) : State :=
  match mget s.ctxs tag with
  | none => s
  | some x =>
    let d := rDesc (ctxDesc s x).1
    let e := (getGrp s g).epoch.toNat
    completePost s tag d.compl (relayRecord g code detail e 0)
      { code := code, detail := detail, object := g, value := e * 2 ^ 32 }

/-- Count a step that has ended on this chip, and capture a failure (R532, R533). -/
def countStep (s : State) (g : Nat) (code : Byte) (detail number : Nat) : State :=
  let s := if code = stOk then bump s .relay 0 else pulseIrq (bump s .relay 1) .relay 4
  let s := bump (bump s .relay 11 (bit01 (code = stPoison))) .relay 12 (bit01 (code = stDamaged))
  captureError s .relay code detail (grpInfo s g) number

/-- A STEP is refused before it has a number: it ends as a failed step of this chip (R497, R533). -/
def refuseStep (s : State) (g tag : Nat) (code : Byte) (detail : Nat) : State :=
  countStep (completeCmd s g tag code detail) g code detail 0

/-- A posted step that never started ends with a code. -/
def endPosted (s : State) (g tag number : Nat) (code : Byte) (detail : Nat) : State :=
  match mget s.ctxs tag with
  | none => s
  | some y => countStep (completeStep s g tag (rDesc (ctxDesc s y).1).compl number code detail) g code detail number

/-- The step of a group ends on this chip with a code: local refusals outrank FENCED, and both outrank the status the
whole group sees (R523). -/
def endStep (s : State) (g : Nat) (code : Byte) (detail : Nat) : State :=
  match getStep s g with
  | none => s
  | some st =>
    let r : Byte × Nat := match st.refused with
      | some (c, d) => (BitVec.ofNat 8 c, d)
      | none => if st.stageFenced then (stFenced, 0) else (code, detail)
    let d := stepDesc st
    let s := match st.tag with
      | some t => completeStep s g t d.compl st.number r.1 r.2
      | none => s
    let s := countStep s g r.1 r.2 st.number
    modGrp s g (fun x => { x with step := none, lastEnded := st.number, st := if x.st = .active then .ready else x.st })

/-! ## Results (R510, R511) -/

/-- One finished word as it is written to DST; binary32 is a read-out (R60, R63, R511). -/
def outWord (d : RDesc) (segs : List (Nat × Int)) (x : E56Entry) : List Byte :=
  if rOut32 d then leBytes 4 (encFloat binary32 true (valE56 (segScale segs x.idx) x.word.toNat)).bits
  else wordBytes x.word

/-- Write to DST unless it, or the staging core, is fenced now (R523). -/
def writeDst (s : State) (g : Nat) (st : StepState) (off : Nat) (bs : List PByte) : State :=
  let d := stepDesc st
  if st.refused.isSome || st.stageFenced then s
  else if relCheck s st d.dst (off + bs.length) true = stOk then relWrite s st d.dst off bs
  else modStep s g (fun x => { x with stageFenced := true })

/-- Write some finished entries behind the 128 B header; sparse ones follow the `k` records already written. -/
def writeEntries (s : State) (g : Nat) (k : Nat) (es : List E56Entry) : State :=
  match getStep s g with
  | none => s
  | some st =>
    let d := stepDesc st
    if st.dense then
      match es with
      | [] => s
      | x :: _ => writeDst s g st (128 + outWidth d * x.idx) (es.flatMap (fun x => withMark x.poison (outWord d st.segments x)))
    else writeDst s g st (128 + 16 * k) (es.flatMap (fun x =>
      withMark x.poison (leBytes 8 x.idx ++ sliceB (outWord d st.segments x) 0 8)))

/-- The 128 B result header. -/
def writeHeader (s : State) (g : Nat) (count : Nat) : State :=
  match getStep s g with
  | none => s
  | some st =>
    writeDst s g st 0 (withMark false
      (leBytes 8 count ++ leBytes 8 st.total ++ [BitVec.ofNat 8 (bit01 st.dense), BitVec.ofNat 8 st.segments.length] ++
        leBytes 2 (getGrp s g).epoch.toNat ++ leBytes 4 st.number ++ List.replicate 8 0 ++
        sliceB (st.nextScale.map (fun i => BitVec.ofInt 8 i)) 0 64 ++ List.replicate 32 0))

/-! ## Scales (R512) -/

/-- ceil(log2 n) of a positive integer. -/
def ceilLog2 (n : Nat) : Nat := if 2 ^ Nat.log2 n = n then Nat.log2 n else Nat.log2 n + 1

/-- The next scale of a segment, and whether it was clamped. -/
def nextScaleOf (scale : Int) (l : List E56Entry) : Int × Bool :=
  let n := (l.map (fun x => if x.word.toNat = e56Nar then 0 else (sgn 56 x.word.toNat).natAbs)).foldl max 0
  if n = 0 then (scale, false)
  else
    let v : Int := (ceilLog2 n : Int) + scale - 47
    if v < -100 then (-100, true) else if 100 < v then (100, true) else (v, false)

/-- Next scales of the segments, from element `i` on. -/
def nextScales : List (Nat × Int) → Nat → List E56Entry → List (Int × Bool)
  | [], _, _ => []
  | (n, k) :: l, i, es => nextScaleOf k (es.filter (fun x => i ≤ x.idx && x.idx < i + n)) :: nextScales l (i + n) es

/-! ## Phases -/

/-- The queue of steps: complete one and let the next start. -/
def parentOf (s : State) (g : Nat) : Option Nat := (getGrp s g).parent

/-- A member completes the step on RELEASE, and passes it on (R520, R502). -/
def releaseStep (s : State) (g : Nat) : State :=
  match getStep s g with
  | none => s
  | some st =>
    let s := modGrp s g (fun x => { x with lastReleased := st.number })
    let s := endStep s g (BitVec.ofNat 8 st.status) st.detail
    sendDown s g rkRelease st.number []

/-- DONE goes up once the whole result is written and every child is done; at the root it turns into RELEASE. -/
def tryDone (s : State) (g : Nat) : State :=
  match getStep s g with
  | none => s
  | some st =>
    if st.ended && !st.doneSent && st.children.all (·.done) then
      let s := modStep s g (fun x => { x with doneSent := true, phase := .release })
      match parentOf s g with
      | some m => sendSingle s g m rkDone st.number []
      | none => releaseStep s g
    else s

/-- The end of the data phases on a member: the header is written and END goes on to the children. -/
def applyEnd (s : State) (g status detail count : Nat) (scales : List Int) (data : Bool) : State :=
  match getStep s g with
  | none => s
  | some st =>
    let own : Nat × Nat := (st.status, st.detail)
    let fin := if data && status = 0 then worseStatus own (status, detail) else (status, detail)
    let s := modStep s g (fun x => { x with status := fin.1, detail := fin.2, nextScale := scales, ended := true, phase := .done })
    let s := if data then writeHeader s g count else s
    let s := if data then modGrp s g (fun x => { x with nextScale := scales }) else s
    let s := bump s .relay 5 (bit01 (data && st.dense))
    let s := modGrp s g (fun x => { x with endStatus := some (fin.1, fin.2) })
    sendDown s g rkEnd st.number (endBytes status detail count scales)

/-- The root ends the step before phase 2 (R503, R523). -/
def failEarly (s : State) (g : Nat) (code : Byte) (detail : Nat) : State :=
  let s := applyEnd s g code.toNat detail 0 (getGrp s g).nextScale false
  if code = stTimeout then
    match getStep s g with
    | some _ => endStep s g code detail
    | none => s
  else tryDone s g

/-- Hand the credits of a link over to a chunk: queue its frames; each chunk waits for its own credit when it starts. -/
def queueChunks (s : State) (g m kind form number : Nat) (first : Nat) (curlew : Bool) (status detail : Nat)
    (chunks : List (List PByte)) : State :=
  let fs := (List.range chunks.length).flatMap (fun i =>
    chunkFrames s g m kind form number (first + i) curlew status detail (i + 1 = chunks.length) (chunks.getD i []))
  fs.foldl (fun s f => enqueue s (portFin m) f) s

/-- Status of the subtree of this member: its own poison and damage with its children's (R521, R522). -/
def noteStatus (s : State) (g : Nat) (x : Nat × Nat) : State :=
  modStep s g (fun st => let r := worseStatus (st.status, st.detail) x; { st with status := r.1, detail := r.2 })

/-- The children as their inputs are consumed: by port, or in ascending CHIP_ID where PHOTO_FINISH_ACTIVE was 1 at the start of
the step (R519); the sums are the same. -/
def inputOrder (s : State) (st : StepState) : List ChildState :=
  if st.fixedOrder then
    sortBy (fun a b => (getPort s (portFin a.port)).peerChip.toNat < (getPort s (portFin b.port)).peerChip.toNat) st.children
  else st.children

/-- The UP phase ends on this member: sums go to the parent, or the root finishes them (R505 to R507, R510, R512). -/
def finishUp (s : State) (g : Nat) : State :=
  match getStep s g with
  | none => s
  | some st =>
    let d := stepDesc st
    let m := mergeAll (st.own :: (inputOrder s st).map (·.entries))
    let s := bump s .relay 2 m.2
    let s := if m.1.any (·.poison) then noteStatus s g (5, 0) else s
    let st := (getStep s g).getD st
    let s := modStep s g (fun x => { x with upSent := true })
    match parentOf s g with
    | some p =>
      let s := modStep s g (fun x => { x with phase := .down })
      if st.children.isEmpty && d.kind = 0 then
        let l := ownStreams (relRead s st d.src 0 d.aux).1
        queueChunks s g p rkUp 0 st.number 0 true st.status st.detail l
      else
        let cnt := st.ownCount + (st.children.map (·.count)).sum
        let dense := st.elements < 8 * cnt
        queueChunks s g p rkUp (if dense then 1 else 2) st.number 0 false st.status st.detail (rawChunks dense st.elements m.1)
    | none =>
      let res := if st.dense then denseEntries st.elements 0 m.1 else sparseResult m.1
      let ks := nextScales st.segments 0 m.1
      let s := bump s .relay 6 (ks.filter (·.2)).length
      let s := modStep s g (fun x => { x with result := res, resultComplete := true, phase := .down })
      let s := writeEntries s g 0 res
      let cs := rawChunks st.dense st.elements res
      let s := (bitList (getGrp s g).childPorts.toNat 8).foldl (fun s c =>
        queueChunks s g c rkDown (if st.dense then 1 else 2) st.number 0 false 0 0 cs) s
      tryDone (applyEnd s g st.status st.detail res.length (ks.map (·.1)) true) g

/-- UP work of this member, once every child has delivered its stream. -/
def tryUp (s : State) (g : Nat) : State :=
  match getStep s g with
  | some st => if st.phase = .up && !st.upSent && st.children.all (·.finished) then finishUp s g else s
  | none => s

/-- COUNT work of this member, once every child has counted (R503, R504).  A member whose subtree's records differ tells its
parent by an ELEMENT_COUNT of 0, which no step has (DESIGN CHOICE, entry 95). -/
def tryCount (s : State) (g : Nat) : State :=
  match getStep s g with
  | none => s
  | some st =>
    if st.phase = .count && !st.countSent && st.children.all (·.counted) then
      let total := st.ownCount + (st.children.map (·.count)).sum
      let s := modStep s g (fun x => { x with countSent := true })
      match parentOf s g with
      | some p => sendSingle s g p rkCount st.number
          (countBytes total (if st.mismatch then 0 else st.elements) st.segCrc.toNat st.anyRefused false)
      | none =>
        if st.anyRefused then failEarly s g stUnsupported rdRefused
        else if st.mismatch then failEarly s g stUnsupported rdMismatch
        else
          let dense := st.elements < 8 * total
          let s := modStep s g (fun x => { x with total := total, dense := dense, phase := .up })
          let s := sendDown s g rkCount st.number (countBytes total st.elements st.segCrc.toNat false dense)
          tryUp s g
    else s

/-- A posted step starts on a READY group with no step active: local checks, own contribution, COUNT.
(DESIGN CHOICE, entry 95). -/
def beginStep (s : State) (g tag number : Nat) : State :=
  match mget s.ctxs tag with
  | none => s
  | some x =>
    let raw := ctxDesc s x
    let d := rDesc raw.1
    let st : StepState :=
      { number := number, tag := some tag, desc := BitVec.ofNat 512 (leNat raw.1), core := (ctxCore x).map (·.val),
        part := x.part, fixedOrder := s.pfActive, elements := d.count,
        children := (bitList (getGrp s g).childPorts.toNat 8).map (fun m => { port := m }) }
    let s := modGrp s g (fun y => { y with step := some st, st := .active, endStatus := none })
    let grp := getGrp s g
    let early : Option Refused :=
      if raw.2 then some (stPoison, 0)
      else if !ownsGroup s x.part g then some (stProtection, rdNotOwner)
      else if !stepShapeOk x d then some (stUnsupported, rdShape)
      else if d.cap < stepNeeds d then some (stUnsupported, rdCapacity)
      else if (getPage s (.core (coreFin (stageChip s grp)) 0)).fenced then some (stFenced, 0)
      else none
    let refuse := fun (s : State) (r : Refused) => modStep s g (fun x =>
      { x with refused := some (r.1.toNat, r.2), anyRefused := true, segments := [(d.count, sgn 8 d.scale)],
               segCrc := BitVec.ofNat 32 (crc32c (segTable d.count [(d.count, sgn 8 d.scale)])) })
    let s := match early with
      | some r => refuse s r
      | none =>
        let c := contribution s st
        match c.2 with
        | .inl r => refuse c.1 r
        | .inr (segs, own) =>
          let s := modStep c.1 g (fun x => { x with
            segments := segs, segCrc := BitVec.ofNat 32 (crc32c (segTable d.count segs)), ownCount := own.count,
            own := own.entries })
          noteStatus (if own.entries.any (·.poison) then noteStatus s g (5, 0) else s) g own.cond
    tryCount s g

end Sys2Proof.Machine
end

