-- ==== Sys2Proof/Machine/RelayForm.lean ====
section
/-! DEFINITION. Forming, re-forming and ending Relay groups, the frames of a step, and the Relay commands (R489, R490,
R499 to R502, R514 to R518, R524, R526 to R531, R533). -/

namespace Sys2Proof.Machine

open Sys2Proof

/-! ## Ending a group -/

/-- The group ends on this chip: FAILED, with its step, the steps behind it and its commands completed by one code (R523,
R526, R527; DEDUCED for the steps behind it, entry 53). -/
def failGroup (s : State) (g : Nat) (code : Byte) (detail : Nat) : State :=
  let s := pulseIrq (modGrp s g (fun x => { x with st := .failed })) .relay 3
  let x := getGrp s g
  let s := if x.step.isNone then captureError s .relay code detail (grpInfo s g) 0 else s
  let s := purgeGroup (endStep s g code detail) g
  let s := x.posted.foldl (fun s t => endPosted s g t.1 t.2 code detail) s
  let s := x.reformTags.foldl (fun s t => completeCmd s g t code detail) s
  modGrp s g (fun x => { x with posted := [], reformTags := [], links := [], st := .failed })

/-! ## READY -/

/-- Tree and credits of a group whose members agree; none where a member has fewer slots than tree links (R514). -/
def buildTree (s : State) (g : Nat) (members : BitVec 256) : Option State :=
  let x := getGrp s g
  let t := treeOf (isCube s) x.topos members (chipId s)
  let ports := t.children ++ t.parent.toList
  let n := linkSlots x.stageSize ports.length
  if ports.length != 0 && n = 0 then none
  else
    let s := modGrp s g (fun x => { x with
      st := .ready, members := members, lastReady := members, root := t.root, depth := t.depth, parent := t.parent,
      childPorts := BitVec.ofNat 8 ((t.children.map (2 ^ ·)).sum), attempts := 0, candidates := none, commits := [],
      links := ports.map (fun m => { port := m, slots := n, granted := n, leased := 0, received := 0, used := 0 }) })
    some ((getGrp s g).links.foldl (fun s l => sendCredit s g l) s)

/-- The code of the step that a re-form ends (R528): the END status where any survivor shows it released. -/
def reformedCode (x : RGroup) (n : Nat) : Byte × Nat :=
  if x.topos.any (fun r => r.lastReleased != noStep && n ≤ r.lastReleased) then
    match x.endStatus with
    | some (c, d) => (BitVec.ofNat 8 c, d)
    | none => (stReformed, 0)
  else (stReformed, 0)

/-- The group has re-formed: the active step ends on every survivor, and a survivor that has not reached it completes it
when it comes (R524, R528). -/
def finishReform (s : State) (g : Nat) : State :=
  let x := getGrp s g
  let act := (x.topos.filterMap (fun r => if r.activeStep = noStep then none else some r.activeStep)).foldl max 0
  let anyAct := x.topos.any (fun r => r.activeStep != noStep)
  let s := match x.step with
    | some st =>
      let r := reformedCode x st.number
      let s := if r.1 = stReformed then s else modGrp s g (fun y => { y with lastReleased := st.number })
      endStep s g r.1 r.2
    | none => s
  let later := anyAct && (x.step.map (·.number)) != some act
  let s := if later && (x.nextStep ≤ act || x.posted.any (fun t => t.2 = act)) then
      modGrp s g (fun y => { y with ended := y.ended ++ [(act, (reformedCode x act).1.toNat, (reformedCode x act).2)] })
    else s
  let s := pulseIrq (bump s .relay 9) .relay 2
  let s := x.reformTags.foldl (fun s t => completeCmd s g t stOk 0) s
  modGrp s g (fun y => { y with reformTags := [] })

/-- All COMMITs hold and agree: the group becomes READY (R500, R526 step 6). -/
def tryReady (s : State) (g : Nat) : State :=
  let x := getGrp s g
  match x.candidates with
  | none => s
  | some set =>
    if (setMembers set).all (fun c => x.commits.any (fun k => k.1 = c && k.2 = set)) then
      let forming := x.st = .forming
      match buildTree s g set with
      | none =>
        if forming then
          let s := x.creating.toList.foldl (fun s t => completeCmd s g t stUnsupported rdStaging) s
          setGrp s g {}
        else failGroup s g stUnsupported rdStaging
      | some s' =>
        if forming then
          let s' := x.creating.toList.foldl (fun s t => completeCmd s g t stOk 0) s'
          modGrp s' g (fun y => { y with creating := none })
        else finishReform (modGrp s' g (fun y => { y with st := if y.step.isSome then .active else .ready })) g
    else s

/-- Send COMMIT for a candidate set. -/
def sendCommit (s : State) (g : Nat) (set : BitVec 256) : State :=
  let s := sendRelayAll s g set 3 (leBytes 32 set.toNat)
  let s := modGrp s g (fun x => { x with
    candidates := some set, commits := (x.commits.filter (fun k => k.1 != chipId s)) ++ [(chipId s, set)] })
  tryReady s g

/-- CREATE: once every member's TOPO is held and they connect the whole set, this member commits (R500; DEDUCED, entry
54). -/
def tryCommit (s : State) (g : Nat) : State :=
  let x := getGrp s g
  if x.st = .forming && x.candidates.isNone then
    let all := (setMembers x.members).all (fun c => (topoOf x.topos c).isSome)
    let comp := component (isCube s) (x.topos.filter (fun r => inSet x.members r.chip)) (chipId s)
    if all && (setMembers x.members).all (fun c => comp.contains c) then sendCommit s g x.members else s
  else s

/-- Take this chip's TOPO and send it to a set. -/
def announce (s : State) (g : Nat) (set : BitVec 256) : State :=
  let t := ownTopo s g set
  let s := modGrp s g (fun x => { x with topos := (x.topos.filter (fun r => r.chip != t.chip)) ++ [t] })
  sendRelayAll s g set 2 (topoBytes t)

/-! ## Re-forming (R526, R527) -/

def reformLimit (s : State) : Nat := max 1 (regOf s .relay 0x060)

/-- Steps 1 and 2 of an attempt. -/
def beginAttempt (s : State) (g : Nat) (e : BitVec 16) : State :=
  let x := getGrp s g
  let s := modGrp (bump s .relay 10) g (fun y => { y with
    st := .reforming, epoch := e, attempts := y.attempts + 1, links := [], topos := [], commits := [], candidates := none })
  let s := sendRelayAll (purgeGroup s g) g x.lastReady 1 []
  announce s g x.lastReady

/-- An attempt has failed: another at a higher epoch, or the group ends (R527). -/
def nextAttempt (s : State) (g : Nat) (e : BitVec 16) : State :=
  if reformLimit s ≤ (getGrp s g).attempts then failGroup s g stLinkDown rdReformLimit else beginAttempt s g e

/-- A re-form starts on this chip, or an attempt moves to a higher epoch (R526). -/
def startReform (s : State) (g : Nat) (e : BitVec 16) : State :=
  match (getGrp s g).st with
  | .ready | .active => beginAttempt (pulseIrq (modGrp s g (fun x => { x with attempts := 0 })) .relay 1) g e
  | .reforming => nextAttempt s g e
  | _ => s

def reformUp (s : State) (g : Nat) : State := startReform s g ((getGrp s g).epoch + 1)

/-- More than half of the last READY set, or half with its lowest CHIP_ID (R526 step 4). -/
def quorum (last cand : BitVec 256) : Bool :=
  let l := setMembers last
  let n := (l.filter (inSet cand)).length
  l.length < 2 * n || (l.length = 2 * n && inSet cand (l.headD 0))

/-- FORM_WAIT ends for the first time: candidates, quorum, COMMIT (R526 steps 3 to 5). -/
def fixCandidates (s : State) (g : Nat) : State :=
  let x := getGrp s g
  let heard := x.topos.filter (fun r => inSet x.lastReady r.chip)
  let cand := setOf (component (isCube s) heard (chipId s))
  if quorum x.lastReady cand then sendCommit s g cand else failGroup s g stLinkDown rdNoQuorum

/-! ## Control messages -/

def frMsgGroup (f : Frame) : Nat := hb f 18 1
def frMsgEpoch (f : Frame) : BitVec 16 := BitVec.ofNat 16 (hb f 20 2)

/-- ABORT, TOPO or COMMIT at its group; none where it must wait for the group (DEDUCED, entry 55). -/
def applyRelayMsg (s : State) (f : Frame) : Option State :=
  let g := frMsgGroup f
  let msg := hb f 17 1
  let x := getGrp s g
  let e := frMsgEpoch f
  let len := if msg = 1 then 0 else if msg = 2 then 64 else 32
  if 63 < g || f.payload.length != len || (x.st = .failed && x.epoch ≤ e) then some s
  else if x.st = .free then (if msg = 1 then some s else none)
  else if e < x.epoch then some (bump s .relay 7)
  else if msg = 1 then
    if x.st = .forming then some s
    else if x.epoch < e && inSet x.lastReady (frSrc f) then some (startReform s g e) else some s
  else if x.epoch < e then none
  else if msg = 2 then
    if (x.st = .forming || x.st = .reforming) && x.candidates.isNone then
      some (tryCommit (modGrp s g (fun y => { y with
        topos := (y.topos.filter (fun r => r.chip != frSrc f)) ++ [topoRec f] })) g)
    else some s
  else
    let set := BitVec.ofNat 256 (leField f.payload 0 32)
    if x.st = .forming || x.st = .reforming then
      if x.st = .reforming && !inSet set (chipId s) then some (failGroup s g stLinkDown rdNoQuorum)
      else some (tryReady (modGrp s g (fun y => { y with
        commits := (y.commits.filter (fun k => k.1 != frSrc f)) ++ [(frSrc f, set)] })) g)
    else some s

/-! ## Single frames and credits of a step -/

/-- What a class C frame of this group meets: a step that is over, the step that runs, or one still to come. -/
inductive StepAge where
  | past | now | future
  deriving DecidableEq, Repr

def stepAge (x : RGroup) (n : Nat) : StepAge :=
  if (x.step.map (·.number)) = some n then .now
  else if x.nextStep ≤ n || x.posted.any (fun t => t.2 = n) then .future else .past

def isChild (x : RGroup) (m : Nat) : Bool := m < 8 && x.childPorts.toNat.testBit m

def modChild (s : State) (g m : Nat) (f : ChildState → ChildState) : State :=
  modStep s g (fun st => { st with children := st.children.map (fun c => if c.port = m then f c else c) })

/-- COUNT: from a child a subtree's record, from the parent the total and the representation (R503, R504). -/
def applyCount (s : State) (g m : Nat) (st : StepState) (f : Frame) : State :=
  let n := leField f.payload 0 8
  let flags := leField f.payload 20 1
  if isChild (getGrp s g) m then
    let diff := leField f.payload 8 8 != st.elements || leField f.payload 16 4 != st.segCrc.toNat
    let s := modChild s g m (fun c => { c with counted := true, count := n })
    tryCount (modStep s g (fun x => { x with
      mismatch := x.mismatch || diff, anyRefused := x.anyRefused || flags.testBit 0 })) g
  else if (getGrp s g).parent = some m && st.phase = .count then
    let s := modStep s g (fun x => { x with total := n, dense := flags.testBit 1, phase := .up })
    tryUp (sendDown s g rkCount st.number f.payload) g
  else s

/-- The codes that the root may end a step with (R503, R521, R523); an END with another STATUS is ignored (R12 to R14;
DESIGN CHOICE, entry 128). -/
def endCode (n : Nat) : Bool := [stOk, stDamaged, stPoison, stTimeout, stUnsupported].any (·.toNat = n)

/-- The scales END carries. -/
def endScales (f : Frame) (n : Nat) : List Int := (List.range n).map (fun i => sgn 8 (leField f.payload (16 + i) 1))

/-- A class C single frame or CREDIT at its group; none where it must wait (R515, R518, R520 to R524). -/
def applyRelayFrame (s : State) (m : Nat) (f : Frame) : Option State :=
  let g := frGroup f
  let x := getGrp s g
  let n := frStep f
  if x.st = .free then some s
  else if frEpoch f != x.epoch then some (bump s .relay 7)
  else if x.st = .failed then some s
  else if x.st = .forming || x.st = .reforming then none
  else if frKind f = 3 then
    some (modGrp s g (fun y => { y with links := y.links.map (fun l =>
      if l.port = m then { l with received := hb f 20 4 } else l) }))
  else
    let kind := frRelayKind f
    match stepAge x n, x.step with
    | .past, _ => some s
    | .future, _ =>
      if kind = rkEnd && x.nextStep ≤ n && x.parent = some m && endCode (leField f.payload 0 1) then
        let st := leField f.payload 0 1
        let d := leField f.payload 2 2
        some (sendDown (modGrp s g (fun y => { y with ended := y.ended ++ [(n, st, d)] })) g rkEnd n f.payload)
      else none
    | .now, none => some s
    | .now, some st =>
      if kind = rkCount then
        if f.payload.length = 32 then some (applyCount s g m st f) else some s
      else if kind = rkEnd then
        if f.payload.length != 80 || x.parent != some m || !endCode (leField f.payload 0 1) then some s
        else
          let code := leField f.payload 0 1
          let detail := leField f.payload 2 2
          let data := code = 0 || code = 1 || code = 5
          if data && !st.resultComplete then none
          else
            let scales := if data then endScales f st.segments.length else x.nextScale
            let s := applyEnd s g code detail (leField f.payload 8 8) scales data
            if code = 7 then some (endStep s g stTimeout detail) else some (tryDone s g)
      else if kind = rkDone then
        if isChild x m then some (tryDone (modChild s g m (fun c => { c with done := true })) g) else some s
      else if kind = rkRelease then
        if x.parent != some m then some s else if st.doneSent then some (releaseStep s g) else none
      else some s

/-! ## Work that becomes possible -/

/-- Apply a waiting frame of either class. -/
def applyEarly (s : State) (m : Nat) (f : Frame) : Option State :=
  if frClass f = 0 then applyRelayMsg s f else applyRelayFrame s m f

/-- The first waiting frame that now has its place, applied. -/
def firstEarly (s : State) (g : Nat) : List (Nat × Frame) → List (Nat × Frame) → Option State
  | _, [] => none
  | seen, (m, f) :: l =>
    let s' := modGrp s g (fun x => { x with early := seen ++ l })
    match applyEarly s' m f with
    | some r => some r
    | none => firstEarly s g (seen ++ [(m, f)]) l

/-- The next posted step starts when the group is READY (R502), unless the page is quiesced (R102) or the step stands behind a
DISSOLVE (R501); one the root has ended already completes at once (R524). -/
def startNext (s : State) (g : Nat) : Option State :=
  let x := getGrp s g
  match x.st, x.step, x.posted with
  | .ready, none, (tag, n) :: rest =>
    if quiesced (getPage s .relay) || x.dissolving.any (fun d => d.2 = n) then none
    else
    let s := modGrp s g (fun y => { y with posted := rest })
    match x.ended.find? (fun e => e.1 = n) with
    | some e =>
      let s := modGrp s g (fun y => { y with ended := y.ended.filter (fun e => e.1 != n), lastEnded := n })
      some (endPosted s g tag n (BitVec.ofNat 8 e.2.1) e.2.2)
    | none => some (beginStep s g tag n)
  | _, _, _ => none

/-- Steps and waiting frames of a group, until none can move. -/
def settleGrp : Nat → State → Nat → State
  | 0, s, _ => s
  | k + 1, s, g =>
    match startNext s g with
    | some r => settleGrp k r g
    | none => match firstEarly s g [] (getGrp s g).early with
      | some r => settleGrp k r g
      | none => s

def settle (s : State) (g : Nat) : State :=
  settleGrp ((getGrp s g).posted.length + (getGrp s g).early.length + 2) s g

/-- A single frame, CREDIT or control message reaches the Relay. -/
def relayInput (s : State) (g m : Nat) (f : Frame) : State :=
  match applyEarly s m f with
  | some r => settle r g
  | none => modGrp s g (fun x => { x with early := x.early ++ [(m, f)] })

/-! ## Chunks (R505, R510, R516 to R518, R522) -/

/-- The oldest chunk a port's expander has checked, if its frames are these, and the port without it. -/
def takeReady (s : State) (m : Fin 8) (fs : List Frame) : Option (ReadyChunk × State) :=
  match (getPort s m).readyChunks with
  | r :: rest => if r.frames = fs then some (r, modPort s m (fun p => { p with readyChunks := rest })) else none
  | [] => none

/-- What the Relay makes of a checked chunk. -/
def readyData (r : ReadyChunk) : ChunkData := r.damaged.elim (.good r.entries r.next 0) (fun d => .bad d 0)

/-- An UP chunk is added to what its child has sent (R505); a damaged one contributes nothing (R522). -/
def applyUp (s : State) (g m : Nat) (st : StepState) (r : ReadyChunk) : State :=
  let ends := chunkEnds r.frames st.elements (readyData r)
  let sub := r.frames.getLast?.elim (0, 0) (fun f => (frSubStatus f, frSubDetail f))
  let s := modChild s g m (fun c => { c with
    entries := if r.damaged.isSome then c.entries else c.entries ++ r.entries, finished := c.finished || ends })
  let s := noteStatus s g (chunkStatus r.poisoned r.damaged)
  tryUp (returnCredit (noteStatus (bump s .relay 4) g sub) g m) g

/-- A DOWN chunk is written to DST and passed on to the children (R510); in place of damaged dense words poisoned zeros go
on, and damaged records do not (DEDUCED, entry 52). -/
def applyDown (s : State) (g m : Nat) (st : StepState) (r : ReadyChunk) : State :=
  let ends := chunkEnds r.frames st.elements (readyData r)
  let chunk := r.frames.head?.elim 0 frChunk
  let es : List E56Entry := match readyData r with
    | .good es _ _ => es
    | .bad _ _ => if st.dense then
        (List.range (min 8192 (st.elements - 8192 * chunk))).map (fun i => ⟨8192 * chunk + i, 0, true⟩) else []
  let s := noteStatus s g (chunkStatus r.poisoned r.damaged)
  let s := writeEntries (bump s .relay 4) g st.result.length es
  let s := modStep s g (fun x => { x with result := x.result ++ es, resultComplete := x.resultComplete || ends })
  let bytes := es.flatMap (if st.dense then denseRecord else sparseRecord)
  let s := if st.dense || !es.isEmpty || ends then
      (bitList (getGrp s g).childPorts.toNat 8).foldl (fun s c =>
        queueChunks s g c rkDown (if st.dense then 1 else 2) st.number chunk false 0 0 [bytes]) s
    else s
  returnCredit s g m

/-- A checked chunk reaches the Relay (R369, R518): the oldest of its port, of the row's RELAY_KIND; one the step has no use
for goes, and its slot is granted again. -/
def consumeChunk (s : State) (m : Fin 8) (kind : Nat) (fs : List Frame) : State :=
  match fs.head?, takeReady s m fs with
  | some f, some (r, s') =>
    let g := frGroup f
    let x := getGrp s g
    if frRelayKind f != kind then s
    else if x.st = .free then s'
    else if frEpoch f != x.epoch then bump s' .relay 7 fs.length
    else match x.st, x.step with
      | .active, some st =>
        if st.number = frStep f && kind = rkUp && isChild x m.val && (st.phase = .up || st.phase = .count) then
          settle (applyUp s' g m.val st r) g
        else if st.number = frStep f && kind = rkDown && x.parent = some m.val && (st.phase = .down || st.phase = .up) then
          settle (applyDown s' g m.val st r) g
        else returnCredit s' g m.val
      | _, _ => returnCredit s' g m.val
  | _, _ => s

/-- UP (R505). -/
def execUp (m : Fin 8) (chunk : List Frame) (s : State) : Res := .next (consumeChunk s m rkUp chunk)

/-- DOWN (R510). -/
def execDown (m : Fin 8) (chunk : List Frame) (s : State) : Res := .next (consumeChunk s m rkDown chunk)

/-- A frame was accepted behind a chunk that the port's expander has not checked: a refusal of the chunk would take it back
(R409, R411). -/
def behindChunk (s : State) (m : Fin 8) (f : Frame) : Bool :=
  match (getPort s m).held.flatMap (·.frames) ++ replayHeld s m with
  | g :: _ => (frSeq f - frSeq g).toNat < 0x8000
  | [] => false

/-- A class C single frame for this chip leaves the receive buffer for the Relay when its RELAY_KIND is the row's. -/
def singleInput (s : State) (m : Fin 8) (kind : Nat) (f : Frame) : State :=
  if frKind f = 0 && frClass f = 2 && frDst f = chipId s && frRelayKind f = kind && !behindChunk s m f then relayInput (takeHead s m 2 f) (frGroup f) m.val f else s

/-- COUNT (R503). -/
def execCount (m : Fin 8) (f : Frame) (s : State) : Res := .next (singleInput s m rkCount f)
/-- END (R521). -/
def execEndFrame (m : Fin 8) (f : Frame) (s : State) : Res := .next (singleInput s m rkEnd f)
/-- DONE (R502). -/
def execDoneFrame (m : Fin 8) (f : Frame) (s : State) : Res := .next (singleInput s m rkDone f)
/-- RELEASE (R520). -/
def execRelease (m : Fin 8) (f : Frame) (s : State) : Res := .next (singleInput s m rkRelease f)

/-- A class M message of the Relay for this chip leaves the receive buffer when its MSG is the row's. -/
def msgInput (s : State) (m : Fin 8) (msg : Nat) (f : Frame) : State :=
  if frKind f = 0 && frClass f = 0 && frDst f = chipId s && hb f 16 1 = 3 && hb f 17 1 = msg then
    relayInput (takeHead s m 0 f) (frMsgGroup f) m.val f else s

/-- ABORT (R526). -/
def execAbort (m : Fin 8) (f : Frame) (s : State) : Res := .next (msgInput s m 1 f)
/-- TOPO (R526). -/
def execTopo (m : Fin 8) (f : Frame) (s : State) : Res := .next (msgInput s m 2 f)
/-- COMMIT (R526). -/
def execCommit (m : Fin 8) (f : Frame) (s : State) : Res := .next (msgInput s m 3 f)

/-! ## Timers -/

/-- FORM_WAIT (R526): the first time the candidates are fixed, the second time the attempt has failed. -/
def execFormWait (g : Fin 64) (s : State) : Res :=
  .next (let x := getGrp s g
    if x.st != .reforming then s
    else settle (if x.candidates.isNone then fixCandidates s g else nextAttempt s g (x.epoch + 1)) g)

/-- CREATE_WAIT (R500). -/
def execCreateWait (g : Fin 64) (s : State) : Res :=
  .next (let x := getGrp s g
    if x.st != .forming then s
    else setGrp (x.creating.toList.foldl (fun s t => completeCmd s g t stTimeout rdCreateWait) s) g {})

/-- STEP_WAIT (R523): the root ends the step whose COUNTs it does not hold. -/
def execStepWait (g : Fin 64) (s : State) : Res :=
  .next (match getStep s g with
    | some st =>
      if (getGrp s g).st = .active && st.phase = .count && (parentOf s g).isNone then
        settle (failEarly s g stTimeout rdStepWait) g else s
    | none => s)

/-- LEASE_EXPIRY (R516, R517): leases of the neighbour at a port run in phases 2 to 6; their expiry starts a re-form, which
reclaims the slots. -/
def execLeaseExpiry (g : Fin 64) (m : Fin 8) (s : State) : Res :=
  .next (let x := getGrp s g
    match x.st, x.step, x.links.find? (fun l => l.port = m.val) with
    | .active, some st, some l =>
      if st.phase = .count then s else settle (reformUp (bump s .relay 8 l.slots) g) g
    | _, _, _ => s)

/-! ## Links and units the groups use -/

/-- A port has left UP: groups whose tree uses it re-form, and a group still forming tells its members (R414, R526). -/
def relayPortChange (s : State) (m : Nat) : State :=
  (List.range 64).foldl (fun s g =>
    let x := getGrp s g
    match x.st with
    | .ready | .active =>
      if !isUp s m && (isChild x m || x.parent = some m) then settle (reformUp s g) g else s
    | .forming => if x.candidates.isNone then settle (tryCommit (announce s g x.members) g) g else s
    | _ => s) s

/-- The staging core of groups is fenced: each ends on this chip, and the other members re-form (R523, R526, R527). -/
def relayCoreFenced (s : State) (c : Nat) : State :=
  (List.range 64).foldl (fun s g =>
    let x := getGrp s g
    match x.st with
    | .free | .failed => s
    | .forming =>
      if stageChip s x = c then setGrp (x.creating.toList.foldl (fun s t => completeCmd s g t stFenced 0) s) g {} else s
    | _ =>
      if stageChip s x = c then
        let s := modGrp s g (fun y => { y with epoch := y.epoch + 1 })
        failGroup (sendRelayAll s g x.lastReady 1 []) g stFenced 0
      else s) s

/-- A range of an active step lies on a stack. -/
def stepOnStack (s : State) (st : StepState) (k : Nat) : Bool :=
  let d := stepDesc st
  let on := fun (f n : Nat) => fieldSpace f = 1 && (granules 512 (fieldAddr f) n).any (fun g => (hbmLoc s st.part g.1).1 = k)
  on d.dst (stepNeeds d) || on d.src (if d.kind = 1 then d.count else d.aux) || (d.kind = 2 && on d.src2 (8 * d.aux))

/-- A stack is fenced: groups whose step uses it complete FENCED here and re-form (R523, R526). -/
def relayStackFenced (s : State) (k : Nat) : State :=
  (List.range 64).foldl (fun s g =>
    let x := getGrp s g
    match x.st, x.step with
    | .active, some st =>
      if stepOnStack s st k then settle (reformUp (modStep s g (fun y => { y with stageFenced := true })) g) g else s
    | _, _ => s) s

/-! ## The commands -/

/-- The Relay may take up a descriptor now: its page is not quiesced (R102). -/
def relayTake (s : State) (tag : Nat) : Option Ctx :=
  if quiesced (getPage s .relay) then none else pickUp s tag .relay

/-- The group table entry lies in a slice that is fenced (R93, R491, R652). -/
def groupFenced (s : State) (g : Nat) : Bool := cmFencedIn s (0x0440000 + g * 0x400) 0x400

/-- Nothing more starts on the group: it is FREE or FAILED (R491, R497). -/
def groupOver (s : State) (g : Nat) : Bool := (getGrp s g).st = .free || (getGrp s g).st = .failed

/-- What stands before every Relay descriptor: the slices in service, the Relay's own page, poison, and the group's owner (R93,
R103, R490, R494, R639).  A STEP whose own checks fail still takes part in a step of its group (R497). -/
def relayGate (s : State) (x : Ctx) (d : RDesc) (dirty : Bool) : Option (Byte × Nat) :=
  let g := d.group % 64
  let joins := d.op = 2 && !groupOver s g
  if fewSlices s then some (stFenced, 0)
  else if !(getPage s .relay).enable then some (stUnsupported, 0)
  else if dirty then some (stPoison, 0)
  else if 63 < d.group && !joins then some (stUnsupported, rdShape)
  else if !ownsGroup s x.part g && !joins then some (stProtection, rdNotOwner)
  else if groupFenced s g then some (stFenced, 0)
  else none

/-- REFORM and DISSOLVE use only bytes 0, 1 and COMPLETION. -/
def bareOk (x : Ctx) (d : RDesc) : Bool :=
  complOk x d.compl && d.kind = 0 && d.flags = 0 && d.scale = 0 && d.b5 = 0 && d.b67 = 0 && d.src = 0 && d.src2 = 0 &&
    d.dst = 0 && d.cap = 0 && d.count = 0 && d.aux = 0 && d.b54 = 0

/-- A Relay command is taken up: its context starts, and a refusal completes it at once. -/
def relayCmd (s : State) (tag : Nat) (op : Nat) (k : State → Ctx → RDesc → State) : State :=
  match relayTake s tag with
  | none => s
  | some x =>
    let raw := ctxDesc s x
    let d := rDesc raw.1
    let known := 1 ≤ d.op && d.op ≤ 4
    if known && d.op != op then s
    else
      let s := startCtx s tag
      match relayGate s x d raw.2 with
      | some r => (if op = 2 then refuseStep else completeCmd) s (d.group % 64) tag r.1 r.2
      | none => if !known then completeCmd s d.group tag stUnsupported rdShape else k s x d

/-- STEP (R497, R502): it takes the group's next number and its turn; a FREE or FAILED group refuses it. -/
def execRelayStep (tag : BitVec 12) (s : State) : Res :=
  .next (relayCmd s tag.toNat 2 (fun s _ d =>
    let g := d.group % 64
    if groupOver s g then refuseStep s g tag.toNat stUnsupported rdGroupState
    else
      settle (modGrp s g (fun y => { y with
        posted := y.posted ++ [(tag.toNat, y.nextStep)], nextStep := (y.nextStep + 1) % 2 ^ 32 })) g))

/-- The staging of a CREATE, in bytes. -/
def stageSizeOf (d : RDesc) : Nat := if d.dst = 0 then 0x80000 else d.dst

/-- The staging region fits the reserved region of its core and meets no other group's (R499). -/
def stagingOk (s : State) (x : Ctx) (d : RDesc) : Bool :=
  let n := stageSizeOf d
  let c := partBase s x.part + d.b5
  let r := spadResv s (coreFin c)
  d.b5 < partCount s x.part && n % 0x10000 = 0 && 0x40000 ≤ n && n ≤ 0x400000 && d.src2 + n ≤ r.2 - r.1 &&
    !(List.range 64).any (fun g => let y := getGrp s g
      g != d.group && y.st != .free && stageChip s y = c && y.stageOffset < d.src2 + n && d.src2 < y.stageOffset + y.stageSize)

/-- CREATE (R499, R500).  In order: shape, group state, member bitmap, staging (DEDUCED, entry 56). -/
def execRelayCreate (tag : BitVec 12) (s : State) : Res :=
  .next (relayCmd s tag.toNat 1 (fun s x d =>
    let g := d.group
    let refuse := fun (s : State) (c : Byte) (k : Nat) => completeCmd s g tag.toNat c k
    let core := (ctxCore x).map (·.val)
    let shape := complOk x d.compl && d.kind = 0 && d.flags = 0 && d.scale = 0 && d.cap = 0 && d.count = 0 && d.aux = 0 &&
      d.b54 = 0 && d.src2 < 2 ^ 24 && rSpaceOk core d.src
    if !shape then refuse s stUnsupported rdShape
    else if (getGrp s g).st != .free then refuse s stUnsupported rdGroupState
    else
      let chk := devCheck s (ctxCore x) x.part (fieldSpace d.src) (fieldAddr d.src) 32 false
      if chk = stProtection then refuse s stProtection rdRange
      else if chk != stOk then refuse s chk 0
      else
        let r := devRead s (ctxCore x) x.part (fieldSpace d.src) (fieldAddr d.src) 32
        let s := r.2
        let set := BitVec.ofNat 256 (leNat (plain r.1))
        if anyMark r.1 then refuse s stPoison 0
        else if !inSet set (chipId s) then refuse s stUnsupported rdShape
        else if !stagingOk s x d then refuse s stUnsupported rdStaging
        else if (getPage s (.core (coreFin (partBase s x.part + d.b5)) 0)).fenced then refuse s stFenced 0
        else
          let s := setGrp s g {
            st := .forming, members := set, epoch := BitVec.ofNat 16 d.b67, part := x.part,
            stageCore := d.b5, stageOffset := d.src2, stageSize := stageSizeOf d,
            lastReleased := noStep, nextScale := List.replicate 64 0, creating := some tag.toNat,
            early := (getGrp s g).early }
          settle (tryCommit (announce s g set) g) g))

/-- REFORM (R526): it completes when the re-form ends. -/
def execRelayReform (tag : BitVec 12) (s : State) : Res :=
  .next (relayCmd s tag.toNat 3 (fun s x d =>
    let g := d.group
    if !bareOk x d then completeCmd s g tag.toNat stUnsupported rdShape
    else match (getGrp s g).st with
      | .ready | .active | .reforming =>
        let was := (getGrp s g).st = .reforming
        let s := modGrp s g (fun y => { y with reformTags := y.reformTags ++ [tag.toNat] })
        if was then s else settle (reformUp s g) g
      | _ => completeCmd s g tag.toNat stUnsupported rdGroupState))

/-- The group is free of work that its DISSOLVE waits for: the steps posted before it have ended. -/
def dissolvable (x : RGroup) : Bool :=
  x.step.isNone && x.posted.head?.all (fun t => x.dissolving.any (fun d => d.2 = t.2)) && x.st != .forming && x.st != .reforming

/-- The group becomes FREE and its DISSOLVE completes (R501); the steps posted behind it meet a FREE group (R497). -/
def dissolveNow (s : State) (g : Nat) : State :=
  let x := getGrp s g
  if dissolvable x then
    match x.dissolving with
    | some t =>
      let s := completeCmd s g t.1 stOk 0
      setGrp (x.posted.foldl (fun s p => endPosted s g p.1 p.2 stUnsupported rdGroupState) s) g {}
    | none => s
  else s

/-- DISSOLVE (R501); a FREE group, or one with a DISSOLVE waiting, refuses it. -/
def execRelayDissolve (tag : BitVec 12) (s : State) : Res :=
  .next (relayCmd s tag.toNat 4 (fun s x d =>
    let g := d.group
    if !bareOk x d then completeCmd s g tag.toNat stUnsupported rdShape
    else if (getGrp s g).st = .free || (getGrp s g).dissolving.isSome then
      completeCmd s g tag.toNat stUnsupported rdGroupState
    else dissolveNow (modGrp s g (fun y => { y with dissolving := some (tag.toNat, y.nextStep) })) g))

/-- DISSOLVE_RELEASE (R501). -/
def execDissolveRelease (g : Fin 64) (s : State) : Res := .next (dissolveNow s g)

end Sys2Proof.Machine
end

