-- ==== Sys2Proof/Machine/Stork.lean ====
section
/-! DEFINITION. Stork: windows and their commands, operations and their frames at the initiator (R433 to R451, R454, R456,
R457, R463 to R467, R470 to R472, R480 to R484). -/

namespace Sys2Proof.Machine

open Sys2Proof

/-! ## Detail codes (R446) -/

def sdDomain : Nat := 0x01
def sdRights : Nat := 0x02
def sdRange : Nat := 0x03
def sdSealAuth : Nat := 0x04
def sdSealMismatch : Nat := 0x05
def sdNotOwner : Nat := 0x06
def sdWindowBusy : Nat := 0x07
def sdShape : Nat := 0x08
def sdBatchFailed : Nat := 0x09
def sdStallExpired : Nat := 0x0A
def sdStallFull : Nat := 0x0B
def sdResendExhausted : Nat := 0x0C
def sdNoRoute : Nat := 0x0D
def sdKeyEmpty : Nat := 0x0E
def sdQueue : Nat := 0x0F
def sdMode : Nat := 0x10
def sdNotValid : Nat := 0x11

/-! ## Tables and owners (R433, R436, R437) -/

def modStork (s : State) (f : Stork → Stork) : State := { s with stork := f s.stork }
def getWin (s : State) (w : Nat) : Window := mgetD s.stork.windows {} w
def setWin (s : State) (w : Nat) (x : Window) : State := modStork s (fun k => { k with windows := mputD k.windows {} w x })
def getQueue (s : State) (q : Nat) : BitVec 9 := mgetD s.stork.queues 0 q

def ownsWindow (s : State) (p w : Nat) : Bool := !isDay s || w / 16384 = p
def ownsDomain (s : State) (p d : Nat) : Bool := !isDay s || d / 64 = p
def ownsQueue (s : State) (p q : Nat) : Bool := !isDay s || q / 64 = p
def ownsKey (s : State) (p k : Nat) : Bool := k < 64 && (!isDay s || k / 16 = p)
/-- The partition that owns a window. -/
def winPart (s : State) (w : Nat) : Nat := if isDay s then w / 16384 else 0

/-- The slice that holds a table entry is fenced (R446). -/
def entryFenced (s : State) (a : Nat) : Bool := sliceFenced s (cmHome s (a / 64))
def winFenced (s : State) (w : Nat) : Bool := entryFenced s (0x200000 + 32 * w)
def queueFenced (s : State) (q : Nat) : Bool := entryFenced s (0x400000 + 8 * q)

/-! ## Descriptors (R438, R443) -/

structure SDesc where
  op : Nat
  flags : Nat
  queue : Nat
  key : Nat          -- KEY_SLOT
  chip : Nat
  b5 : Nat
  gen : Nat
  window : Nat
  b10 : Nat
  off : Nat          -- OFFSET, BASE or PAGE
  len : Nat
  loc : Nat          -- LOCAL; in a command DOMAIN, RIGHTS, MODE, KEY_SLOT and four zero bytes
  value : Nat        -- FLAG_VALUE or PAGE_MAP
  compl : Nat
  b56 : Nat
  deriving DecidableEq, Repr

def sDesc (b : List Byte) : SDesc :=
  ⟨leField b 0 1, leField b 1 1, leField b 2 1, leField b 3 1, leField b 4 1, leField b 5 1, leField b 6 2, leField b 8 2,
    leField b 10 6, leField b 16 8, leField b 24 8, leField b 32 8, leField b 40 8, leField b 48 8, leField b 56 8⟩

def opDesc (o : StorkOp) : SDesc := sDesc (leBytes 64 o.desc.toNat)

def cDomain (d : SDesc) : Nat := bitsOf d.loc 7 0
def cRights (d : SDesc) : Nat := bitsOf d.loc 15 8
def cMode (d : SDesc) : Nat := bitsOf d.loc 23 16
def cKey (d : SDesc) : Nat := bitsOf d.loc 31 24
def cRest (d : SDesc) : Nat := bitsOf d.loc 63 32

/-- The engine may take up a descriptor now (R102). -/
def storkTake (s : State) (tag : Nat) : Option Ctx :=
  if quiesced (getPage s .stork) then none else pickUp s tag .stork

/-- The 16 B completion record (R445). -/
def storkRecord (code : Byte) (detail window gen bytes : Nat) : List Byte :=
  [code, 0] ++ leBytes 2 detail ++ leBytes 2 window ++ leBytes 2 gen ++ leBytes 8 bytes

/-- Complete a descriptor of the Stork engine. -/
def storkEnd (s : State) (tag : Nat) (d : SDesc) (code : Byte) (detail gen bytes : Nat) : State :=
  completePost s tag d.compl (storkRecord code detail d.window gen bytes)
    { code := code, detail := detail, object := d.window, value := bytes % 2 ^ 32 + gen * 2 ^ 32 }

/-- Error information of the Stork page (R480). -/
def captureStork (s : State) (code : Byte) (detail tag window chip : Nat) : State :=
  captureError s .stork code detail (tag + window * 65536) chip

/-! ## Window commands (R438 to R442) -/

/-- A refused command: counted and captured on the Window table control page; PAGE_READY and PAGE_UNMAP count every completion
(R482). -/
def refuseCmd (s : State) (tag : Nat) (d : SDesc) (code : Byte) (detail : Nat) : State :=
  let g := if d.op = 0x12 then 0 else (getWin s d.window).generation.toNat
  let s := bump (storkEnd s tag d code detail g 0) .windows 5
  let s := if d.op = 0x13 then bump s .windows 3 else if d.op = 0x14 then bump s .windows 4 else s
  captureOpen1 s .windows code detail (if d.op = 0x12 then d.queue else d.window)

/-- The checks of R442 that name a window, in their order; the detail and code of the first that fails. -/
def windowCheck (s : State) (x : Ctx) (d : SDesc) (shape paged : Bool) : Option (Byte × Nat) :=
  let w := getWin s d.window
  if !ownsWindow s x.part d.window then some (stProtection, sdNotOwner)
  else if !shape then some (stUnsupported, sdShape)
  else if winFenced s d.window then some (stFenced, 0)
  else if !w.valid then some (stUnsupported, sdNotValid)
  else if paged && !w.paged then some (stUnsupported, sdMode)
  else if paged && w.length.toNat ≤ d.off * 0x200000 then some (stUnsupported, sdShape)
  else none

/-- Bytes no command uses. -/
def cmdRest (x : Ctx) (d : SDesc) : Bool :=
  d.flags = 0 && d.key = 0 && d.chip = 0 && d.b5 = 0 && d.gen = 0 && d.b10 = 0 && d.b56 = 0 && complOk x d.compl

/-- The zero fields of REVOKE, PAGE_READY and PAGE_UNMAP. -/
def winCmdShape (x : Ctx) (d : SDesc) : Bool :=
  cmdRest x d && d.queue = 0 && d.len = 0 && d.loc = 0 && d.value = 0 && (d.op != 0x11 || d.off = 0)

/-- OPEN's fields (R440 check 3). -/
def openShape (x : Ctx) (d : SDesc) : Bool :=
  let mode := cMode d
  let paged := mode.testBit 1
  cmdRest x d && d.queue = 0 && cRest d = 0 && cRights d != 0 && cRights d < 4 && mode < 16 && !mode.testBit 0 &&
    (mode.testBit 3 || cKey d = 0) && d.off < 2 ^ 48 && d.len < 2 ^ 48 && d.value < 2 ^ 48 &&
    (if paged then d.off = 0 && d.len % 0x200000 = 0 && d.value % 8 = 0
     else d.off % 64 = 0 && d.len % 64 = 0 && 64 ≤ d.len && d.value = 0)

/-- The range OPEN checks: the pinned memory, or the page map (R440 check 4). -/
def openInside (s : State) (x : Ctx) (d : SDesc) : Bool :=
  if (cMode d).testBit 1 then hbmInside s x.part d.value (8 * (d.len / 0x200000)) else hbmInside s x.part d.off d.len

/-! ## Sealing (R464 to R467) -/

/-- IV of the next frame a key slot seals (R465). -/
def sealIv (s : State) (slot : Nat) : List Byte :=
  [BitVec.ofNat 8 (chipId s), 0, 0, 0] ++ (leBytes 8 (mgetD s.stork.keyCtr 0 slot).toNat).reverse

/-- Additional data: DST_CHIP, SRC_CHIP and the CLIENT bytes. -/
def sealAad (f : Frame) : List Byte := leBytes 2 (hb f 8 2) ++ leBytes 16 (hb f 16 16)

/-- Seal a frame's payload under a slot; PAYLOAD_LENGTH follows. -/
def sealFrame (s : State) (slot : Nat) (f : Frame) : Frame × State :=
  let iv := sealIv s slot
  let r := gcmSeal ((mget s.stork.keys slot).getD 0) iv (sealAad f) f.payload
  let payload := iv ++ r.1 ++ r.2
  (setHb { f with payload := payload } 6 2 payload.length,
   bump (modStork s (fun k => { k with keyCtr := mmodD k.keyCtr 0 slot (· + 1) })) .keys 0)

/-- Verify a sealed payload under a slot: the plaintext, if it is right. -/
def openFrame (s : State) (slot : Nat) (f : Frame) : Option (List Byte) × State :=
  let n := f.payload.length
  let r := match mget s.stork.keys slot with
    | some k => if n < 28 then none else
        gcmOpen k (f.payload.take 12) (sealAad f) ((f.payload.drop 12).take (n - 28)) (f.payload.drop (n - 16))
    | none => none
  (r, bump s .keys (if r.isSome then 1 else 2))

/-! ## Frames (R447) -/

def skWrite : Nat := 1
def skReadReq : Nat := 2
def skReadData : Nat := 3
def skResponse : Nat := 4
def skFlag : Nat := 5

def frStorkKind (f : Frame) : Nat := hb f 16 1
def frReplayed (f : Frame) : Bool := (hb f 17 1).testBit 0
def frLastOfOp (f : Frame) : Bool := (hb f 17 1).testBit 1
def frAttempt (f : Frame) : Nat := hb f 17 1 / 4 % 4
def frSealed (f : Frame) : Bool := (hb f 17 1).testBit 4
def frDomain (f : Frame) : Nat := hb f 18 1
def frStatus (f : Frame) : Nat := hb f 19 1
def frWindow (f : Frame) : Nat := hb f 20 2
def frGen (f : Frame) : Nat := hb f 22 2
def frTag (f : Frame) : Nat := hb f 24 2 % 4096
def frOffset (f : Frame) : Nat := hb f 26 6

/-- CLIENT bytes of a Stork frame. -/
def storkClient (kind : Nat) (replayed last : Bool) (attempt : Nat) (sealed' : Bool) (domain status window gen tag off : Nat) :
    List Byte :=
  [BitVec.ofNat 8 kind, BitVec.ofNat 8 (bit01 replayed + 2 * bit01 last + 4 * (attempt % 4) + 16 * bit01 sealed'),
    BitVec.ofNat 8 domain, BitVec.ofNat 8 status] ++ leBytes 2 window ++ leBytes 2 gen ++ leBytes 2 tag ++ leBytes 6 off

/-- Send a Stork frame: to another chip by its route, to the own chip on the internal path.  A frame without a route is
lost (R422). -/
def sendStork (s : State) (f : Frame) : State :=
  if frDst f = chipId s then modStork s (fun k => { k with own := k.own ++ [f] }) else (originate s f).getD s

/-- Is there a way to a chip now (R471). -/
def hasRoute (s : State) (chip : Nat) : Bool := chip = chipId s || (egress s chip 0).isSome

/-! ## Operations (R443, R444, R446) -/

def isRead (d : SDesc) : Bool := d.op = 2
def isFlag (d : SDesc) : Bool := d.op = 3
def isSealed (d : SDesc) : Bool := d.flags.testBit 1
def isCurlew (d : SDesc) : Bool := d.flags.testBit 0

/-- Bytes an operation must see answered. -/
def opTotal (o : StorkOp) : Nat :=
  let d := opDesc o
  if isFlag d then 8 else if isRead d then d.len else o.data.length

def setOp (s : State) (tag : Nat) (f : StorkOp → StorkOp) : State :=
  modStork s (fun k => { k with ops := k.ops.map (fun o => if o.tag = tag then f o else o) })

def findOp (s : State) (tag : Nat) : Option StorkOp := s.stork.ops.find? (fun o => o.tag = tag)

/-- Place of a code in the table of R446, highest first. -/
def codeRank (c : Byte) : Nat :=
  let order : List Byte := [stProtection, stRevoked, stFenced, stPageMiss, stDamaged, stLinkDown, stTimeout, stUnsupported,
    stPoison, stSealedNoCompress, stOk]
  order.findIdx (· = c)

/-- Keep the higher-ranked failure of an operation. -/
def addFailure (o : StorkOp) (code : Byte) (detail : Nat) : StorkOp :=
  match o.failure with
  | some (c, _) => if codeRank code < codeRank (BitVec.ofNat 8 c) then { o with failure := some (code.toNat, detail) } else o
  | none => { o with failure := some (code.toNat, detail) }

/-- The code an operation completes with (R446, R454, R470). -/
def opCode (o : StorkOp) : Byte × Nat :=
  match o.failure with
  | some (c, d) => (BitVec.ofNat 8 c, d)
  | none => if o.poisoned then (stPoison, 0) else if o.noCompress then (stSealedNoCompress, 0) else (stOk, 0)

/-- An operation leaves the engine: completion, and the mark it leaves on its queue (R445, R446, R457). -/
def finishOp (s : State) (o : StorkOp) : State :=
  let d := opDesc o
  let r := opCode o
  let s := modStork s (fun k => { k with ops := k.ops.filter (fun x => x.tag != o.tag) })
  let s := if !isRead d && isFailure r.1 then noteFail s d.queue r.1.toNat o.order else s
  let s := captureStork s r.1 r.2 o.tag d.window d.chip
  bump (storkEnd s o.tag d r.1 r.2 o.generation o.counted) .stork 0

/-- Complete an operation that is over: every byte answered OK, or a failure with every byte sent covered (R450, R451). -/
def tryFinish (s : State) (tag : Nat) : State :=
  match findOp s tag with
  | none => s
  | some o =>
    if o.flagWaits then s
    else if o.failure.isSome then (if o.sent ≤ o.covered + (o.missed.map (·.len)).sum then finishOp s o else s)
    else if opTotal o ≤ o.counted then finishOp s o else s

/-- End an operation at once with a failure. (DEDUCED, entry 97). -/
def failOp (s : State) (tag : Nat) (code : Byte) (detail : Nat) : State :=
  match findOp s tag with
  | none => s
  | some o => finishOp s (addFailure o code detail)

/-- Most payload of one frame (R447). -/
def pieceMax (d : SDesc) : Nat := if isSealed d then 8164 else 8192

/-- One frame of an operation, for `n` bytes from position `i`. -/
def opFrame (s : State) (o : StorkOp) (i n : Nat) : Frame × State :=
  let d := opDesc o
  let piece := (o.data.drop i).take n
  let payload := if isFlag d then leBytes 8 d.value else if isRead d then leBytes 8 n else plain piece
  let last := opTotal o ≤ i + n
  let curlew := isCurlew d && !isSealed d
  let kind := if isFlag d then skFlag else if isRead d then skReadReq else skWrite
  let f := mkFrame s 0 1 d.chip (flagBits (anyMark piece) curlew last)
    (storkClient kind o.replayed last o.attempt (isSealed d) o.domain.toNat 0 d.window d.gen o.tag (d.off + i)) payload
  let s := if isRead d then s else bump s .stork 1 payload.length
  if isSealed d then sealFrame s d.key f else (f, s)

/-- Bytes one frame of an operation takes up of the window (R415, R448). -/
def stepBytes (o : StorkOp) : Nat :=
  let d := opDesc o
  min (if isRead d then 0x40000 else pieceMax d) (opTotal o - o.sent)

/-- Send the frames the 256 KiB window of R415 allows; nothing after a failure (R451). -/
def pumpOp : Nat → State → Nat → State
  | 0, s, _ => s
  | k + 1, s, tag =>
    match findOp s tag with
    | none => s
    | some o =>
      let n := stepBytes o
      if o.failure.isSome || o.flagWaits || o.awaitingRoute || n = 0 || 0x40000 < o.sent - o.covered + n then s
      else
        let r := opFrame s o o.sent n
        let s := setOp r.2 tag (fun o => { o with sent := o.sent + n, unanswered := o.unanswered ++ [⟨o.sent, n⟩] })
        pumpOp k (sendStork s r.1) tag

def pump (s : State) (tag : Nat) : State := pumpOp 2100 s tag

/-- Fields of an operation (R443, R444). -/
def opShape (s : State) (x : Ctx) (d : SDesc) : Bool :=
  d.flags < 4 && (isSealed d || d.key = 0) && d.b5 = 0 && d.b10 = 0 && d.b56 = 0 && d.off < 2 ^ 48 &&
    d.chip < systemSize s && complOk x d.compl && (!isCurlew d || d.op = 1) &&
    (if isFlag d then d.len = 8 && d.off % 8 = 0
     else fieldOk d.loc && 1 ≤ d.len && d.len ≤ 0x1000000 && (!isCurlew d || d.len ≤ 0x10000))

/-- The initiator's checks (R444, R446); a local fenced stack is FENCED. -/
def opCheck (s : State) (x : Ctx) (d : SDesc) : Option (Byte × Nat) :=
  let chk := if isFlag d then stOk
    else if 1 < fieldSpace d.loc then stProtection
    else devCheck s (ctxCore x) x.part (fieldSpace d.loc) (fieldAddr d.loc) d.len (isRead d)
  if !ownsQueue s x.part d.queue || !(getQueue s d.queue).toNat.testBit 8 then some (stProtection, sdQueue)
  else if isSealed d && !ownsKey s x.part d.key then some (stProtection, sdNotOwner)
  else if chk = stProtection then some (stProtection, sdRange)
  else if queueFenced s d.queue || chk = stFenced then some (stFenced, 0)
  else if !opShape s x d then some (stUnsupported, sdShape)
  else if isSealed d && (mget s.stork.keys d.key).isNone then some (stUnsupported, sdKeyEmpty)
  else none

/-- Dense elements of a decoded stream, as R468 writes them; none for LOWRANK. -/
def denseBytes (h : Hdr) (x : Decoded) : Option (List Byte) :=
  let w := if h.mode = 2 || (h.mode = 0 && h.flags.testBit 1) then 2 else 1
  if h.mode = 3 then none else some ((denseFrom h.count 0 x.elems).flatMap (leBytes w))

/-- Decode a Curlew write: the bytes to store, or code and detail (R468 to R470); poison outranks damage (R368). -/
def curlewWrite (t : SlotImage) (bs : List PByte) : Except (Byte × Nat) (List PByte) :=
  let z := decodeStream t bs
  let fail := fun (d : Nat) => if z.poisoned then (stPoison, 0) else (stDamaged, d)
  match z.hdr with
  | none => .error (fail 1)
  | some h =>
    if h.mode = 3 then .error (stUnsupported, sdMode)
    else if namesTable h && t.fenced then .error (stFenced, 0)
    else match z.out with
      | .error e => .error (fail e.1)
      | .ok x => match denseBytes h x with
        | some o => .ok (withMark (z.poisoned || anyMark bs) o)
        | none => .error (stUnsupported, sdMode)

/-- The data of a WRITE as it will be sent; a sealed Curlew write is decoded here (R470). -/
def writeSource (s : State) (x : Ctx) (d : SDesc) : State × Except (Byte × Nat) (List PByte) :=
  let r := devRead s (ctxCore x) x.part (fieldSpace d.loc) (fieldAddr d.loc) d.len
  if isCurlew d && isSealed d then (r.2, curlewWrite (slotImage r.2 (leField (plain r.1) 4 1)) r.1) else (r.2, .ok r.1)

/-- Take an operation into the engine. -/
def addOp (s : State) (tag : Nat) (x : Ctx) (d : SDesc) (data : List PByte) : State :=
  let raw := ctxDesc s x
  modStork s (fun k => { k with
    ops := k.ops ++ [{
      tag := tag, desc := BitVec.ofNat 512 (leNat raw.1), part := x.part, core := (ctxCore x).map (·.val),
      domain := BitVec.ofNat 8 (getQueue s d.queue).toNat, flagWaits := isFlag d, data := data,
      poisoned := anyMark data, noCompress := isCurlew d && isSealed d, order := k.nextOrder }],
    nextOrder := k.nextOrder + 1 })

/-- An operation that ends before it sends anything: it still counts as the queue's earlier operation (R457). -/
def refuseOp (s : State) (tag : Nat) (x : Ctx) (d : SDesc) (code : Byte) (detail : Nat) : State :=
  failOp (addOp s tag x d []) tag code detail

/-! ## The rows -/

/-- A descriptor that ends before its own checks: an operation, a window command, or one of an undefined OP. -/
def refuseDesc (s : State) (tag : Nat) (x : Ctx) (d : SDesc) (code : Byte) (detail : Nat) : State :=
  if 1 ≤ d.op && d.op ≤ 3 then refuseOp s tag x d code detail
  else if 0x10 ≤ d.op && d.op ≤ 0x14 then refuseCmd s tag d code detail
  else bump (storkEnd (captureStork s code detail tag d.window d.chip) tag d code detail 0 0) .stork 0

/-- A Stork descriptor is taken up for the rows of one OP; an undefined OP completes with SHAPE under any row.
With fewer than 5 slices in service every descriptor completes with FENCED (R639). -/
def storkCmd (s : State) (tag op : Nat) (k : State → Ctx → SDesc → State) : State :=
  match storkTake s tag with
  | none => s
  | some x =>
    let raw := ctxDesc s x
    let d := sDesc raw.1
    let known := (1 ≤ d.op && d.op ≤ 3) || (0x10 ≤ d.op && d.op ≤ 0x14)
    if known && d.op != op then s
    else
      let s := startCtx s tag
      if fewSlices s then refuseDesc s tag x d stFenced 0
      else if !(getPage s .stork).enable then refuseDesc s tag x d stUnsupported 0
      else if raw.2 then refuseDesc s tag x d stPoison 0
      else if !known then refuseDesc s tag x d stUnsupported sdShape
      else k s x d

/-- OPEN (R440, R441). -/
def execOpenWindow (tag : BitVec 12) (s : State) : Res :=
  .next (storkCmd s tag.toNat 0x10 (fun s x d =>
    let w := getWin s d.window
    let sealed' := (cMode d).testBit 3
    let refuse := refuseCmd s tag.toNat d
    if !(ownsWindow s x.part d.window && ownsDomain s x.part (cDomain d) && (!sealed' || ownsKey s x.part (cKey d))) then
      refuse stProtection sdNotOwner
    else if winFenced s d.window then refuse stFenced 0
    else if w.valid then refuse stUnsupported sdWindowBusy
    else if !openShape x d then refuse stUnsupported sdShape
    else if !openInside s x d then refuse stProtection sdRange
    else if sealed' && (mget s.stork.keys (cKey d)).isNone then refuse stUnsupported sdKeyEmpty
    else
      let m := cMode d
      let s := setWin s d.window { w with
        base := BitVec.ofNat 48 d.off, length := BitVec.ofNat 48 d.len, domain := BitVec.ofNat 8 (cDomain d),
        rights := BitVec.ofNat 2 (cRights d), valid := true, paged := m.testBit 1, resend := m.testBit 2,
        sealed := sealed', keySlot := BitVec.ofNat 8 (cKey d), pageMap := BitVec.ofNat 48 d.value }
      bump (storkEnd s tag.toNat d stOk 0 w.generation.toNat 0) .windows 0))

/-- BIND (R442, R487): a queue with no operation in flight takes a domain. -/
def execBindQueue (tag : BitVec 12) (s : State) : Res :=
  .next (storkCmd s tag.toNat 0x12 (fun s x d =>
    let refuse := refuseCmd s tag.toNat d
    let shape := cmdRest x d && d.window = 0 && d.off = 0 && d.len = 0 && d.value = 0 && cRights d = 0 && cMode d = 0 &&
      cKey d = 0 && cRest d = 0
    if !(ownsQueue s x.part d.queue && ownsDomain s x.part (cDomain d)) then refuse stProtection sdNotOwner
    else if !shape then refuse stUnsupported sdShape
    else if queueFenced s d.queue then refuse stFenced 0
    else if s.stork.ops.any (fun o => (opDesc o).queue = d.queue) then refuse stUnsupported sdShape
    else
      let s := modStork s (fun k => { k with queues := mputD k.queues 0 d.queue (BitVec.ofNat 9 (256 + cDomain d)) })
      bump (storkEnd s tag.toNat d stOk 0 0 0) .windows 2))

/-- PAGE_UNMAP (R460). -/
def execPageUnmap (tag : BitVec 12) (s : State) : Res :=
  .next (storkCmd s tag.toNat 0x14 (fun s x d =>
    match windowCheck s x d (winCmdShape x d) true with
    | some r => refuseCmd s tag.toNat d r.1 r.2
    | none =>
      let s := modStork s (fun k => { k with trans := k.trans.filter (fun t => !(t.1 = d.window && t.2.1 = d.off)) })
      bump (storkEnd s tag.toNat d stOk 0 (getWin s d.window).generation.toNat 0) .windows 4))

/-- WRITE (R443, R468, R470). -/
def execStorkWrite (tag : BitVec 12) (s : State) : Res :=
  .next (storkCmd s tag.toNat 1 (fun s x d =>
    match opCheck s x d with
    | some r => refuseOp s tag.toNat x d r.1 r.2
    | none =>
      let r := writeSource s x d
      match r.2 with
      | .error e => refuseOp r.1 tag.toNat x d e.1 e.2
      | .ok data => pump (addOp r.1 tag.toNat x d data) tag.toNat))

/-- READ (R448). -/
def execStorkRead (tag : BitVec 12) (s : State) : Res :=
  .next (storkCmd s tag.toNat 2 (fun s x d =>
    match opCheck s x d with
    | some r => refuseOp s tag.toNat x d r.1 r.2
    | none => pump (addOp s tag.toNat x d []) tag.toNat))

/-- FLAG (R456): it waits for FLAG_SEND. -/
def execStorkFlag (tag : BitVec 12) (s : State) : Res :=
  .next (storkCmd s tag.toNat 3 (fun s x d =>
    match opCheck s x d with
    | some r => refuseOp s tag.toNat x d r.1 r.2
    | none => addOp s tag.toNat x d []))

/-- FLAG_SEND (R456, R457): once every earlier WRITE and FLAG of the queue has completed. -/
def execFlagSend (tag : BitVec 12) (s : State) : Res :=
  .next (match findOp s tag.toNat with
    | none => s
    | some o =>
      let q := (opDesc o).queue
      let earlier := s.stork.ops.any (fun x => x.order < o.order && (opDesc x).queue = q && !isRead (opDesc x))
      if !o.flagWaits || earlier then s
      else
        let s := setOp s o.tag (fun o => { o with flagWaits := false })
        match s.stork.fails.find? (fun f => f.queue = q && f.order < o.order) with
        | some f => failOp s o.tag (BitVec.ofNat 8 f.code) sdBatchFailed
        | none => pump s o.tag)

/-! ## Answers at the initiator (R450, R451, R454, R463, R467) -/

/-- The operation a frame answers: of this tag, toward the chip it comes from, in the current attempt. -/
def answered (s : State) (f : Frame) : Option StorkOp :=
  (findOp s (frTag f)).bind (fun o =>
    if (opDesc o).chip = frSrc f && o.attempt = frAttempt f && !o.flagWaits then some o else none)

/-- The first `n` bytes of a list of ranges, and the rest. -/
def frontRanges : Nat → List Range → List Range × List Range
  | _, [] => ([], [])
  | n, r :: l =>
    if n = 0 then ([], r :: l)
    else if n < r.len then ([⟨r.start, n⟩], ⟨r.start + n, r.len - n⟩ :: l)
    else let x := frontRanges (n - r.len) l; (r :: x.1, x.2)

/-- Ranges without the bytes from `i` to `i + n - 1`. -/
def cutRanges (i n : Nat) (l : List Range) : List Range :=
  (l.flatMap (fun r => if i + n ≤ r.start ∨ r.start + r.len ≤ i then [r]
    else [⟨r.start, i - r.start⟩, ⟨i + n, r.start + r.len - (i + n)⟩])).filter (fun r => r.len != 0)

/-- What a target answers with (R452, R462, R463, R468, R469); a RESPONSE with another STATUS is discarded (R12 to R14; DESIGN
CHOICE, entry 128). -/
def targetStatus (c : Byte) : Bool :=
  [stOk, stProtection, stRevoked, stFenced, stPageMiss, stDamaged, stUnsupported, stPoison].any (· = c)

/-- The detail codes that R446 gives a target's failure. -/
def targetDetails (sealed' : Bool) (c : Byte) : List Nat :=
  if c = stProtection then [sdDomain, sdRights, sdRange, sdSealMismatch] ++ (if sealed' then [sdSealAuth] else [])
  else if c = stPageMiss then [sdStallExpired, sdStallFull]
  else if c = stDamaged then [1, 2, 3, 4, 5, 6]
  else if c = stUnsupported then [sdMode]
  else [0]

/-- The detail of a failure that a RESPONSE reports: where R446 gives several, which of them is free (DESIGN CHOICE,
entry 96). -/
def answerDetail (sealed' : Bool) (c : Byte) (f : Frame) : Nat :=
  let l := targetDetails sealed' c
  l.getD ((Config.responseDetail f.hdr).toNat % l.length) 0

/-- Take a frame of this unit's path off its queue. -/
def takeArrival (s : State) (a : Arrival) (f : Frame) : State :=
  match a with
  | .port m => takeHead s m 1 f
  | .own => match s.stork.own with
    | g :: rest => if g = f then modStork s (fun k => { k with own := rest }) else s
    | [] => s

/-- A class B DATA frame of one STORK_KIND. -/
def isStork (f : Frame) (kind : Nat) : Bool := frKind f = 0 && frClass f = 1 && frStorkKind f = kind

/-- Effect of a RESPONSE on its operation: it answers the bytes that have waited longest (R449, R463; DESIGN CHOICE,
entry 96). -/
def takeResponse (s : State) (f : Frame) : State :=
  match answered s f with
  | none => bump s .stork 7
  | some o =>
    let n := frOffset f
    let code := BitVec.ofNat 8 (frStatus f)
    if !targetStatus code then s
    else
      let x := frontRanges n o.unanswered
      let s := setOp s o.tag (fun o => { o with generation := frGen f, unanswered := x.2 })
      let s :=
        if code = stOk then setOp s o.tag (fun o => { o with counted := o.counted + n, covered := o.covered + n })
        else if code = stPageMiss && Config.responseResend f.hdr then
          if o.round = 8 then
            setOp s o.tag (fun o => { addFailure o stPageMiss sdResendExhausted with covered := o.covered + n })
          else setOp s o.tag (fun o => { o with missed := o.missed ++ x.1 })
        else setOp s o.tag (fun o =>
          { addFailure o code (answerDetail (isSealed (opDesc o)) code f) with covered := o.covered + n })
      tryFinish (pump s o.tag) o.tag

/-- RESPONSE (R450, R451). -/
def execResponse (a : Arrival) (f : Frame) (s : State) : Res :=
  .next (if isStork f skResponse && frDst f = chipId s then takeResponse (takeArrival s a f) f else s)

/-- Effect of READ_DATA on its operation. -/
def takeReadData (s : State) (f : Frame) : State :=
  match answered s f with
  | none => bump s .stork 7
  | some o =>
    let d := opDesc o
    let i := frOffset f - d.off
    let r : Option (List Byte) × State := if isSealed d then openFrame s d.key f else (some f.payload, s)
    match r.1 with
    | none => failOp r.2 o.tag stProtection sdSealAuth
    | some bs =>
      if !isRead d || frOffset f < d.off || d.len < i + bs.length then s
      else
        let s := bump r.2 .stork 2 bs.length
        let core := o.core.map coreFin
        let a := fieldAddr d.loc + i
        let n := bs.length
        if devCheck s core o.part (fieldSpace d.loc) a n true != stOk then
          tryFinish (setOp s o.tag (fun o => { addFailure o stFenced 0 with
            covered := o.covered + n, unanswered := cutRanges i n o.unanswered })) o.tag
        else
          let s := devWrite s core o.part (fieldSpace d.loc) a (withMark (frPoison f) bs)
          let s := setOp s o.tag (fun o => { o with
            counted := o.counted + n, covered := o.covered + n, poisoned := o.poisoned || frPoison f, generation := frGen f,
            unanswered := cutRanges i n o.unanswered })
          tryFinish (pump s o.tag) o.tag

/-- READ_DATA (R450, R454, R467). -/
def execReadData (a : Arrival) (f : Frame) (s : State) : Res :=
  .next (if isStork f skReadData && frDst f = chipId s then takeReadData (takeArrival s a f) f else s)

/-! ## Replay and resend (R463, R471, R472) -/

/-- An operation needs another attempt: it waits for a route, or ends with TIMEOUT when ATTEMPT would be 4. -/
def needReplay (s : State) (o : StorkOp) : State :=
  if o.attempt = 3 then failOp s o.tag stTimeout 0
  else setOp s o.tag (fun o => { o with awaitingRoute := true })

/-- PROGRESS_TIMEOUT (R451, R471). -/
def execProgressTimeout (tag : BitVec 12) (s : State) : Res :=
  .next (match findOp s tag.toNat with
    | none => s
    | some o =>
      if o.flagWaits then s
      else if o.failure.isSome then finishOp s o
      else if o.awaitingRoute then s
      else needReplay (bump s .stork 6 (bit01 (o.attempt != 3))) o)

/-- REPLAY (R471): a route is there, and the whole operation is sent again. -/
def execReplay (tag : BitVec 12) (s : State) : Res :=
  .next (match findOp s tag.toNat with
    | none => s
    | some o =>
      if !o.awaitingRoute || o.failure.isSome || !hasRoute s (opDesc o).chip then s
      else
        let s := setOp (bump s .stork 5) o.tag (fun o => { o with
          attempt := o.attempt + 1, replayed := true, awaitingRoute := false, counted := 0, covered := 0, sent := 0,
          unanswered := [], missed := [], round := 0 })
        pump s o.tag)

/-- ROUTE_WAIT_EXPIRY (R472). -/
def execRouteWaitExpiry (tag : BitVec 12) (s : State) : Res :=
  .next (match findOp s tag.toNat with
    | none => s
    | some o => if o.awaitingRoute && !hasRoute s (opDesc o).chip then failOp s o.tag stLinkDown sdNoRoute else s)

/-- Send one range again, frame by frame; resent frames carry REPLAYED = 0 (R463). -/
def resendRange (o : StorkOp) : Nat → State → Nat → Nat → State
  | 0, s, _, _ => s
  | k + 1, s, i, n =>
    let d := opDesc o
    let m := min (if isRead d then 0x40000 else pieceMax d) n
    if m = 0 then s
    else
      let r := opFrame s { o with replayed := false } i m
      resendRange o k (sendStork r.2 r.1) (i + m) (n - m)

/-- RESEND_ROUND (R463). -/
def execResendRound (tag : BitVec 12) (s : State) : Res :=
  .next (match findOp s tag.toNat with
    | none => s
    | some o =>
      if o.missed.isEmpty || o.failure.isSome || o.awaitingRoute then s
      else
        let s := setOp (bump s .stork 13) o.tag (fun o => { o with
          unanswered := o.unanswered ++ o.missed, missed := [], round := o.round + 1 })
        o.missed.foldl (fun s r => resendRange o 2100 s r.start r.len) s)

/-- A port that left UP discarded frames: the operations they belong to replay, but for one that has failed (R414, R451,
R471). -/
def storkLinkDown (s : State) (gone : List Frame) : State :=
  let mine := gone.filter (fun f => frKind f = 0 && frClass f = 1 && frSrc f = chipId s &&
    (frStorkKind f = skWrite || frStorkKind f = skReadReq || frStorkKind f = skFlag))
  (mine.map frTag).eraseDups.foldl (fun s t => match findOp s t with
    | some o => if o.awaitingRoute || o.failure.isSome || !mine.any (fun f => frTag f = t && frAttempt f = o.attempt) then s else needReplay s o
    | none => s) s

/-! ## Sealing keys (R483, R484) -/

/-- A write to the key operation register: LOAD or CLEAR acts under the guard, one at a time; a page that is not enabled
refuses it (R103), and one that is quiesced keeps it waiting (R102). -/
def keyWrite (load : Bool) (data : Word) (s : State) : State :=
  let d := data.toNat
  if bitsOf d 31 24 = 0xA5 && bitsOf d 9 8 = (if load then 1 else 2) && s.stork.keyJob.isNone then
    if (getPage s .keys).enable then
      modStork s (fun k => { k with keyJob := some (bitsOf d 5 0, load), keyHeld := quiesced (getPage s .keys) })
    else captureError s .keys stUnsupported 0 0 0
  else s

/-- KEY_LOAD (R484). (DEDUCED, entry 98). -/
def execKeyLoad (a : Access) (data : Word) (s : State) : Res := .next (gated s a .keys 0x060 (fun _ => keyWrite true data s))

/-- KEY_CLEAR (R484). -/
def execKeyClear (a : Access) (data : Word) (s : State) : Res := .next (gated s a .keys 0x060 (fun _ => keyWrite false data s))

/-- KEY_OP_COMPLETE (R465, R484). -/
def execKeyOpComplete (s : State) : Res :=
  .next (match s.stork.keyJob with
    | none => s
    | some (slot, load) =>
      if s.stork.keyHeld then s
      else modStork s (fun k => { k with
        keys := if load then mput k.keys slot k.keyData else mdel k.keys slot,
        keyCtr := if load then mputD k.keyCtr 0 slot 0 else k.keyCtr, keyData := 0, keyJob := none }))

end Sys2Proof.Machine
end

