-- ==== Sys2Proof/Machine/StorkTarget.lean ====
section
/-! DEFINITION. Stork at the target: the checks of R452, paged windows, the stall buffer, compressed writes, the answers and
the logs (R448, R449, R452, R453, R460 to R462, R468, R469, R473, R478, R479, R485, R486). -/

namespace Sys2Proof.Machine

open Sys2Proof

/-! ## Logs (R478, R479) -/

/-- Address of a log: the violation log of partition `p`, or its page-miss log. -/
def logBase (p : Nat) (miss : Bool) : Nat := 0x410000 + 0x1000 * p + 0x800 * bit01 miss

/-- Write one log entry and raise STORK_EVENT. -/
def storkLog (s : State) (p : Nat) (miss : Bool) (f : Frame) (detail off : Nat) : State :=
  let k := 2 * p + bit01 miss
  let n := (mgetD s.stork.logSeq 0 k).toNat
  let e := leBytes 8 n ++ leBytes 8 (frameCount s) ++
    [BitVec.ofNat 8 (frSrc f), BitVec.ofNat 8 (if miss then 0 else detail), BitVec.ofNat 8 (frDomain f),
      BitVec.ofNat 8 (frStorkKind f)] ++ leBytes 2 (frWindow f) ++ leBytes 2 (frGen f) ++ leBytes 6 off ++
    leBytes 2 (frTag f)
  let s := cmWrite s (logBase p miss + 32 * (n % 64)) (withMark false e)
  let s := modStork s (fun x => { x with logSeq := mputD x.logSeq 0 k (BitVec.ofNat 64 (n + 1)) })
  let s := if 64 ≤ n then bump s .windows (if miss then 7 else 6) else s
  pulseIrq (pulseIrq s .stork (if miss then 2 else 1)) (.queues (partFin p)) 2

/-- The newest page-miss entry of a partition names this window and page (R461). -/
def lastMissIs (s : State) (p w page : Nat) : Bool :=
  let n := (mgetD s.stork.logSeq 0 (2 * p + 1)).toNat
  let b := cmBytes s (logBase p true + 32 * ((n - 1) % 64)) 32
  n != 0 && leField b 20 2 = w && leField b 24 6 = page

/-! ## Answers (R449) -/

/-- Send the RESPONSE that an arrival port has been coalescing. -/
def sendCoalesced (s : State) (c : Coalesce) : State :=
  sendStork s (mkFrame s 0 1 c.src.toNat (flagBits false false true)
    (storkClient skResponse false false c.attempt.toNat false c.domain.toNat c.status.toNat c.window.toNat
      (getWin s c.window.toNat).generation.toNat c.tag.toNat c.bytes) [])

def flushArrival (s : State) (a : Arrival) : State :=
  match s.stork.coal.find? (fun c => c.arrival = a) with
  | some c => sendCoalesced (modStork s (fun k => { k with coal := k.coal.filter (fun c => c.arrival != a) })) c
  | none => s

/-- A RESPONSE being coalesced shares source chip, OP_TAG and ATTEMPT with a frame. -/
def coalKey (c : Coalesce) (f : Frame) : Bool :=
  c.src.toNat = frSrc f && c.tag.toNat = frTag f && c.attempt.toNat = frAttempt f

/-- `k` frames, or a READ_REQ piece, are answered: coalesced with their fellows, and sent at LAST_OF_OP, after 8 frames, or when
the key changes. -/
def answer (s : State) (a : Arrival) (f : Frame) (status : Byte) (bytes : Nat) (k : Nat := 1) : State :=
  let s := match s.stork.coal.find? (fun c => c.arrival = a) with
    | some c => if coalKey c f && c.status = status then s else flushArrival s a
    | none => s
  let s := match s.stork.coal.find? (fun c => c.arrival = a) with
    | some _ => modStork s (fun x => { x with coal := x.coal.map (fun c =>
        if c.arrival = a then { c with bytes := c.bytes + bytes, frames := c.frames + k } else c) })
    | none => modStork s (fun x => { x with coal := x.coal ++ [{
        arrival := a, src := BitVec.ofNat 8 (frSrc f), tag := BitVec.ofNat 12 (frTag f),
        attempt := BitVec.ofNat 2 (frAttempt f), status := status, bytes := bytes, frames := k,
        window := BitVec.ofNat 16 (frWindow f), domain := BitVec.ofNat 8 (frDomain f) }] })
  if frLastOfOp f || s.stork.coal.any (fun c => c.arrival = a && 8 ≤ c.frames) then flushArrival s a else s

/-- RESPONSE_COALESCE_TIMER (R449). -/
def execResponseCoalesceTimer (a : Arrival) (s : State) : Res := .next (flushArrival s a)

/-- A frame for a target arrives: a frame of another key, and LAST_OF_OP, send the RESPONSE being coalesced, whether or not the
frame itself is answered now (R449). -/
def targetInput (s : State) (a : Arrival) (f : Frame) (effect : State → State) : State :=
  let other := s.stork.coal.any (fun c => c.arrival = a && !coalKey c f)
  let s := effect (if other then flushArrival s a else s)
  if frLastOfOp f then flushArrival s a else s

/-- A failure the target captures with the frame's initiator (R480). -/
def answerFail (s : State) (a : Arrival) (f : Frame) (status : Byte) (detail bytes : Nat) (k : Nat := 1) : State :=
  answer (captureStork s status detail (frTag f) (frWindow f) (frSrc f)) a f status bytes k

/-- A failure that R452 marks as logged. -/
def violation (s : State) (a : Arrival) (f : Frame) (detail bytes : Nat) (k : Nat := 1) : State :=
  let s := bump (storkLog s (winPart s (frWindow f)) false f detail (frOffset f)) .stork 10
  answerFail s a f stProtection detail bytes k

/-! ## Checks (R452) -/

/-- What a frame or piece meets. -/
inductive Verdict where
  | pass
  | violate (detail : Nat)
  | revoked
  | fault (page : Nat)      -- a page that is not translated
  | fenced
  deriving DecidableEq, Repr

/-- The 2 MiB pages a range of the window touches. -/
def pagesOf (off n : Nat) : List Nat := (granules 0x200000 off n).map (fun g => g.1 / 0x200000)

/-- The HBM address of a page Stork holds a translation for. -/
def transOf (s : State) (w page : Nat) : Option Nat :=
  (s.stork.trans.find? (fun t => t.1 = w && t.2.1 = page)).map (·.2.2)

/-- Read the page-map entries of pages without a translation; the first page that is not PRESENT, if any (R460, R461). -/
def translate (s : State) (w : Nat) : List Nat → State × Option Nat
  | [] => (s, none)
  | p :: ps =>
    if (transOf s w p).isSome then translate s w ps
    else
      let x := getWin s w
      let r := hbmRead s (winPart s w) (x.pageMap.toNat + 8 * p) 8
      let e := leNat (plain r.1)
      if e.testBit 0 then
        translate (modStork r.2 (fun k => { k with trans := k.trans ++ [(w, p, bitsOf e 47 21 * 0x200000)] })) w ps
      else (r.2, some p)

/-- The pieces of a window range as partition HBM addresses and lengths. -/
def placesOf (s : State) (w off n : Nat) : List (Nat × Nat) :=
  let x := getWin s w
  if x.paged then
    (granules 0x200000 off n).map (fun g => ((transOf s w (g.1 / 0x200000)).getD 0 + g.1 % 0x200000, g.2))
  else [(x.base.toNat + off, n)]

/-- Checks 3 to 5: the handle, the domain and the right a frame needs. -/
def checkHandle (s : State) (f : Frame) (right : Nat) : Verdict :=
  let x := getWin s (frWindow f)
  if !x.valid || x.generation.toNat != frGen f then .revoked
  else if x.domain.toNat != frDomain f then .violate sdDomain
  else if !x.rights.toNat.testBit right then .violate sdRights
  else .pass

/-- Checks 3 to 8 for a range, with the right it needs; a translation that leads outside the partition's HBM is a range
violation (DEDUCED, entry 58). -/
def checkRange (s : State) (f : Frame) (off n : Nat) (right : Nat) : State × Verdict :=
  let w := frWindow f
  let x := getWin s w
  let p := winPart s w
  if checkHandle s f right != .pass then (s, checkHandle s f right)
  else if x.length.toNat < off + n then (s, .violate sdRange)
  else if x.paged && hbmFencedIn s p (x.pageMap.toNat + 8 * (off / 0x200000)) (8 * (pagesOf off n).length) then (s, .fenced)
  else
    let t := if x.paged then translate s w (pagesOf off n) else (s, none)
    match t.2 with
    | some page => (t.1, .fault page)
    | none =>
      let ps := placesOf t.1 w off n
      if ps.any (fun y => !hbmInside t.1 p y.1 y.2) then (t.1, .violate sdRange)
      else if ps.any (fun y => hbmFencedIn t.1 p y.1 y.2) then (t.1, .fenced)
      else (t.1, .pass)

/-- Checks 1 and 2: the plain payload, or the detail of the violation. -/
def unsealFrame (s : State) (f : Frame) : State × Except Nat (List Byte) :=
  let x := getWin s (frWindow f)
  if frSealed f != x.sealed then (s, .error sdSealMismatch)
  else if !x.sealed then (s, .ok f.payload)
  else
    let r := openFrame s x.keySlot.toNat f
    (r.2, match r.1 with
      | some b => .ok b
      | none => .error sdSealAuth)

/-! ## Effects (R453) -/

/-- Store bytes at a window range that has passed. -/
def storeWindow (s : State) (w off : Nat) (bs : List PByte) : State :=
  let p := winPart s w
  let r := (placesOf s w off bs.length).foldl (fun (acc : State × List PByte) y =>
    (hbmWrite acc.1 p y.1 (acc.2.take y.2), acc.2.drop y.2)) (s, bs)
  bump r.1 .stork 3 bs.length

/-- Read a window range that has passed. -/
def loadWindow (s : State) (w off n : Nat) : List PByte × State :=
  let p := winPart s w
  let r := (placesOf s w off n).foldl (fun (acc : List PByte × State) y =>
    let x := hbmRead acc.2 p y.1 y.2
    (acc.1 ++ x.1, x.2)) ([], s)
  (r.1, bump r.2 .stork 4 n)

/-- Send READ_DATA for a piece, in frames that fit (R448). -/
def sendReadData (f : Frame) (lastPiece : Bool) : Nat → State → Nat → List PByte → State
  | 0, s, _, _ => s
  | k + 1, s, off, bs =>
    let x := getWin s (frWindow f)
    let m := if x.sealed then 8164 else 8192
    let now := bs.take m
    let rest := bs.drop m
    let last := lastPiece && rest.isEmpty
    let g := mkFrame s 0 1 (frSrc f) (flagBits (anyMark now) false last)
      (storkClient skReadData false last (frAttempt f) x.sealed (frDomain f) 0 (frWindow f) x.generation.toNat (frTag f) off)
      (plain now)
    let r := if x.sealed then sealFrame s x.keySlot.toNat g else (g, s)
    let s := sendStork r.2 r.1
    if rest.isEmpty then s else sendReadData f lastPiece k s (off + m) rest

/-- A WRITE_DATA, FLAG or READ_REQ piece that has passed takes effect. -/
def applyPiece (s : State) (a : Arrival) (f : Frame) (off n : Nat) (data : List Byte) : State :=
  if frStorkKind f = skReadReq then
    let r := loadWindow s (frWindow f) off n
    sendReadData f (frLastOfOp f) 3 r.2 off r.1
  else answer (storeWindow s (frWindow f) off (withMark (frPoison f) data)) a f stOk n

/-- Frames that an entry of the stall buffer holds: one, or those of a compressed write of `n` stream bytes. -/
def stallFrames (f : Frame) (n : Nat) : Nat := if frCurlew f then (n + 8191) / 8192 else 1

/-- Frames in the stall buffer (R462, R480). -/
def stallUsed (s : State) : Nat := (s.stork.stall.map (fun x => stallFrames x.frame x.len)).sum

/-- A page fault (R461 to R463): logged unless the newest entry says the same, then stalled or answered. -/
def pageFault (s : State) (a : Arrival) (f : Frame) (off n page : Nat) (data : List Byte) : State :=
  let k := stallFrames f n
  let w := frWindow f
  let p := winPart s w
  let s := bump s .stork 11
  let s := if lastMissIs s p w page then s else storkLog s p true f 0 page
  if (getWin s w).resend then answerFail s a f stPageMiss 0 n k
  else if 64 < stallUsed s + k then answerFail (bump s .stork 12) a f stPageMiss sdStallFull n k
  else modStork s (fun k => { k with stall := k.stall ++ [⟨a, f, page, off, n, data⟩] })

/-- `k` frames answered REVOKED (R452, R473). -/
def answerRevoked (s : State) (a : Arrival) (f : Frame) (n : Nat) (k : Nat := 1) : State :=
  let s := bump s .stork 9 k
  let s := if frReplayed f then pulseIrq (bump s .stork 8 k) .stork 3 else s
  answerFail s a f stRevoked 0 n k

/-- Checks 3 to 8 and the effect of one range. -/
def runPiece (s : State) (a : Arrival) (f : Frame) (off n : Nat) (data : List Byte) : State :=
  let right := if frStorkKind f = skReadReq then 0 else 1
  let c := checkRange s f off n right
  match c.2 with
  | .pass => applyPiece c.1 a f off n data
  | .violate d => violation c.1 a f d n
  | .revoked => answerRevoked c.1 a f n
  | .fault page => pageFault c.1 a f off n page data
  | .fenced => answerFail c.1 a f stFenced 0 n

/-- A frame of a target reaches Stork, with the bytes it covers and what its plain payload does. -/
def targetFrame (s : State) (a : Arrival) (f : Frame) (bytes : Nat) (k : State → List Byte → State) : State :=
  if winFenced s (frWindow f) then answerFail s a f stFenced 0 bytes
  else
    let u := unsealFrame s f
    match u.2 with
    | .error d => violation u.1 a f d bytes
    | .ok b => k u.1 b

/-- Bytes of plaintext a frame carries. -/
def plainLen (f : Frame) : Nat := if frSealed f then f.payload.length - 28 else f.payload.length

/-! ## Compressed writes (R468, R469) -/

/-- The frames of a partly received compressed write of the same operation and attempt. -/
def samePart (a : Arrival) (f : Frame) (p : PartWrite) : Bool :=
  p.arrival = a && p.frames.head?.any (fun g => frSrc g = frSrc f && frTag g = frTag f && frAttempt g = frAttempt f)

/-- The pieces follow each other without a gap. -/
def gapless : List Frame → Bool
  | f :: g :: l => frOffset g = frOffset f + f.payload.length && gapless (g :: l)
  | _ => true

/-- What the expander of an arrival port counts of a stream it has checked (R377): streams, bytes, elements delivered. -/
def countStream (s : State) (a : Arrival) (bytes elems : Nat) : State :=
  match a with
  | .port m => bump (bump (bump s (.expander m) 0) (.expander m) 1 bytes) (.expander m) 2 elems
  | .own => s

/-- The expander of an arrival port shows the check that failed last, and the stream's table slot (R377). -/
def noteDamage (s : State) (a : Arrival) (detail table : Nat) : State :=
  match a with
  | .port m => modPort s m (fun p => { p with expDetail := detail, expTable := table })
  | .own => s

/-- Every frame of a sealed stream verifies under a key slot (R464). -/
def openAll (s : State) (slot : Nat) (fs : List Frame) : Bool × State :=
  fs.foldl (fun acc f => let r := openFrame acc.2 slot f; (acc.1 && r.1.isSome, r.2)) (true, s)

/-- The decoded stream meets checks 6 to 8 and is stored (R452, R468); the answer covers the stream's `k` frames. -/
def storeStream (s : State) (a : Arrival) (f : Frame) (span k : Nat) (out : List PByte) : State :=
  let off := frOffset f
  let c := checkRange s f off out.length 1
  match c.2 with
  | .pass => answer (bump (storeWindow c.1 (frWindow f) off out) .stork 14) a f stOk span k
  | .violate d => violation c.1 a f d span k
  | .revoked => answerRevoked c.1 a f span k
  | .fault page => pageFault c.1 a (setHb f 1 1 (hb f 1 1 ||| 8 * bit01 (anyMark out))) off span page (plain out)
  | .fenced => answerFail c.1 a f stFenced 0 span k

/-- The whole stream has arrived: checks 1 to 5, then the expander, then checks 6 to 8; answered for every stream byte (R452,
R468, R469).  A sealed window carries no stream (R374): one that verifies is answered MODE (DEDUCED, entry 130). -/
def applyCurlew (s : State) (a : Arrival) (t : SlotImage) (fs : List Frame) : State :=
  match fs, fs.getLast? with
  | f0 :: _, some fl =>
    let bs := chunkBytes fs
    let span := bs.length
    let k := fs.length
    let f := { setHb fl 26 6 (frOffset f0) with payload := [] }
    let w := getWin s (frWindow f)
    if winFenced s (frWindow f) then answerFail s a f stFenced 0 span k
    else if w.sealed != frSealed f then violation s a f sdSealMismatch span k
    else if w.sealed then
      let r := openAll s w.keySlot.toNat fs
      if r.1 then answerFail r.2 a f stUnsupported sdMode span k else violation r.2 a f sdSealAuth span k
    else match checkHandle s f 1 with
      | .violate d => violation s a f d span k
      | .revoked => answerRevoked s a f span k
      | _ => match curlewWrite t bs with
        | .error e =>
          let s := countStream s a span 0
          answerFail (if e.1 = stDamaged then noteDamage s a e.2 (leField (plain bs) 4 1) else s) a f e.1 e.2 span k
        | .ok out => storeStream (countStream s a span ((hdrOf (plain bs) span).elim 0 (·.count))) a f span k out
  | _, _ => s

/-- One frame of a compressed write reaches the expander. -/
def curlewFrame (s : State) (a : Arrival) (f : Frame) : State :=
  let had := s.stork.parts.find? (samePart a f)
  let fs := had.elim [] (·.frames) ++ [f]
  let t := startTable s (had.bind (·.table)) (fs.flatMap (·.payload))
  let others := s.stork.parts.filter (fun p => !samePart a f p)
  if frLastOfOp f && gapless fs then applyCurlew (modStork s (fun k => { k with parts := others })) a (t.getD {}) fs
  else modStork s (fun k => { k with parts := others ++ [⟨a, fs, t⟩] })

/-- COMPRESSED_WRITE_DISCARD (R469): the oldest partly received write of a port goes. -/
def execCompressedWriteDiscard (a : Arrival) (s : State) : Res :=
  .next (match s.stork.parts.find? (fun p => p.arrival = a) with
    | some x => modStork s (fun k => { k with parts := k.parts.erase x })
    | none => s)

/-! ## The rows -/

/-- WRITE_DATA at the target. -/
def takeWrite (s : State) (a : Arrival) (f : Frame) : State :=
  targetInput s a f (fun s =>
    if frCurlew f then curlewFrame s a f
    else targetFrame s a f (plainLen f) (fun s b => runPiece s a f (frOffset f) b.length b))

/-- WRITE_DATA (R452, R453). -/
def execWriteData (a : Arrival) (f : Frame) (s : State) : Res :=
  .next (if isStork f skWrite && frDst f = chipId s then takeWrite (takeArrival s a f) a f else s)

/-- FLAG at the target: one 8 B store. -/
def takeFlag (s : State) (a : Arrival) (f : Frame) : State :=
  targetInput s a f (fun s => targetFrame s a f 8 (fun s b => runPiece s a f (frOffset f) 8 (sliceB b 0 8)))

/-- FLAG_FRAME (R452, R456). -/
def execFlagFrame (a : Arrival) (f : Frame) (s : State) : Res :=
  .next (if isStork f skFlag && frDst f = chipId s then takeFlag (takeArrival s a f) a f else s)

/-- Length a READ_REQ asks for (R448), from its plain payload. -/
def reqLen (b : List Byte) : Nat := min 0x40000 (leField b 0 8)

/-- The pieces of 8,192 B of a READ_REQ for `n` bytes: each as a frame of its own offset, and its length (R448). -/
def reqPieces (f : Frame) (n : Nat) : List (Frame × Nat) :=
  let count := (n + 8191) / 8192
  (List.range count).map (fun i =>
    let g := setHb f 17 1 (hb f 17 1 - 2 * bit01 (frLastOfOp f && i + 1 != count))
    (setHb g 26 6 (frOffset f + 8192 * i), min 8192 (n - 8192 * i)))

/-- READ_REQ at the target, in pieces of 8,192 B, each checked and answered on its own (R448, R452). -/
def takeReadReq (s : State) (a : Arrival) (f : Frame) : State :=
  targetInput s a f (fun s =>
    let unread := if frSealed f then min 0x40000 (Config.unreadLength f.payload) else reqLen f.payload
    if winFenced s (frWindow f) then
      (reqPieces f unread).foldl (fun s g => answerFail s a g.1 stFenced 0 g.2) s
    else
      let u := unsealFrame s f
      match u.2 with
      | .error d => (reqPieces f unread).foldl (fun s g => violation s a g.1 d g.2) u.1
      | .ok b => (reqPieces f (reqLen b)).foldl (fun s g => runPiece s a g.1 (frOffset g.1) g.2 []) u.1)

/-- READ_REQ (R448, R452). -/
def execReadReq (a : Arrival) (f : Frame) (s : State) : Res :=
  .next (if isStork f skReadReq && frDst f = chipId s then takeReadReq (takeArrival s a f) a f else s)

/-- STALL_EXPIRY (R462): the oldest held frame is answered. -/
def execStallExpiry (s : State) : Res :=
  .next (match s.stork.stall with
    | [] => s
    | x :: rest =>
      let s := bump (modStork s (fun k => { k with stall := rest })) .stork 12
      answerFail s x.arrival x.frame stPageMiss sdStallExpired x.len (stallFrames x.frame x.len))

/-- A held frame meets its page again (R462): a compressed write was expanded before it was held. -/
def runStalled (s : State) (x : Stalled) : State :=
  if frCurlew x.frame then
    storeStream s x.arrival x.frame x.len (stallFrames x.frame x.len) (withMark (frPoison x.frame) x.data)
  else runPiece s x.arrival x.frame x.off x.len x.data

/-- PAGE_READY (R460, R462, R486): the entry is read again, and the frames held on the page are applied in arrival order. -/
def execPageReady (tag : BitVec 12) (s : State) : Res :=
  .next (storkCmd s tag.toNat 0x13 (fun s x d =>
    match windowCheck s x d (winCmdShape x d) true with
    | some r => refuseCmd s tag.toNat d r.1 r.2
    | none =>
      let on := fun (y : Stalled) => frWindow y.frame = d.window && y.page = d.off
      let held := s.stork.stall.filter on
      let s := modStork s (fun k => { k with
        trans := k.trans.filter (fun t => !(t.1 = d.window && t.2.1 = d.off)), stall := k.stall.filter (fun y => !on y) })
      let s := held.foldl runStalled s
      bump (storkEnd s tag.toNat d stOk 0 (getWin s d.window).generation.toNat 0) .windows 3))

/-- A window is revoked: VALID clears, GENERATION advances, translations go, held frames are answered REVOKED (R442, R460,
R485). -/
def revokeWindow (s : State) (w : Nat) : State :=
  let x := getWin s w
  let s := setWin s w { x with valid := false, generation := x.generation + 1 }
  let held := s.stork.stall.filter (fun y => frWindow y.frame = w)
  let s := modStork s (fun k => { k with
    trans := k.trans.filter (fun t => t.1 != w), stall := k.stall.filter (fun y => frWindow y.frame != w) })
  held.foldl (fun s y => answerRevoked s y.arrival y.frame y.len (stallFrames y.frame y.len)) s

/-- REVOKE (R441, R442, R485). -/
def execRevoke (tag : BitVec 12) (s : State) : Res :=
  .next (storkCmd s tag.toNat 0x11 (fun s x d =>
    match windowCheck s x d (winCmdShape x d) false with
    | some r => refuseCmd s tag.toNat d r.1 r.2
    | none =>
      let s := revokeWindow s d.window
      bump (storkEnd s tag.toNat d stOk 0 (getWin s d.window).generation.toNat 0) .windows 1))

end Sys2Proof.Machine
end

