-- ==== Sys2Proof/Machine/Baton.lean ====
section
/-! DEFINITION. Baton ports: bring-up and the wiring check, the receive checks, go-back-N in both directions, flow control, and
what a port does when it leaves UP (R379 to R417, R427 to R432). -/

namespace Sys2Proof.Machine

open Sys2Proof

/-! ## State and interrupt levels (R429) -/

/-- The levels of the port page. -/
def portLevels (s : State) (m : Fin 8) : State :=
  let p := getPort s m
  let pg := PageId.baton m
  let s := levelIrq s pg 1 (p.st = .up)
  let s := levelIrq s pg 2 (linkEnabled s m && p.st != .up)
  let s := levelIrq s pg 3 (p.st = .miswired)
  levelIrq s pg 4 (p.peerPaused != 0)

def setPortSt (s : State) (m : Fin 8) (st : PortSt) : State := portLevels (modPort s m (fun p => { p with st := st })) m

/-- Details of the port page (R428). -/
def pdPcsLoss : Nat := 1
def pdRetryLimit : Nat := 2
def pdLiveness : Nat := 3
def pdDisabled : Nat := 4
def pdWiring : Nat := 5
def pdConfig : Nat := 6

/-! ## Leaving DOWN and UP (R382, R388, R390, R414, R418) -/

/-- The port is in service (R89, R92). -/
def portUsable (s : State) (m : Fin 8) : Bool :=
  s.units.ports.toNat.testBit m && !(getPage s (.baton m)).fenced && (getPage s (.baton m)).enable

/-- Bring-up starts from DOWN where it is permitted; a chip with mixed roles keeps its ports DOWN, and a port that would have left
DOWN captures CONFIG (R418; DEDUCED, entry 45). -/
def startBringup (s : State) (m : Fin 8) : State :=
  if (getPort s m).st != .down || !linkEnabled s m || roleOf s m = 0 || !portUsable s m then portLevels s m
  else if !rolesOk s then captureOpen (portLevels s m) (.baton m) stUnsupported pdConfig
  else
    setPortSt (modPort s m (fun p => { p with speed400 := false, fecLock := false, ownCheck := false, peerOk := false })) m .an

/-- The DETOUR byte of a frame before this chip sent it to port `m`: a detour along a dimension its destination does not need
was chosen here (R423). -/
def ownDetour (s : State) (m : Fin 8) (f : Frame) : Nat :=
  if isCube s && (frDetour f).testBit 7 && frDetour f % 8 = m.val && !(chipId s ^^^ frDst f).testBit m.val then 0
  else frDetour f

/-- A frame of class M or B that a port never started takes another egress port; without one it goes, and counts in NO_ROUTE
(R423 to R425). -/
def reroute (s : State) (m : Fin 8) (f : Frame) : State :=
  match egress s (frDst f) (ownDetour s m f) with
  | some r => enqueue s r.1 (setHb f 11 1 r.2)
  | none => bump s (.baton m) 20

/-- A port leaves UP for `st` (R385, R388, R414): unacknowledged frames, class C frames not yet sent and chunks not yet handed to
the Relay go, accepted frames are still delivered, frames of classes M and B it never started take another port, and Stork and
the Relay hear of what went. -/
def leaveUpTo (s : State) (m : Fin 8) (st : PortSt) (detail : Nat) : State :=
  let p := getPort s m
  let moved := (getCls p 0).txq ++ (getCls p 1).txq
  let s := setPort s m { p with
    st := st, fecLock := p.fecLock && st != .down, ownCheck := false, peerOk := false, peerPaused := 0, localPaused := 0,
    chunkOpen := false, held := [], refusedSeqs := [], lastDown := detail, delay := none, delayT1 := none,
    cls := p.cls.map (fun c => { rxbuf := c.rxbuf }) }
  let s := { s with recorder := { s.recorder with held := s.recorder.held.filter (fun h => match h with
    | .frame q f => !(q = m.val && isChunkFrame f)
    | _ => true) } }
  let lost := moved.filter (fun f => (egress s (frDst f) (ownDetour s m f)).isNone)
  let gone := (List.finRange 3).flatMap (fun c => (getCls p c).retx) ++ (getCls p 2).txq ++ lost
  let s := moved.foldl (fun s f => reroute s m f) s
  let s := bump s (.baton m) 22
  let s := if detail = pdDisabled then s
    else captureOpen s (.baton m) (if detail < pdWiring then stLinkDown else stUnsupported) detail
  let s := startBringup s m
  relayPortChange (storkLinkDown s gone) m

/-- A port leaves UP for DOWN. -/
def leaveUp (s : State) (m : Fin 8) (detail : Nat) : State := leaveUpTo s m .down detail

/-- Take a port to DOWN from wherever it is (R388); bring-up follows while LINK_ENABLE is 1. -/
def takeDown (s : State) (m : Fin 8) (detail : Nat) : State :=
  if (getPort s m).st = .up then leaveUp s m detail
  else startBringup (modPort s m (fun p => { p with st := .down, fecLock := false })) m

/-- A write to PORT_CTRL (R388, R427): RETRAIN, LINK_ENABLE, and the lockable fields. -/
def portCtrlWrite (m : Fin 8) (data : Word) (s : State) : State :=
  let pg := PageId.baton m
  let old := regOf s pg 0x040
  let d := data.toNat
  let lock := (getPage s pg).lock
  let speed := if lock || bitsOf d 3 2 = 3 then bitsOf old 3 2 else bitsOf d 3 2
  let media := if lock then bitsOf old 4 4 else bitsOf d 4 4
  let s := putReg (noteLocked s pg 0x040 data) pg 0x040 (bitsOf d 0 0 + 4 * speed + 16 * media)
  if d.testBit 1 || (old.testBit 0 && !d.testBit 0) then takeDown s m pdDisabled
  else startBringup s m

/-- LINK_ENABLE (R382, R388). -/
def execLinkEnable (a : Access) (m : Fin 8) (data : Word) (s : State) : Res :=
  .next (gated s a (.baton m) 0x040 (fun _ => portCtrlWrite m data s))

/-- RETRAIN (R388). -/
def execRetrain (a : Access) (m : Fin 8) (data : Word) (s : State) : Res :=
  .next (gated s a (.baton m) 0x040 (fun _ => portCtrlWrite m data s))

/-! ## Bring-up (R381, R382) -/

/-- The types a port advertises, highest first. -/
def ownTypes (s : State) (m : Fin 8) : List PhyType :=
  let r := regOf s (.baton m) 0x040
  let kr := r.testBit 4
  let hi := if bitsOf r 3 2 = 2 then [] else [if kr then PhyType.kr8_800 else PhyType.cr8_800]
  let lo := if bitsOf r 3 2 = 1 then [] else [if kr then PhyType.kr4_400 else PhyType.cr4_400]
  hi ++ lo

/-- AUTONEG_COMPLETE (R379, R381): the highest shared type; with none shared the port keeps negotiating. -/
def execAutonegComplete (m : Fin 8) (peerTypes : List PhyType) (s : State) : Res :=
  .next (match (getPort s m).st, (ownTypes s m).find? (fun t => peerTypes.contains t) with
    | .an, some t =>
      setPortSt (modPort s m (fun p => { p with speed400 := t = .cr4_400 || t = .kr4_400 })) m .training
    | _, _ => s)

/-- LINK_TRAINING_COMPLETE (R382). -/
def execLinkTrainingComplete (m : Fin 8) (s : State) : Res :=
  .next (if (getPort s m).st = .training then setPortSt s m .aligning else s)

/-- FEC_LOCK (R382). -/
def execFecLock (m : Fin 8) (s : State) : Res :=
  .next (if (getPort s m).st = .aligning then
    setPortSt (modPort s m (fun p => { p with fecLock := true, ownCheck := false, peerOk := false })) m .hello else s)

/-- BRINGUP_TIMEOUT (R382). -/
def execBringupTimeout (m : Fin 8) (s : State) : Res :=
  .next (match (getPort s m).st with
    | .down | .up => s
    | _ => takeDown (bump s (.baton m) 23) m pdDisabled)

/-! ## Receive checks (R398, R531) -/

/-- The CLIENT fields of a class C DATA frame. -/
def relayClientOk (f : Frame) : Bool :=
  1 ≤ frRelayKind f && frRelayKind f ≤ 6 && frForm f < 3 && hb f 31 1 = 0 &&
    ((frRelayKind f = rkUp && frLast f) || (frSubStatus f = 0 && frSubDetail f = 0))

/-- The CLIENT fields of a CREDIT frame. -/
def creditClientOk (f : Frame) : Bool := hb f 16 1 = 0 && hb f 17 1 < 64 && hb f 24 1 < 2 && hb f 25 7 = 0

/-- Check 4: the header. -/
def headerOk (s : State) (m : Fin 8) (f : Frame) : Bool :=
  let data := frKind f = 0
  frVersion f = 1 && frKind f ≤ 4 && frClass f != 3 && hb f 1 1 < 64 && (data || (frSeq f = 0 && frLen f = 0)) &&
    frLen f ≤ 8192 && frLen f = f.payload.length && bitsOf (frDetour f) 6 4 = 0 && hb f 12 4 = 0 &&
    f.pcp.toNat = pcpOf s m (frClass f) && (frKind f != 4 || frClass f = 0) &&
    (!(data && frClass f = 2) || relayClientOk f) && (frKind f != 3 || creditClientOk f)

/-- The counter of the first of checks 1 to 4 that a frame fails. -/
def frameFails (s : State) (m : Fin 8) (f : Frame) : Option Nat :=
  if !f.fcsOk then some 6
  else if f.tpid != 0x8100 || f.etherType.toNat != etherOf s m then some 7
  else if !(f.dst = macOf s m || (f.dst = BitVec.allOnes 48 && frKind f = 4)) then some 7
  else if !headerOk s m f then some 8
  else none

/-- A frame of one KIND: discarded and counted where a check fails; no effect for another kind. -/
def received (s : State) (m : Fin 8) (f : Frame) (kind : Nat) (k : State) : State :=
  match frameFails s m f with
  | some i => bump s (.baton m) i
  | none => if frKind f = kind then k else s

/-- FOREIGN_FRAME (R398 checks 1 to 3). -/
def execForeignFrame (m : Fin 8) (f : Frame) (s : State) : Res :=
  .next (match frameFails s m f with
    | some i => if i = 8 then s else bump s (.baton m) i
    | none => s)

/-! ## HELLO (R383 to R387) -/

/-- The HELLO frame of a port. (DESIGN CHOICE, entry 94). -/
def helloFrame (s : State) (m : Fin 8) : Frame :=
  let p := getPort s m
  let r := regOf s (.baton m) 0x048
  mkFrame s 4 0 p.peerChip.toNat 0
    ([BitVec.ofNat 8 (chipId s), BitVec.ofNat 8 (m.val + 16 * bitsOf r 1 0 + 128 * bit01 p.ownCheck),
      BitVec.ofNat 8 (bitsOf r 15 8), 0] ++ leBytes 2 (etherOf s m) ++ leBytes 2 (regOf s (.baton m) 0x054)) []

/-- The peer's identity is the one the topology gives (R384). -/
def wiringOk (s : State) (m : Fin 8) (f : Frame) : Bool :=
  let e := expectedPeer s m
  hb f 16 1 = e.1 && hb f 17 1 % 8 = e.2.1 && hb f 17 1 / 16 % 4 = e.2.2

/-- The peer's configuration is this port's (R384). -/
def configOk (s : State) (m : Fin 8) (f : Frame) : Bool :=
  hb f 18 1 = bitsOf (regOf s (.baton m) 0x048) 15 8 && hb f 20 2 = etherOf s m && hb f 22 2 = regOf s (.baton m) 0x054

/-- A port enters UP (R386): sequence numbers 0, buffers empty. -/
def enterUp (s : State) (m : Fin 8) : State :=
  let s := modPort s m (fun p => { p with
    cls := Vector.replicate 3 {}, held := [], readyChunks := [], refusedSeqs := [], chunkOpen := false, peerPaused := 0,
    localPaused := 0, delay := none, delayT1 := none, lastRetx := false })
  relayPortChange (setPortSt s m .up) m

/-- A HELLO that has passed the receive checks (R384, R385, R392): one that fails the wiring check takes the port to MISWIRED
from UP too, and each is captured (DEDUCED, entry 59). -/
def takeHello (s : State) (m : Fin 8) (f : Frame) : State :=
  let p := getPort s m
  let good := wiringOk s m f && configOk s m f
  let detail := if wiringOk s m f then pdConfig else pdWiring
  match p.st with
  | .up => if good then
      modPort s m (fun p => { p with peerChip := BitVec.ofNat 8 (hb f 16 1), peerPort := BitVec.ofNat 3 (hb f 17 1) })
    else leaveUpTo s m .miswired detail
  | .hello | .miswired =>
    if good then
      let s := modPort s m (fun p => { p with
        peerChip := BitVec.ofNat 8 (hb f 16 1), peerPort := BitVec.ofNat 3 (hb f 17 1),
        peerMac := if p.ownCheck then p.peerMac else f.src, ownCheck := true,
        peerOk := p.peerOk || (hb f 17 1).testBit 7 })
      let s := if p.st = .miswired then setPortSt s m .hello else s
      if (getPort s m).peerOk then enterUp s m else s
    else
      let s := setPortSt (modPort s m (fun p => { p with ownCheck := false })) m .miswired
      captureOpen s (.baton m) stUnsupported detail
  | _ => s

/-- HELLO (R384, R385). -/
def execHello (m : Fin 8) (f : Frame) (s : State) : Res := .next (received s m f 4 (takeHello s m f))

/-- HELLO_TIMER (R383). -/
def execHelloTimer (m : Fin 8) (s : State) : Res :=
  .next (match (getPort s m).st with
    | .hello | .miswired => sendControl s m (helloFrame s m)
    | _ => s)

/-- IDLE_HELLO (R387). -/
def execIdleHello (m : Fin 8) (s : State) : Res := .next (if isUp s m then sendControl s m (helloFrame s m) else s)

/-- LIVENESS (R387). -/
def execLiveness (m : Fin 8) (s : State) : Res := .next (if isUp s m then leaveUp s m pdLiveness else s)

/-- PCS_LOSS (R388). -/
def execPcsLoss (m : Fin 8) (s : State) : Res := .next (if isUp s m then leaveUp s m pdPcsLoss else s)

/-! ## Acknowledgements and go-back (R409 to R413, R430, R431) -/

/-- Frames acknowledged by ACK_SEQ: how many of the oldest; none where it is stale or names frames never sent. -/
def ackedBy (c : ClassState) (ack : BitVec 16) : Option Nat :=
  let n := (ack + 1 - c.oldest).toNat
  if n ≤ c.retx.length then some n else none

/-- Free acknowledged frames and advance OLDEST. -/
def freeAcked (s : State) (m : Fin 8) (c : Fin 3) (n : Nat) : State :=
  if n = 0 then s
  else modCls s m c (fun x => { x with
    retx := x.retx.drop n, oldest := x.oldest + BitVec.ofNat 16 n, goBacks := 0, resend := min x.resend (x.retx.length - n) })

/-- An acknowledgement carried by any frame that has passed the receive checks. -/
def takeAck (s : State) (m : Fin 8) (c : Fin 3) (ack : BitVec 16) : State :=
  match ackedBy (getCls (getPort s m) c) ack with
  | some n => freeAcked s m c n
  | none => s

/-- A go-back: everything unacknowledged is sent again, unless it is one too many (R412, R413). -/
def goBack (s : State) (m : Fin 8) (c : Fin 3) : State :=
  let x := getCls (getPort s m) c
  if x.retx.isEmpty then s
  else
    let limit := bitsOf (regOf s (.baton m) 0x064) 7 0
    if limit ≤ x.goBacks + 1 then leaveUp s m pdRetryLimit
    else modCls s m c (fun x => { x with resend := x.retx.length, goBacks := x.goBacks + 1 })

/-- ACK (R409, R431). -/
def execAck (m : Fin 8) (f : Frame) (s : State) : Res :=
  .next (received s m f 1 (if isUp s m then takeAck s m (clsFin (frClass f)) (frAck f) else s))

/-- NAK (R410, R430, R431). -/
def execNak (m : Fin 8) (f : Frame) (s : State) : Res :=
  .next (received s m f 2 (
    let c := clsFin (frClass f)
    if !isUp s m then s
    else match ackedBy (getCls (getPort s m) c) (frAck f) with
      | none => s
      | some n => goBack (freeAcked (bump s (.baton m) 12) m c n) m c))

/-- A class is paused by the peer. -/
def pausedBy (s : State) (m : Fin 8) (c : Fin 3) : Bool := (getPort s m).peerPaused.toNat.testBit c

/-- RETRANSMIT_TIMEOUT (R412): the timer runs while a frame is unacknowledged and the class is not paused. -/
def execRetransmitTimeout (m : Fin 8) (c : Fin 3) (s : State) : Res :=
  .next (if isUp s m && !pausedBy s m c && !(getCls (getPort s m) c).retx.isEmpty then
    goBack (bump s (.baton m) 13) m c else s)

/-- ACK_DELAY_TIMER (R409). -/
def execAckDelayTimer (m : Fin 8) (c : Fin 3) (s : State) : Res :=
  .next (if isUp s m && unacked s m c != 0 then sendAckNak s m c 1 else s)

/-! ## Receiving DATA (R396, R407, R421, R560) -/

/-- RECIPIENT and MSG are defined (R396, R397, R530, R554). -/
def recipientOk (f : Frame) : Bool :=
  let r := hb f 16 1
  let g := hb f 17 1
  (r = 1 && (g = 1 || g = 2)) || (r = 3 && 1 ≤ g && g ≤ 3) || (r = 4 && 1 ≤ g && g ≤ 7)

/-- What happens to an accepted frame. -/
def acceptData (s : State) (m : Fin 8) (f : Frame) : State :=
  let here := frDst f = chipId s
  if here && frClass f = 0 && !recipientOk f then bump s (.baton m) 24
  else if (!here && frClass f = 2) || (here && frClass f != 0 && s.pacer.st = .running) then bump s (.baton m) 18
  else if here then liveInput s (.frame m f)
  else storeAccepted s m f

/-- A DATA frame against the sequence rule; one that its class's receive buffer has no room for is lost (R400; DESIGN CHOICE,
entry 131). -/
def sequenceData (s : State) (m : Fin 8) (f : Frame) : State :=
  let c := clsFin (frClass f)
  let x := getCls (getPort s m) c
  let back := (x.expected - frSeq f).toNat
  if back = 0 && rxShare c.val < occupancy (getPort s m) c + f.payload.length then s
  else if back = 0 then
    let s := modCls s m c (fun x => { x with expected := x.expected + 1, nakSent := false })
    let s := bump (bump s (.baton m) 1) (.baton m) 3 f.payload.length
    let s := acceptData s m f
    if 64 ≤ unacked s m c then sendAckNak s m c 1 else s
  else if back ≤ 512 then sendAckNak (bump s (.baton m) 9) m c 1
  else
    let s := bump s (.baton m) 10
    if x.nakSent then s
    else
      let s := modCls s m c (fun x => { x with nakSent := true })
      let s := if c.val = 0 then modPort s m (fun p => { p with lastRetx := true }) else s
      sendAckNak (bump s (.baton m) 11) m c 2

/-- DATA (R407). -/
def execData (m : Fin 8) (f : Frame) (s : State) : Res :=
  .next (received s m f 0 (
    if !isUp s m then s
    else
      let s := if frAckValid f then takeAck s m (clsFin (frClass f)) (frAck f) else s
      sequenceData s m f))

/-- CREDIT (R417, R515). -/
def execCredit (m : Fin 8) (f : Frame) (s : State) : Res :=
  .next (received s m f 3 (if isUp s m then relayInput s (frGroup f) m.val f else s))

/-! ## Flow control (R401, R402) -/

def setPaused (s : State) (m : Fin 8) (c : Fin 3) (v : Bool) : State :=
  let b := BitVec.ofNat 3 (2 ^ c.val)
  portLevels (modPort s m (fun p => { p with peerPaused := if v then p.peerPaused ||| b else p.peerPaused &&& ~~~b })) m

/-- PFC (R402): every class whose priority the frame enables. -/
def execPfc (m : Fin 8) (p : PfcFrame) (s : State) : Res :=
  .next (if !isUp s m then s
    else (List.finRange 3).foldl (fun (s : State) (c : Fin 3) =>
      let q := pcpOf s m c.val
      if p.enable.toNat.testBit q then setPaused s m c (p.times.getD q 0 != 0) else s) (bump s (.baton m) 16))

/-- PAUSE (R398). -/
def execPause (m : Fin 8) (s : State) : Res := .next (bump s (.baton m) 7)

/-- PAUSE_EXPIRY (R402). -/
def execPauseExpiry (m : Fin 8) (c : Fin 3) (s : State) : Res :=
  .next (if pausedBy s m c then setPaused s m c false else s)

/-- PFC_REPEAT (R401). -/
def execPfcRepeat (m : Fin 8) (c : Fin 3) (s : State) : Res :=
  .next (let p := getPort s m
    if p.localPaused.toNat.testBit c && xonOf s m c < occupancy p c then sendPfc s m c 0xFFFF else s)

/-! ## Sending DATA (R402, R404 to R406, R416, R546) -/

/-- A start-gun FIRE message. -/
def isFire (f : Frame) : Bool := frKind f = 0 && frClass f = 0 && hb f 16 1 = 4 && hb f 17 1 = 2

/-- A DELAY_REQ or DELAY_RESP message. -/
def isDelay (f : Frame) : Bool := frKind f = 0 && frClass f = 0 && hb f 16 1 = 4 && (hb f 17 1 = 4 || hb f 17 1 = 5)

/-- REMAIN of a FIRE is written at the start of every transmission (R546). -/
def stampFire (s : State) (f : Frame) (now : Nat) : Frame :=
  if isFire f then
    match s.gun.fires.find? (fun x => x.1 = frSrc f && x.2.1 = frDst f) with
    | some x => setHb f 20 8 (x.2.2 - now)
    | none => f
  else f

/-- Put a frame on the wire: addresses, priority, the class's acknowledgement, REMAIN. -/
def transmit (s : State) (m : Fin 8) (c : Fin 3) (f : Frame) (now : Nat) : State :=
  let p := getPort s m
  let f := setHb (setHb (stampFire s f now) 1 1 (hb f 1 1 ||| 4)) 4 2 (ackPoint s m c - 1).toNat
  let s := if isDelay f && hb f 17 1 = 4 then modPort s m (fun p => { p with delayT1 := some now }) else s
  let s := emit (.frame m.val { f with
    dst := p.peerMac, src := macOf s m, pcp := BitVec.ofNat 3 (pcpOf s m c), etherType := BitVec.ofNat 16 (etherOf s m) }) s
  noteAck (bump (bump s (.baton m) 0) (.baton m) 2 f.payload.length) m c

/-- Chunks in flight on a port: those not yet acknowledged whole (R514). -/
def chunksInFlight (p : Port) : Nat :=
  (((getCls p 2).retx.filter (fun f => isChunkFrame f && frLast f)).length) + bit01 p.chunkOpen

/-- A class C frame starts a chunk. -/
def startsChunk (p : Port) (f : Frame) : Bool := isChunkFrame f && !p.chunkOpen

/-- The link of a frame's group at this port. -/
def creditLink (s : State) (m : Fin 8) (f : Frame) : Option LinkCredit :=
  (getGrp s (frGroup f)).links.find? (fun l => l.port = m.val)

/-- Credit mode allows this frame to start (R416, R514). -/
def creditOk (s : State) (m : Fin 8) (f : Frame) : Bool :=
  let p := getPort s m
  !startsChunk p f ||
    (chunksInFlight p < 8 && (creditLink s m f).any (fun l => (l.received + 2 ^ 32 - l.used) % 2 ^ 32 != 0))

/-- Spend the credit of a chunk that starts. -/
def spendCredit (s : State) (m : Fin 8) (f : Frame) : State :=
  let starts := startsChunk (getPort s m) f
  let s := if isChunkFrame f then modPort s m (fun p => { p with chunkOpen := !frLast f }) else s
  if starts then
    bump (modGrp s (frGroup f) (fun x => { x with links := x.links.map (fun l =>
      if l.port = m.val then { l with used := (l.used + 1) % 2 ^ 32 } else l) })) .relay 3
  else s

/-- The window, the retransmit share and the credits let a new frame of a class start (R406, R416). -/
def mayStart (s : State) (m : Fin 8) (c : Fin 3) (f : Frame) : Bool :=
  let x := getCls (getPort s m) c
  (x.nextSeq - x.oldest).toNat < 512 && payBytes x.retx + f.payload.length ≤ retxShare c.val && creditOk s m f

/-- The frame a class would send now: a retransmission if one is due, else a new frame that may start (R402, R404, R406). -/
def nextFrame (s : State) (m : Fin 8) (c : Fin 3) : Option Frame :=
  let x := getCls (getPort s m) c
  if !isUp s m || pausedBy s m c then none
  else if x.resend != 0 then x.retx[x.retx.length - x.resend]?
  else x.txq.head?.filter (mayStart s m c)

/-- Deficits of the round robin: of a class of it, and with a new one (R404). -/
def deficit (p : Port) (c : Fin 3) : Nat := if c.val = 1 then p.drrB else p.drrC
def setDeficit (p : Port) (c : Fin 3) (n : Nat) : Port := if c.val = 1 then { p with drrB := n } else { p with drrC := n }

/-- A class may start its frame: class M first, then B and C by deficit round robin with a quantum of 8,192 B (R404; DESIGN
CHOICE, entry 132).  The port with the round robin moved on, or none where another class goes first. -/
def arbitrate (p : Port) (c : Fin 3) (f : Frame) (forM other : Option Frame) : Option Port :=
  if c.val = 0 then some p
  else if forM.isSome then none
  else
    let n := f.payload.length
    let d := deficit p c
    let o : Fin 3 := if c.val = 1 then 2 else 1
    let own : BitVec 1 := if c.val = 1 then 0 else 1
    let start := fun (d : Nat) => some { setDeficit p c (d - n) with drrTurn := own }
    let mine := p.drrTurn = own
    match other with
    | none => (start (if mine && n ≤ d then d else d + 8192)).map (setDeficit · o 0)
    | some g =>
      if mine then (if n ≤ d then start d else none)
      else if g.payload.length ≤ deficit p o then none
      else start (d + 8192)

/-- DATA_FRAME_START (R402, R404 to R406): the class's next frame starts, if no other class goes before it. -/
def execDataFrameStart (m : Fin 8) (c : Fin 3) (now : Nat) (s : State) : Res :=
  .next (match nextFrame s m c with
    | none => s
    | some f => match arbitrate (getPort s m) c f (nextFrame s m 0) (nextFrame s m (if c.val = 1 then 2 else 1)) with
      | none => s
      | some p =>
        let s := setPort s m p
        let x := getCls (getPort s m) c
        if x.resend != 0 then
          let s := modCls s m c (fun x => { x with resend := x.resend - 1 })
          let s := if isDelay f then modPort s m (fun p => { p with lastRetx := true }) else s
          bump (transmit s m c f now) (.baton m) 14
        else
          let f := setHb f 2 2 x.nextSeq.toNat
          let s := spendCredit s m f
          let s := modCls s m c (fun x => { x with txq := x.txq.drop 1, retx := x.retx ++ [f], nextSeq := x.nextSeq + 1 })
          transmit s m c f now)

/-! ## The link expander (R370, R371, R411, R432, R509) -/

/-- SEQ `a` does not precede `b`. -/
def seqFrom (a b : BitVec 16) : Bool := (a - b).toNat < 0x8000

/-- Refuse a chunk (R411): the receiver goes back to its first frame, and everything accepted from there goes. -/
def refuseChunk (s : State) (m : Fin 8) (first : BitVec 16) : State :=
  let s := modPort s m (fun p => { p with held := [], refusedSeqs := p.refusedSeqs ++ [first] })
  let s := modCls s m 2 (fun x => { x with
    expected := first, nakSent := true, rxbuf := x.rxbuf.filter (fun f => !seqFrom (frSeq f) first) })
  let s := { s with recorder := { s.recorder with held := s.recorder.held.filter (fun h => match h with
    | .frame p f => !(p = m.val && frClass f = 2)
    | _ => true) } }
  flowCheck (sendAckNak (bump s (.baton m) 11) m 2 2) m 2

/-- A checked chunk is handed on (R369, R370). -/
def handOn (s : State) (m : Fin 8) (h : HeldChunk) (damaged : Option Nat) (poisoned : Bool) (entries : List E56Entry)
    (next : Nat) : State :=
  let s := modPort s m (fun p => { p with
    held := p.held.drop 1, readyChunks := p.readyChunks ++ [⟨h.frames, damaged, poisoned, entries, next⟩],
    refusedSeqs := p.refusedSeqs.filter (fun q => some q != h.frames.head?.map frSeq) })
  let s := flowCheck (bump s (.expander m) 5 (bit01 poisoned)) m 2
  if 64 ≤ unacked s m 2 then sendAckNak s m 2 1 else s

/-- CHUNK_CHECK (R370, R371): the oldest whole chunk is checked, with the table read when it began (R344); a poisoned chunk
is never refused (R368). -/
def execChunkCheck (m : Fin 8) (s : State) : Res :=
  .next (match (getPort s m).held with
    | [] => s
    | h :: _ =>
      if !h.complete then s
      else
        let pg := PageId.expander m
        let f := h.frames.headD {}
        let curlew := frForm f = 0
        let b := chunkBytes h.frames
        let s := if curlew then bump (bump s pg 0) pg 1 b.length else s
        let z := readChunk (h.table.getD {}) h.frames
        match z.data with
        | .good es next clamped =>
          let s := if curlew then bump (bump s pg 2 es.length) pg 6 clamped else s
          handOn s m h none z.poisoned es next
        | .bad d off =>
          if z.poisoned then handOn s m h (some d) true [] 0
          else
            let s := modPort s m (fun p => { p with
              expDetail := d, expTable := if curlew then leField (plain b) 4 1 else 0 })
            if !h.refusedBefore then
              refuseChunk (pulseIrq (bump s pg 3) pg 2) m (frSeq f)
            else
              let s := pulseIrq (bump s pg 4) pg 1
              handOn (captureError s pg stDamaged d (frChunk f) off) m h (some d) false [] 0)

end Sys2Proof.Machine
end

