-- ==== Sys2Proof/Machine/Switch.lean ====
section
/-! DEFINITION. The switch between ports: forwarding, stalled frames, and the identity messages of the management core (R397,
R421 to R426). -/

namespace Sys2Proof.Machine

open Sys2Proof

/-- HOP_LIMIT of a port. -/
def hopLimit (s : State) (m : Fin 8) : Nat := bitsOf (regOf s (.baton m) 0x064) 15 8

/-- A frame for another chip leaves its receive buffer: dropped at the hop limit or without a route, else a new frame of its
egress port (R422, R426). -/
def forwardFrame (s : State) (m : Fin 8) (c : Fin 3) (f : Frame) : State :=
  let s := takeHead s m c f
  if hopLimit s m ≤ frHops f + 1 then bump s (.baton m) 19
  else match egress s (frDst f) (frDetour f) with
    | none => bump s (.baton m) 20
    | some r => enqueue s r.1 (setHb (setHb f 10 1 (frHops f + 1)) 11 1 r.2)

/-- A frame for another chip can leave the head of its receive buffer now: it is to be dropped, or its egress port has nothing
of its class waiting and may start it (R402, R406, R425). -/
def mayForward (s : State) (m : Fin 8) (f : Frame) : Bool :=
  if hopLimit s m ≤ frHops f + 1 then true
  else match egress s (frDst f) (frDetour f) with
    | none => true
    | some r =>
      let e := portFin r.1
      let c := clsFin (frClass f)
      (getCls (getPort s e) c).txq.isEmpty && !pausedBy s e c && mayStart s e c f

/-- FRAME_FORWARD (R422 to R425): the head of a receive buffer is for another chip, and waits there until its egress port can
take it; a FIRE is forwarded by its own row, which restamps it (R547).  A class B frame for this chip with no defined STORK_KIND
is dropped. -/
def execFrameForward (m : Fin 8) (c : Fin 3) (s : State) : Res :=
  .next (match (getCls (getPort s m) c).rxbuf with
    | [] => s
    | f :: _ =>
      if frDst f = chipId s then
        if frClass f = 1 && (frStorkKind f = 0 || 5 < frStorkKind f) then takeHead s m c f else s
      else if isFire f || !mayForward s m f then s
      else forwardFrame s m c f)

/-- STALL_DROP (R425): classes M and B. -/
def execStallDrop (m : Fin 8) (c : Fin 3) (s : State) : Res :=
  .next (match (getCls (getPort s m) c).rxbuf with
    | [] => s
    | f :: _ => if c.val = 2 then s else bump (takeHead s m c f) (.baton m) 21)

/-- Bit of a fused core in CORES_FUSED: 16 for TRC-2/16, 14 for TRC-2/14 (R128). -/
def coresFused (s : State) : Nat := popCount s.units.fused.toNat 16

/-- The payload of an IDENT_RESP (R397). -/
def identPayload (s : State) : List Byte :=
  leBytes 8 Config.serial.toNat ++ leBytes 2 0x0C20 ++ leBytes 1 (coresFused s) ++ leBytes 1 s.units.service.toNat ++
    [Config.firmwareMajor] ++ leBytes 2 Config.firmwareMinor.toNat ++ leBytes 1 (chipId s) ++
    leBytes 5 s.mgmt.returnCode.toNat ++ List.replicate 11 0

/-- A management-core message of one MSG (R397). -/
def isMgmtMsg (f : Frame) (msg : Nat) : Bool := frKind f = 0 && frClass f = 0 && hb f 16 1 = 1 && hb f 17 1 = msg

/-- IDENT_REQ (R397) for this chip, at the head of a receive buffer; one with a payload is no request and gets no answer. -/
def execIdentReq (m : Fin 8) (f : Frame) (s : State) : Res :=
  .next (if isMgmtMsg f 1 && frDst f = chipId s && (getCls (getPort s m) 0).rxbuf.head? = some f then
    let s := takeHead s m 0 f
    if f.payload.isEmpty then
      sendM s (mkM s (frSrc f) 1 2 ([0, 0] ++ leBytes 4 (hb f 20 4)) (identPayload s))
    else s
  else s)

end Sys2Proof.Machine
end

