-- ==== Sys2Proof/Machine/Gun.lean ====
section
/-! DEFINITION. Photo-finish mode, the start gun and the measured link delays (R539 to R554, R572 to R574). -/

namespace Sys2Proof.Machine

open Sys2Proof

/-! ## Details of the Determinism page (R573) -/

def ddArmWait : Nat := 1
def ddAborted : Nat := 2
def ddNoFire : Nat := 3
def ddLate : Nat := 4
def ddPacerConfig : Nat := 5
def ddPeerLost : Nat := 6

/-! ## Photo-finish mode -/

/-- A write of PHOTO_FINISH records a request (R539). -/
def photoFinishWrite (data : Word) (s : State) : State :=
  let v := data.toNat.testBit 0
  { putReg s .global 0x068 (bit01 v) with pfRequest := some v }

/-- PHOTO_FINISH (R539). -/
def execPhotoFinish (a : Access) (data : Word) (s : State) : Res :=
  .next (gated s a .global 0x068 (fun _ => photoFinishWrite data s))

/-- PHOTO_FINISH_ACTIVE takes a value; a change is an external input of the recorder and raises PF_CHANGED (R567, R574). -/
def setPhotoFinish (s : State) (v : Bool) : State :=
  let s := { s with pfRequest := none }
  if v = s.pfActive then s
  else pulseIrq (markInput { s with pfActive := v } ⟨6, 0, BitVec.ofNat 32 (bit01 v), 0⟩) .determinism 5

/-- PHOTO_FINISH_ACTIVATION (R539, R540): a pending request takes effect unless the gun is still ARMED. -/
def execPhotoFinishActivation (s : State) : Res :=
  .next (match s.pfRequest with
    | some v => if s.gun.st = .armed then s else setPhotoFinish s v
    | none => s)

/-! ## Start-gun messages and members (R543, R554) -/

/-- A Determinism message of one MSG. -/
def isDetMsg (f : Frame) (msg : Nat) : Bool := frKind f = 0 && frClass f = 0 && hb f 16 1 = 4 && hb f 17 1 = msg

/-- A Determinism message with its VALUE and ARG. -/
def detMsg (s : State) (dst msg value arg : Nat) : Frame :=
  mkM s dst 4 msg ([0, 0] ++ leBytes 8 value ++ leBytes 4 arg) []

/-- VALUE of a Determinism message. -/
def detValue (f : Frame) : Nat := hb f 20 8
def detArg (f : Frame) : Nat := hb f 28 4

/-- The chips of GUN_MEMBERS, ascending. -/
def gunMembers (s : State) : List Nat :=
  (List.range 8).flatMap (fun i => (bitList (regOf s .determinism (0x060 + 4 * i)) 32).map (fun b => 32 * i + b))

/-- The master: the member with the lowest CHIP_ID; 0 while no member is named. (DEDUCED, entry 99). -/
def gunMaster (s : State) : Nat := (gunMembers s).headD 0

def isMaster (s : State) : Bool := gunMaster s = chipId s

/-- The members other than this chip. -/
def gunOthers (s : State) : List Nat := (gunMembers s).filter (· != chipId s)

/-- GUN_LEAD in units of 1/16 ns. -/
def gunLead (s : State) : Nat := bitsOf (regOf s .determinism 0x048) 15 8 * 16000

def modGun (s : State) (f : Gun → Gun) : State := { s with gun := f s.gun }

/-- GUN_STATE with its interrupt level. -/
def setGunSt (s : State) (st : GunSt) : State := levelIrq (modGun s (fun g => { g with st := st })) .determinism 1 (st = .fired)

/-- The gun goes to FAILED and captures TIMEOUT. -/
def gunFail (s : State) (detail : Nat) : State :=
  let s := if s.gun.st = .failed then s else bump s .determinism 1
  captureOpen (setGunSt (modGun s (fun g => { g with fireAt := none, readyFrom := 0 })) .failed) .determinism stTimeout detail

/-- Send ABORT to every other member. -/
def sendAbort (s : State) : State := (gunOthers s).foldl (fun s d => sendM s (detMsg s d 3 0 0)) s

/-- A write to GUN_CTRL (R544, R572): GUN_ABORT returns the gun to IDLE; GUN_ARM arms it.  A write with both aborts only
(DESIGN CHOICE, entry 60). -/
def gunCtrlWrite (data : Word) (s : State) : State :=
  if data.toNat.testBit 1 then
    let s := setGunSt (modGun s (fun g => { g with ready := false, late := false, fireAt := none, readyFrom := 0 })) .idle
    if isMaster s then sendAbort s else s
  else if data.toNat.testBit 0 then
    setGunSt (modGun s (fun g => { g with ready := false, late := false, fireAt := none })) .armed
  else s

/-- GUN_ARM (R544). -/
def execGunArm (a : Access) (data : Word) (s : State) : Res :=
  .next (gated s a .determinism 0x040 (fun _ => gunCtrlWrite data s))

/-- GUN_ABORT (R572). -/
def execGunAbort (a : Access) (data : Word) (s : State) : Res :=
  .next (gated s a .determinism 0x040 (fun _ => gunCtrlWrite data s))

/-! ## Ready and fire -/

/-- Core `c` is stalled in GUN.WAIT. -/
def inGunWait (s : State) (c : Fin 16) : Bool := (getCore s c).waiting.any (fun x => fOp x.w = 0x89)

/-- Every RUNNING core of GUN_PART is stalled in GUN.WAIT (R544). -/
def coresReady (s : State) : Bool :=
  let p := bitsOf (regOf s .determinism 0x048) 1 0
  (List.finRange 16).all (fun c => !(partOfCore s c = p && (getCore s c).st = .running) || inGunWait s c)

/-- Every member is ready at the master. -/
def allReady (s : State) : Bool := (gunMembers s).all (fun m => s.gun.readyFrom.toNat.testBit m)

/-- The master fixes the fire instant once all are ready, and sends one FIRE to every other member (R545). -/
def masterCheck (s : State) (now : Nat) : State :=
  if isMaster s && s.gun.st = .armed && s.gun.ready && s.gun.fireAt.isNone && allReady s then
    let f := now + gunLead s
    let me := chipId s
    let s := modGun s (fun g => { g with
      fireAt := some f, readyFrom := 0, fires := g.fires.filter (fun x => x.1 != me) ++ (gunOthers s).map (fun d => (me, d, f)) })
    (gunOthers s).foldl (fun s d => sendM s (detMsg s d 2 (f - now) 0)) s
  else s

/-- A member is ready: it is noted at the master. -/
def noteReady (s : State) (m : Nat) : State := modGun s (fun g => { g with readyFrom := g.readyFrom ||| BitVec.ofNat 256 (2 ^ m) })

/-- GUN_READY (R544): READY goes to the master. -/
def execGunReady (now : Nat) (s : State) : Res :=
  .next (if s.gun.st = .armed && !s.gun.ready && coresReady s then
    let s := modGun s (fun g => { g with ready := true })
    if isMaster s then masterCheck (noteReady s (chipId s)) now else sendM s (detMsg s (gunMaster s) 1 0 0)
  else s)

/-- READY (R545). -/
def execReady (m : Fin 8) (f : Frame) (now : Nat) (s : State) : Res :=
  .next (if isDetMsg f 1 && frDst f = chipId s then masterCheck (noteReady (takeHead s m 0 f) (frSrc f)) now else s)

/-- The measured delay of a link; free until it has been measured (entry 67). -/
def linkDelay (s : State) (m : Fin 8) : Nat × State :=
  match (getPort s m).delay with
  | some d => (d, s)
  | none => let x := drawFree s; (x.1.toNat, x.2)

/-- FIRE (R546, R547, R552): a member takes its fire instant; a FIRE for another chip goes on with the instant from which
REMAIN is stamped again. -/
def execFire (m : Fin 8) (f : Frame) (arrival : Nat) (s : State) : Res :=
  .next (if !isDetMsg f 2 then s
    else
      let d := linkDelay s m
      let s := d.2
      let at' := arrival + detValue f - d.1
      if frDst f = chipId s then
        let s := takeHead s m 0 f
        if s.gun.st != .armed then s
        else
          let s := modGun s (fun g => { g with fireAt := some at' })
          if detValue f < d.1 then
            captureOpen (modGun s (fun g => { g with late := true })) .determinism stTimeout ddLate
          else s
      else if !mayForward s m f then s
      else
        let s := modGun s (fun g => { g with
          fires := g.fires.filter (fun x => !(x.1 = frSrc f && x.2.1 = frDst f)) ++ [(frSrc f, frDst f, at')] })
        forwardFrame s m 0 f)

/-- GUN_ABORT_MESSAGE (R553). -/
def execGunAbortMessage (m : Fin 8) (f : Frame) (s : State) : Res :=
  .next (if isDetMsg f 3 && frDst f = chipId s then gunFail (takeHead s m 0 f) ddAborted else s)

/-- GUN_FIRE (R549, R557, R567): at the frame edge at or after f the gun fires; that frame is F.  The cores in GUN.WAIT
issue again through the count of fires, and a waiting Pacer starts. -/
def execGunFire (now : Nat) (s : State) : Res :=
  .next (match s.gun.st, s.gun.fireAt with
    | .armed, some f =>
      if f ≤ now then
        let frame := frameCount s
        let s := modGun s (fun g => { g with fireFrame := BitVec.ofNat 64 frame, fireAt := none })
        let s := setGunSt (bump s .determinism 0) .fired
        let s := markInput s ⟨5, 0, 0, BitVec.ofNat 64 frame⟩
        if s.pacer.st = .waiting then { s with pacer := { s.pacer with st := .running, window := 0 } } else s
      else s
    | _, _ => s)

/-- GUN_ARM_WAIT (R545): the master gives up. -/
def execGunArmWait (s : State) : Res :=
  .next (if s.gun.st = .armed && isMaster s && s.gun.fireAt.isNone then gunFail (sendAbort s) ddArmWait else s)

/-- GUN_NO_FIRE (R553). -/
def execGunNoFire (s : State) : Res :=
  .next (if s.gun.st = .armed && s.gun.fireAt.isNone then gunFail s ddNoFire else s)

/-! ## Link delay (R548) -/

/-- DELAY_MEASUREMENT: an UP port sends DELAY_REQ to its neighbour; t1 is taken again when the frame starts. -/
def execDelayMeasurement (m : Fin 8) (now : Nat) (s : State) : Res :=
  .next (if isUp s m then
    enqueue (modPort s m (fun p => { p with delayT1 := some now, lastRetx := false })) m
      (detMsg s (getPort s m).peerChip.toNat 4 0 0)
  else s)

/-- DELAY_REQ: the answer returns t3 − t2 on the same port. -/
def execDelayReq (m : Fin 8) (f : Frame) (t2 t3 : Nat) (s : State) : Res :=
  .next (if isDetMsg f 4 && frDst f = chipId s then
    let s := takeHead s m 0 f
    enqueue s m (detMsg s (frSrc f) 5 (t3 - t2) 0)
  else s)

/-- DELAY_RESP: d = ((t4 − t1) − (t3 − t2)) / 2; an exchange with a retransmission is discarded. -/
def execDelayResp (m : Fin 8) (f : Frame) (t4 : Nat) (s : State) : Res :=
  .next (if isDetMsg f 5 && frDst f = chipId s then
    let s := takeHead s m 0 f
    match (getPort s m).delayT1 with
    | none => s
    | some t1 =>
      let retx := (getPort s m).lastRetx
      let s := modPort s m (fun p => { p with delayT1 := none })
      if retx then s
      else bump (modPort s m (fun p => { p with delay := some ((t4 - t1 - detValue f) / 2) })) .determinism 2
  else s)

end Sys2Proof.Machine
end

