-- ==== Sys2Proof/Machine/Pacer.lean ====
section
/-! DEFINITION. Pacer mode: two chips in lock-step (R556 to R563, R752). -/

namespace Sys2Proof.Machine

open Sys2Proof

def modPacer (s : State) (f : Pacer → Pacer) : State := { s with pacer := f s.pacer }

/-- PACER_STATE with its interrupt level (R574). -/
def setPacerSt (s : State) (st : PacerSt) : State :=
  levelIrq (modPacer s (fun p => { p with st := st })) .determinism 2 (st = .stopped)

/-- PACER_PORT. -/
def pacerPort (s : State) : Fin 8 := portFin (bitsOf (regOf s .determinism 0x080) 6 4)

/-- A message to the partner over PACER_PORT. -/
def sendPartner (s : State) (msg value arg : Nat) : State :=
  enqueue s (pacerPort s) (detMsg s (getPort s (pacerPort s)).peerChip.toNat msg value arg)

/-- Pacer leaves RUNNING: doorbells that still wait are delivered in arrival order (DESIGN CHOICE, entry 68). -/
def dropBells (s : State) : State :=
  let bells := s.pacer.bells
  bells.foldl (fun s b => liveInput s (.doorbell b.part b.ring b.cq b.value))
    (modPacer s (fun p => { p with bells := [], proposals := [] }))

/-- A doorbell has reached the frame of its own proposal without its partner's (R559). -/
def bellLate (s : State) : Bool := s.pacer.bells.any (fun b => b.partner.isNone && b.frame ≤ frameCount s)

/-- Pacer runs, or the cycle in which it stopped is not over (R752). -/
def pacing (s : State) : Bool := s.pacer.st = .running || s.pacer.stopOpen

/-- A Pacer stop (R563): every running core traps with BREAK and code 1.  Causes that meet in one cycle leave the lowest of
their codes (R752); commands with no tick between them fall in one cycle, and a stop by LATE or INPUT shows the running window
(DESIGN CHOICE, entry 133). -/
def stopPacer (s : State) (cause : Nat) : State :=
  let c := if bellLate s then min cause 3 else cause
  if s.pacer.st = .running then
    dropBells (setPacerSt (stopAll (modPacer s (fun p => { p with
      cause := c, stopOpen := true, stopWindow := if cause < 3 then p.stopWindow else p.window })) 1) .stopped)
  else modPacer s (fun p => { p with cause := min p.cause c })

/-- The checks of R556 that the device makes. -/
def pacerOk (s : State) (x : PartnerMasks) : Bool :=
  let m := pacerPort s
  let peer := (getPort s m).peerChip.toNat
  let u := s.units
  !s.power.spreadActive && !x.spreadActive && isUp s m && peer != chipId s &&
    (gunMembers s = [min peer (chipId s), max peer (chipId s)]) &&
    x.cores = u.cores && x.hbms = u.hbms && x.slices = u.slices && x.ports = u.ports

/-- The fields of the Pacer word besides ENABLE: PACER_PORT is locked, a DEADLINE out of range is ignored (R572). -/
def pacerFields (data : Word) (s : State) : State :=
  let pg := PageId.determinism
  let old := regOf s pg 0x080
  let d := data.toNat
  let port := if (getPage s pg).lock then bitsOf old 6 4 else bitsOf d 6 4
  let dl := bitsOf d 25 16
  putReg (noteLocked s pg 0x080 data) pg 0x080 (16 * port + 65536 * (if 16 ≤ dl then dl else bitsOf old 25 16))

/-- ENABLE goes from 0 to 1: the pair is checked (R556, R557). (DEDUCED, entry 100). -/
def pacerStart (s : State) (x : PartnerMasks) : State :=
  let s := modPacer s (fun p => { p with enable := true })
  if pacerOk s x then
    let peer := (getPort s (pacerPort s)).peerChip.toNat
    setPacerSt { s with pacer := { enable := true, leader := chipId s < peer } } .waiting
  else captureOpen s .determinism stUnsupported ddPacerConfig

/-- ENABLE goes to 0: the mode ends (R572); the record of a stop stays until the next start. -/
def pacerEnd (s : State) : State :=
  dropBells (setPacerSt (modPacer s (fun p => { p with enable := false, stopOpen := false })) .off)

/-- PACER_ENABLE (R556). -/
def execPacerEnable (a : Access) (data : Word) (partner : PartnerMasks) (s : State) : Res :=
  .next (gated s a .determinism 0x080 (fun _ =>
    let s := pacerFields data s
    if data.toNat.testBit 0 then (if s.pacer.enable then s else pacerStart s partner)
    else if s.pacer.enable then pacerEnd s else s))

/-- PACER_DISABLE (R572). -/
def execPacerDisable (a : Access) (data : Word) (s : State) : Res :=
  .next (gated s a .determinism 0x080 (fun _ =>
    let s := pacerFields data s
    if !data.toNat.testBit 0 && s.pacer.enable then pacerEnd s else s))

/-- PACER_RESPONSE_DELIVERY (R558). -/
def execPacerResponseDelivery (present : Bool) (s : State) : Res :=
  .next (if pacing s && !present then stopPacer s 3 else s)

/-! ## Doorbells (R559) -/

/-- A doorbell that arrives while Pacer runs: it is proposed to the partner and waits. -/
def paceBell (s : State) (p r : Nat) (cq : Bool) (v : Word) : State :=
  let f := frameCount s + regOf s .determinism 0x084
  let s := sendPartner s 7 v.toNat (p + 256 * r + 65536 * (f % 65536))
  let old := s.pacer.proposals.find? (fun x => x.1 = p && x.2.1 = r)
  modPacer s (fun x => { x with
    bells := x.bells ++ [⟨p, r, cq, v, f, old.map (fun y => (y.2.2.1, y.2.2.2))⟩],
    proposals := match old with
      | some y => x.proposals.erase y
      | none => x.proposals })

/-- Give the first doorbell of a ring that has no partner yet its partner's proposal. -/
def pairBell (p r frame : Nat) (v : Word) : List PacedBell → Option (List PacedBell)
  | [] => none
  | b :: bs =>
    if b.part = p && b.ring = r && b.partner.isNone then some ({ b with partner := some (frame, v) } :: bs)
    else (pairBell p r frame v bs).map (b :: ·)

/-- PACE: the partner's proposal for the next doorbell of a ring. -/
def execPace (m : Fin 8) (f : Frame) (s : State) : Res :=
  .next (if !(isDetMsg f 7 && frDst f = chipId s) then s
    else
      let s := takeHead s m 0 f
      let p := hb f 28 1
      let r := hb f 29 1
      let v := BitVec.ofNat 32 (detValue f)
      if s.pacer.st != .running then s
      else match pairBell p r (hb f 30 2) v s.pacer.bells with
        | some l => modPacer s (fun x => { x with bells := l })
        | none => modPacer s (fun x => { x with proposals := x.proposals ++ [(p, r, hb f 30 2, v)] }))

/-- The partner's proposed frame, whose low 16 bits the message gives, near this chip's own. -/
def partnerFrame (own low : Nat) : Nat := (own + sgn 16 (low + 65536 - own % 65536)).toNat

/-- PACED_DOORBELL: the oldest waiting doorbell of a ring, at its frame. -/
def execPacedDoorbell (p : Fin 4) (r : Fin 16) (s : State) : Res :=
  .next (match s.pacer.bells.find? (fun b => b.part = p.val && b.ring = r.val) with
    | none => s
    | some b =>
      if s.pacer.st != .running then s
      else match b.partner with
        | none => if b.frame ≤ frameCount s then stopPacer s 3 else s
        | some (low, v) =>
          if frameCount s < max b.frame (partnerFrame b.frame low) then s
          else if v != b.value then stopPacer s 4
          else
            let s := modPacer s (fun x => { x with bells := x.bells.erase b })
            bump (liveInput s (.doorbell b.part b.ring b.cq b.value)) .determinism 4)

/-! ## Digests (R561, R562) -/

/-- Compare the digests of a window once both are there: equal ones are settled. -/
def compareWindow (s : State) (w : Nat) : State :=
  match s.pacer.localDigests.find? (fun x => x.1 = w), s.pacer.peerDigests.find? (fun x => x.1 = w % 2 ^ 32) with
  | some a, some b =>
    let s := bump s .determinism 3
    if a.2 = b.2 then
      modPacer s (fun p => { p with localDigests := p.localDigests.erase a, peerDigests := p.peerDigests.erase b })
    else s
  | _, _ => s

/-- PACER_WINDOW_END: the digest of the window over its trace words is sent to the partner. -/
def execPacerWindowEnd (trace : List DWord) (s : State) : Res :=
  .next (if s.pacer.st != .running then s
    else
      let w := s.pacer.window.toNat
      let d := BitVec.ofNat 64 (crc64Ecma 0 (trace.flatMap (fun x => leBytes 8 x.toNat)))
      let s := modPacer s (fun p => { p with localDigests := p.localDigests ++ [(w, d)], window := p.window + 1 })
      compareWindow (sendPartner s 6 d.toNat (w % 2 ^ 32)) w)

/-- DIGEST: the partner's digest of a window, named by its low 32 bits. -/
def execDigest (m : Fin 8) (f : Frame) (s : State) : Res :=
  .next (if !(isDetMsg f 6 && frDst f = chipId s) then s
    else
      let s := takeHead s m 0 f
      if s.pacer.st != .running then s
      else
        let s := modPacer s (fun p => { p with peerDigests := p.peerDigests ++ [(detArg f, BitVec.ofNat 64 (detValue f))] })
        match s.pacer.localDigests.find? (fun x => x.1 % 2 ^ 32 = detArg f) with
        | some x => compareWindow s x.1
        | none => s)

/-- PACER_STOP (R562, R563): the stop cycle of window w, 1,024(w + 1) + 4,096, is the start of window w + 5; the earliest
window whose digests differ, or whose partner digest has not arrived, stops the chip. -/
def execPacerStop (s : State) : Res :=
  .next (match s.pacer.localDigests with
    | [] => s
    | (w, d) :: _ =>
      if !pacing s || s.pacer.window.toNat < w + 5 then s
      else
        let peer := s.pacer.peerDigests.find? (fun x => x.1 = w % 2 ^ 32)
        let s := modPacer s (fun p => { p with
          stopWindow := BitVec.ofNat 64 w, localDigest := d, peerDigest := (peer.map (·.2)).getD 0 })
        let s := if peer.isSome then s else captureOpen s .determinism stLinkDown ddPeerLost
        stopPacer s (if peer.isSome then 1 else 2))

end Sys2Proof.Machine
end

