-- ==== Sys2Proof/Machine/Recorder.lean ====
section
/-! DEFINITION. The commands of the Split recorder (R564 to R571, R614). -/

namespace Sys2Proof.Machine

open Sys2Proof

/-- The 64 B header of a region (R566). -/
def recHeader (s : State) (complete pf : Bool) (count start : Nat) : List Byte :=
  [0x17, 0x5B, 0x01, BitVec.ofNat 8 (bit01 complete + 2 * bit01 pf), BitVec.ofNat 8 (chipId s), 0, 0, 0] ++
    leBytes 8 count ++ leBytes 8 start ++ List.replicate 40 0

/-- RECORD_COUNT of the header is rewritten (R614). -/
def recCountWrite (s : State) : State := recWrite s 8 (leBytes 8 s.recorder.count)

/-- REC_START in RECORD mode (R567). -/
def recordStart (s : State) : State :=
  let f := frameCount s
  let s := recWrite s 0 (recHeader s false s.pfActive 0 f)
  setRecSt { s with recorder := { startFrame := BitVec.ofNat 64 f } } .recording

/-- REC_START in REPLAY mode (R569): the record is the one the region's header counts. -/
def replayStart (s : State) : State :=
  let total := min (leNat (recRead s 8 8)) (recCap s)
  settleReplay 1 (setRecSt { s with recorder := { total := total } } .replaying)

/-- REC_STOP (R568, R572): a recording is closed, a replay is ended; otherwise there is nothing to stop. -/
def recStop (s : State) : State :=
  match s.recorder.st with
  | .recording =>
    let b := recRead s 3 1
    let s := recWrite (recCountWrite s) 3 (b.map (· ||| 1))
    setRecSt s .idle
  | .replaying => endReplay s .idle
  | _ => s

/-- A recording or a replay is under way. -/
def recBusy (s : State) : Bool := s.recorder.st = .recording || s.recorder.st = .replaying

/-- A write to the recorder's control word (R572): REC_MODE is ignored and counted while the recorder runs (where the write
would change it: DEDUCED, entry 61); then REC_STOP, else REC_START in the mode that stands. -/
def recCtrlWrite (data : Word) (s : State) : State :=
  let d := data.toNat
  let mode := bitsOf d 1 0
  let old := regOf s .determinism 0x0C0
  let s := if mode = old || mode = 3 then s
    else if recBusy s then badAccess s (pageBase .determinism + 0x0C0)
    else putReg s .determinism 0x0C0 mode
  if d.testBit 5 then recStop s
  else if d.testBit 4 && !recBusy s then
    match regOf s .determinism 0x0C0 with
    | 1 => recordStart s
    | 2 => replayStart s
    | _ => s
  else s

/-- RECORD_START (R567). -/
def execRecordStart (a : Access) (data : Word) (s : State) : Res :=
  .next (gated s a .determinism 0x0C0 (fun _ => recCtrlWrite data s))

/-- REPLAY_START (R569). -/
def execReplayStart (a : Access) (data : Word) (s : State) : Res :=
  .next (gated s a .determinism 0x0C0 (fun _ => recCtrlWrite data s))

/-- REC_STOP (R568). -/
def execRecStop (a : Access) (data : Word) (s : State) : Res :=
  .next (gated s a .determinism 0x0C0 (fun _ => recCtrlWrite data s))

/-- RECORD_COUNT_REWRITE (R614). -/
def execRecordCountRewrite (s : State) : Res :=
  .next (if s.recorder.st = .recording then recCountWrite s else s)

/-- Two inputs stand for one another in a replay before their values are compared: the same ring, or the same class and
SRC_CHIP (R569). -/
def sameKey (a b : RecInput) : Bool :=
  a.kind = b.kind && (if a.kind = 1 then a.source = b.source && a.arg0 = b.arg0 else a.arg0 = b.arg0)

/-- The held input that the record at the replay position stands for. -/
def candidate (s : State) (r : RecInput) : Option HeldInput := s.recorder.held.find? (fun h => sameKey (inputOf h) r)

/-- A held doorbell or frame that no remaining record stands for. -/
def strayHeld (s : State) : Bool :=
  let rs := (List.range (s.recorder.total - s.recorder.count)).map (fun i => recAt s (s.recorder.count + i))
  s.recorder.held.any (fun h => match h with
    | .wake _ => false
    | h => !rs.any (fun r => sameKey (inputOf h) r))

/-- REPLAY_RELEASE (R569, R570): a Bittern event comes from the record; a held doorbell or frame must match the record in
full; an input with no record diverges. -/
def execReplayRelease (s : State) : Res :=
  .next (if s.recorder.st != .replaying then s
    else
      let r := recAt s s.recorder.count
      if r.kind = 4 then consumeRec (presentWake s r.arg0.toNat)
      else match candidate s r with
        | some h =>
          if (inputOf h).arg1 = r.arg1 then
            let s := { s with recorder := { s.recorder with held := s.recorder.held.erase h } }
            consumeRec (deliver s h)
          else diverge s
        | none => if strayHeld s then diverge s else s)

/-- REPLAY_INPUT_TIMEOUT (R570): the input of the record at the replay position has not arrived within 100 ms. -/
def execReplayInputTimeout (s : State) : Res :=
  .next (if s.recorder.st != .replaying then s
    else
      let r := recAt s s.recorder.count
      if r.kind = 4 || (candidate s r).isSome then s else diverge s)

end Sys2Proof.Machine
end

