-- ==== Sys2Proof/Machine/Host.lean ====
section
/-! DEFINITION. The host queues: doorbells, rings, descriptor fetch, completion entries and ring interrupts, and the host
commands (R589 to R607, R615, R616, R619 to R623). -/

namespace Sys2Proof.Machine

open Sys2Proof

def qPage (p : Nat) : PageId := .queues (partFin p)

/-- Details of the host queue page and of host commands (R602, R606, R620). -/
def hdRingCfg : Nat := 1
def hdRingFault : Nat := 2
def hdHostAbort : Nat := 4
def hdHostTimeout : Nat := 5
def hdNotOwner : Nat := 6
def hdRange : Nat := 0x10
def hdShape : Nat := 0x11

/-- The function that owns a partition has bus mastering. -/
def busMaster (s : State) (p : Nat) : Bool := (s.fns[partFin p]).busMaster

/-! ## Ring fault (R615) -/

/-- RING_FAULTS as an interrupt level. -/
def ringLevels (s : State) (p : Nat) : State :=
  levelIrq s (qPage p) 3 ((List.range 16).any (fun r => (getRing s p r).fault))

/-- A ring enters FAULT: it is disabled, its contexts stay held, and the log notes it (R615, R743). -/
def ringFault (s : State) (p r : Nat) : State :=
  if (getRing s p r).fault then s
  else
    let s := ringLevels (modRing s p r (fun k => { k with fault := true, enable := false })) p
    let s := captureOpen1 s (qPage p) stUnsupported hdRingFault r
    logFault s 0x0A 0 0x0501 p stUnsupported hdRingFault (p + 256 * r)

/-! ## Doorbells (R593, R623) -/

/-- A doorbell write reaches the page: to a faulted ring it is ignored, to a disabled one counted; while Pacer runs it is
paced, otherwise it is an input of the chip (R559, R567). -/
def bellWrite (s : State) (p r : Nat) (cq : Bool) (data : Word) : State :=
  let v := BitVec.ofNat 32 (data.toNat % 4096)
  if (getRing s p r).fault then s
  else if !takesBell s p r cq then
    badAccess s (pageBase (qPage p) + 0x600 + 8 * r + 4 * bit01 cq)
  else if s.pacer.st = .running then paceBell s p r cq v
  else liveInput s (.doorbell p r cq v)

/-- SQ_DB (R593). -/
def execSqDb (a : Access) (partition : Fin 4) (ring : Fin 16) (data : Word) (s : State) : Res :=
  .next (gated s a (.queues partition) (0x600 + 8 * ring.val) (fun _ => bellWrite s partition ring false data))

/-- CQ_DB (R593). -/
def execCqDb (a : Access) (partition : Fin 4) (ring : Fin 16) (data : Word) (s : State) : Res :=
  .next (gated s a (.queues partition) (0x604 + 8 * ring.val) (fun _ => bellWrite s partition ring true data))

/-! ## Ring configuration (R591, R592, R616) -/

/-- Every field of RING_CFG is in range (R589, R591). -/
def ringCfgOk (d : Nat) : Bool :=
  bitsOf d 2 1 < 3 && 6 ≤ bitsOf d 7 4 && bitsOf d 7 4 ≤ 12 && 6 ≤ bitsOf d 11 8 && bitsOf d 11 8 ≤ 12

/-- A write to RING_CFG: while the ring runs, its fields besides ENABLE stay and a write that would change them counts
(R592); ENABLE from 0 to 1 resets the pointers, unless a field is out of range or the ring runs (R591); ENABLE cleared
stops fetching (R616). -/
def ringCfgWrite (p r : Nat) (data : Word) (s : State) : State :=
  let off := ringReg r 0x10
  let old := ringCfg s p r
  let d := data.toNat
  let fields := d &&& 0x13F0FF6
  let k := getRing s p r
  let running := ringRunning s p r
  let s := if fields = old then s
    else if running then badAccess s (pageBase (qPage p) + off) else putReg s (qPage p) off fields
  if d.testBit 0 then
    if k.enable then s
    else if running || k.fault || !ringCfgOk d then captureOpen1 s (qPage p) stUnsupported hdRingCfg r
    else modRing s p r (fun k => { k with
      enable := true, sqHead := 0, sqTail := 0, cqHead := 0, cqTail := 0, phase := true, unreported := 0 })
  else modRing s p r (fun k => { k with enable := false })

/-- RING_CFG_ENABLE (R591, R592). -/
def execRingCfgEnable (a : Access) (partition : Fin 4) (ring : Fin 16) (data : Word) (s : State) : Res :=
  .next (gated s a (.queues partition) (ringReg ring 0x10) (fun _ => ringCfgWrite partition ring data s))

/-- RING_CFG_DISABLE (R616). -/
def execRingCfgDisable (a : Access) (partition : Fin 4) (ring : Fin 16) (data : Word) (s : State) : Res :=
  .next (gated s a (.queues partition) (ringReg ring 0x10) (fun _ => ringCfgWrite partition ring data s))

/-! ## Descriptor fetch (R586, R588, R595) -/

/-- The next ring of a partition to be served: round robin over the rings that have a descriptor.
(DESIGN CHOICE, entry 8). -/
def nextRing (s : State) (p : Fin 4) : Option Nat :=
  let start := s.rrNext[p]
  ((List.range 16).map (fun i => (start + i) % 16)).find? (fun r =>
    let k := getRing s p r
    k.enable && !k.fault && k.sqHead != k.sqTail)

/-- KIND of a ring (R589). -/
def ringKind (s : State) (p r : Nat) : CtxKind :=
  match bitsOf (ringCfg s p r) 2 1 with
  | 0 => .host
  | 1 => .stork
  | _ => .relay

/-- A descriptor has arrived: it takes the lowest free tag.  While Pacer runs, a Stork or Relay submission completes with
UNSUPPORTED (R560), and so does every one at a page that is not enabled (R103). -/
def takeDescriptor (s : State) (p : Fin 4) (r tag : Nat) (bytes : List Byte) : State :=
  let k := getRing s p r
  let d := BitVec.ofNat 512 (leNat (sliceB bytes 0 64))
  let kind := ringKind s p r
  let s := readInput s p tag (sliceB bytes 0 64)
  let refused := (s.pacer.st = .running && kind != .host) || !(getPage s (qPage p)).enable
  let fence := kind = .host && d.toNat.testBit 8
  let x : Ctx := ⟨.ring p r k.sqHead, kind, p, some d, 0, fence, refused, none, 0⟩
  let s := takeCtx s tag x
  let s := if refused then finishCtx (noteRefused s kind (sliceB bytes 0 64)) tag { code := stUnsupported } else s
  let s := modRing s p r (fun k => { k with sqHead := (k.sqHead + 1) % sqSize s p r })
  let s := { s with rrNext := s.rrNext.set p ((r + 1) % 16) }
  bump (bump s (qPage p) 0) (qPage p) 3 64

/-- DESCRIPTOR_FETCH (R588, R595, R615): nothing is fetched during a repartition (R607), by a page that is quiesced (R102), or
without bus mastering. -/
def execDescriptorFetch (p : Fin 4) (answer : HostRead) (s : State) : Res :=
  .next (
    let pg := getPage s (.queues p)
    if s.power.phase != .ready || s.repart.isSome || quiesced pg || !busMaster s p then s
    else match nextRing s p, freeTag s p with
      | some r, some tag => match answer with
        | .bytes b false => takeDescriptor s p r tag b
        | _ => ringFault s p r
      | _, _ => s)

/-! ## Completion entries (R597 to R600) -/

/-- The 16 bytes of an entry. -/
def entryBytes (tag : Nat) (phase : Bool) (x : Ctx) (r : Result) (ring slot : Nat) : List Byte :=
  leBytes 2 (tag + 32768 * bit01 phase) ++ [r.code, BitVec.ofNat 8 ring] ++ leBytes 2 r.detail ++
    leBytes 2 (match x.kind with
      | .stork | .relay => r.object
      | _ => 0) ++ leBytes 2 slot ++ leBytes 6 r.value

/-- Send the ring's message and start counting anew (R600). -/
def ringMessage (s : State) (p r : Nat) : State :=
  let s := modRing s p r (fun k => { k with unreported := 0 })
  bump (sendMsi s (partFin p) (bitsOf (ringCfg s p r) 21 16)) (qPage p) 2

/-- The CQ has a free slot; one is left free (DEDUCED, entry 62). -/
def cqFree (s : State) (p r : Nat) : Bool :=
  let k := getRing s p r
  (k.cqTail + 1) % cqSize s p r != k.cqHead

/-- Write the entry of a finished context, release the context, and send the ring's message when COUNT entries wait. -/
def writeEntry (s : State) (tag : Nat) (x : Ctx) (res : Result) (p r slot : Nat) : State :=
  let k := getRing s p r
  let base := regOf s (qPage p) (ringReg r 0x08) + regOf s (qPage p) (ringReg r 0x0C) * 2 ^ 32
  let s := emit (.hostWrite (base + 16 * k.cqTail) (entryBytes tag k.phase x res r slot) false) (freeCtx s tag)
  let t := (k.cqTail + 1) % cqSize s p r
  let s := modRing s p r (fun k => { k with
    cqTail := t, phase := if t = 0 then !k.phase else k.phase, unreported := k.unreported + 1 })
  let s := bump (bump s (qPage p) 1) (qPage p) 4 16
  let count := bitsOf (regOf s (qPage p) (ringReg r 0x14)) 7 0
  if (ringCfg s p r).testBit 24 && max 1 count ≤ (getRing s p r).unreported then ringMessage s p r else s

/-- COMPLETION_WRITE (R587, R598, R615). -/
def execCompletionWrite (tag : BitVec 12) (s : State) : Res :=
  .next (match mget s.ctxs tag.toNat with
    | none => s
    | some x => match x.owner, x.result with
      | .ring p r slot, some res =>
        if (getRing s p r).fault then s
        else if !busMaster s p then ringFault s p r
        else if cqFree s p r then writeEntry s tag.toNat x res p r slot
        else s
      | _, _ => s)

/-- COALESCE_TIMER (R600). -/
def execCoalesceTimer (p : Fin 4) (ring : Fin 16) (s : State) : Res :=
  .next (
    let time := bitsOf (regOf s (.queues p) (ringReg ring 0x14)) 19 8
    if (ringCfg s p ring).testBit 24 && time != 0 && (getRing s p ring).unreported != 0 then ringMessage s p ring else s)

/-! ## Host commands (R601 to R606) -/

def hostOp (d : BitVec 512) : Nat := fld d 7 0

/-- Every earlier descriptor of the same ring has its result (R596). (DEDUCED, entry 101). -/
def fenceMet (s : State) (x : Ctx) : Bool :=
  match x.owner with
  | .core _ => true
  | .ring p r _ => !s.ctxs.any (fun y => match y.2.owner with
      | .ring q t _ => q = p && t = r && y.2.order < x.order && y.2.result.isNone
      | .core _ => false)

/-- The context of a HOST descriptor that may be worked on: its ring is not in FAULT, FENCE is met, and the page is not
quiesced before it starts (R102). -/
def hostCtx (s : State) (tag : Nat) : Option (Ctx × BitVec 512) :=
  match mget s.ctxs tag with
  | none => none
  | some x =>
    let faulted := match x.owner with
      | .ring p r _ => (getRing s p r).fault
      | .core _ => true
    match x.kind, x.desc with
    | .host, some d =>
      if x.result.isSome || faulted || (x.fence && !fenceMet s x) || (!x.started && quiesced (getPage s (qPage x.part))) then none
      else some (x, d)
    | _, _ => none

/-- Bits of a descriptor outside the byte ranges given are 0; byte 0 holds OP and byte 1 bit 0 FENCE (R601). -/
def unusedZero (d : BitVec 512) (used : List (Nat × Nat)) : Bool :=
  (List.range 64).all (fun i => i = 0 || used.any (fun u => u.1 ≤ i && i ≤ u.2) ||
    (if i = 1 then fld d 15 9 = 0 else fld d (8 * i + 7) (8 * i) = 0))

/-- Complete a host command. -/
def hostEnd (s : State) (tag : Nat) (code : Byte) (detail value : Nat) : State :=
  finishCtx s tag { code := code, detail := detail, value := value }

/-- HOST_NOP (R601); a reserved OP completes with UNSUPPORTED, SHAPE. -/
def execHostNop (tag : BitVec 12) (s : State) : Res :=
  .next (match hostCtx s tag.toNat with
    | none => s
    | some (_, d) =>
      if hostOp d = 0 then
        if unusedZero d [] then hostEnd s tag.toNat stOk 0 0 else hostEnd s tag.toNat stUnsupported hdShape 0
      else if 4 ≤ hostOp d then hostEnd s tag.toNat stUnsupported hdShape 0
      else s)

/-- A space and address of COPY: byte `i` of the descriptor. -/
def copySpace (d : BitVec 512) (i : Nat) : Nat := fld d (8 * i + 63) (8 * i + 62)
def copyAddr (d : BitVec 512) (i : Nat) : Nat := fld d (8 * i + 59) (8 * i)
def copyLen (d : BitVec 512) : Nat := fld d 255 192

/-- The fields of a COPY are in range (R601, R602). -/
def copyShapeOk (d : BitVec 512) : Bool :=
  unusedZero d [(8, 31)] && [8, 16].all (fun i => fld d (8 * i + 61) (8 * i + 60) = 0 && copySpace d i != 3) &&
    1 ≤ copyLen d && copyLen d ≤ 2 ^ 32 && (copySpace d 8 = 0) != (copySpace d 16 = 0)

/-- The device side of a COPY, checked before the host's answer (R602): PROTECTION ranks above a host error, a fenced
target below it. -/
def copyDevice (s : State) (p : Nat) (d : BitVec 512) : Byte :=
  let side := if copySpace d 8 = 0 then 16 else 8
  devCheck s none p (copySpace d side) (copyAddr d side) (copyLen d) (side = 16)

/-- Host memory is copied to the device. -/
def copyIn (s : State) (tag p : Nat) (d : BitVec 512) (dev : Byte) (answer : HostRead) : State :=
  match answer with
  | .unsupportedRequest | .completerAbort => hostEnd s tag stProtection hdHostAbort 0
  | .completionTimeout => hostEnd s tag stTimeout hdHostTimeout 0
  | .bytes b poisoned =>
    let bs := sliceB b 0 (copyLen d)
    let s := bump (readInput s p tag bs) (qPage p) 3 bs.length
    if dev = stFenced then
      hostEnd (countFenced s p (copySpace d 16) (copyAddr d 16) (copyLen d)) tag stFenced 0 0
    else
      let s := devWrite s none p (copySpace d 16) (copyAddr d 16) (withMark poisoned bs)
      hostEnd s tag (if poisoned then stPoison else stOk) 0 bs.length

/-- Device memory is copied to the host. -/
def copyOut (s : State) (tag p : Nat) (d : BitVec 512) (dev : Byte) : State :=
  if dev = stFenced then
    hostEnd (countFenced s p (copySpace d 8) (copyAddr d 8) (copyLen d)) tag stFenced 0 0
  else
    let r := devRead s none p (copySpace d 8) (copyAddr d 8) (copyLen d)
    let s := emit (.hostWrite (copyAddr d 16) (plain r.1) (anyMark r.1)) r.2
    hostEnd (bump s (qPage p) 4 r.1.length) tag (if anyMark r.1 then stPoison else stOk) 0 r.1.length

/-- COPY (R602). -/
def execCopy (tag : BitVec 12) (answer : HostRead) (s : State) : Res :=
  .next (match hostCtx s tag.toNat with
    | none => s
    | some (x, d) =>
      if hostOp d != 1 then s
      else if !copyShapeOk d then hostEnd s tag.toNat stUnsupported hdShape 0
      else if !busMaster s x.part then
        match x.owner with
        | .ring p r _ => ringFault s p r
        | .core _ => s
      else
        let dev := copyDevice s x.part d
        if dev = stProtection then hostEnd s tag.toNat stProtection hdRange 0
        else if copySpace d 8 = 0 then copyIn s tag.toNat x.part d dev answer
        else copyOut s tag.toNat x.part d dev)

/-- The cores a LAUNCH names, as chip logical ids. -/
def launchCores (s : State) (p : Nat) (d : BitVec 512) : List (Fin 16) :=
  (bitList (fld d 79 64) 16).map (fun i => coreFin (partBase s p + i))

/-- Every named core has left IDLE. -/
def launched (s : State) (cs : List (Fin 16)) : Bool := cs.all (fun c => shownSt (getCore s c) != .idle)

/-- Start the cores of a LAUNCH. -/
def launchAll (s : State) (cs : List (Fin 16)) (pc : Nat) : State :=
  cs.foldl (fun s c => runCore (putReg s (.core c 0) 0x048 (8 * pc)) c) s

/-- LAUNCH (R603, R18): it completes once every named core has left IDLE; a core whose page is not enabled refuses it
(R103).  START_PC beyond the instruction store is out of range.  The detail number of CORE_BUSY is not given. -/
def execLaunch (tag : BitVec 12) (s : State) : Res :=
  .next (match hostCtx s tag.toNat with
    | none => s
    | some (x, d) =>
      if hostOp d != 2 then s
      else
        let cs := launchCores s x.part d
        if x.started then (if launched s cs then hostEnd s tag.toNat stOk 0 0 else s)
        else if !unusedZero d [(8, 9), (12, 13)] || 0x4000 ≤ fld d 111 96 then hostEnd s tag.toNat stUnsupported hdShape 0
        else if 2 ^ partCount s x.part ≤ fld d 79 64 then hostEnd s tag.toNat stUnsupported 0 0
        else if cs.any (fun c => shownSt (getCore s c) != .idle || (getCore s c).resetPending) then
          hostEnd s tag.toNat stUnsupported Config.coreBusyDetail.toNat 0
        else if cs.any (fun c => !(getPage s (.core c 0)).enable) then hostEnd s tag.toNat stUnsupported 0 0
        else
          let s := launchAll (startCtx s tag.toNat) cs (fld d 111 96)
          if launched s cs then hostEnd s tag.toNat stOk 0 0 else s)

/-! ## Repartitioning (R606) -/

/-- Why a REPARTITION is refused: code and detail. (DEDUCED, entry 102). -/
def repartRefusal (s : State) (x : Ctx) (tag : Nat) (d : BitVec 512) : Option (Byte × Nat) :=
  let mode := fld d 71 64
  if x.part != 0 then some (stProtection, hdNotOwner)
  else if !(unusedZero d [(8, 9)] && fld d 79 73 = 0) then some (stUnsupported, hdShape)
  else if (List.finRange 16).any (fun c => shownSt (getCore s c) != .idle) || s.ctxs.any (fun y => y.1 != tag) then
    some (stUnsupported, 0x20)
  else if s.relay.any (fun g => g.2.st != .free) then some (stUnsupported, 0x21)
  else if s.gun.st = .armed || s.pacer.st != .off || recBusy s then some (stUnsupported, 0x22)
  else if s.drain.isSome then some (stUnsupported, 0x23)
  else if 1 < mode || mode = s.mode.toNat then some (stUnsupported, 0x24)
  else none

/-- REPARTITION (R606): the change starts, and ends with REPARTITION_COMPLETE. -/
def execRepartition (tag : BitVec 12) (s : State) : Res :=
  .next (match hostCtx s tag.toNat with
    | none => s
    | some (x, d) =>
      if hostOp d != 3 || s.repart.isSome then s
      else match repartRefusal s x tag.toNat d with
        | some r => hostEnd s tag.toNat r.1 r.2 0
        | none => { startCtx s tag.toNat with repart := some (tag.toNat, fld d 71 64 = 1, d.toNat.testBit 72) })

end Sys2Proof.Machine
end

