-- ==== Sys2Proof/Machine/Fence.lean ====
section
/-! DEFINITION. Failure of a unit in service: fencing of cores, stacks, slices and ports, the conservation check that may
fence a core, and the loss of the minimum service set (R89, R92, R240, R316 to R319, R633 to R635, R652, R743). -/

namespace Sys2Proof.Machine

open Sys2Proof

/-- The physical core of a chip logical core (R70). -/
def physCore (s : State) (c : Nat) : Nat := (bitList s.units.cores.toNat 16).getD c 0

/-- Log a fence in service and show the degraded state (R89, R743). -/
def noteFence (s : State) (pg : PageId) (detail : Nat) : State :=
  let s := if s.units.service = 1 then { s with units := { s.units with service := 2 } } else s
  logFault s 0x02 1 (pageType pg) (pageInst pg) stFenced detail (getPage s pg).errInfo0.toNat

def fencePage (s : State) (pg : PageId) : State := modPage s pg (fun p => { p with fenced := true })

/-- A transfer with a fenced core ends: the survivor's MAC page captures FENCED, and an instruction of the survivor that
waits on it traps with PEER_FENCED (R240): one on the group of an add, and a HALT, which waits for sends and adds. -/
def endTransfer (s : State) (survivor : Nat) (add : Bool) (group : Nat) : State :=
  let d := coreFin survivor
  let s := captureOpen s (.core d 1) stFenced 0
  match (getCore s d).waiting with
  | some x =>
    if fOp x.w = 0x14 || (add && groupOf x.w (getS (getCore s d) (fRd x.w)) = some group) then
      takeTrap s d x.w 0x0A 0 0x0B 0
    else s
  | none => s

/-- The chained reductions of a fenced core end. -/
def endChains (s : State) (c : Nat) : State :=
  let cs := s.chains.filter (fun x => x.src = c || x.dst = c)
  let as := s.chainAdds.filter (fun x => x.src = c || x.dst = c)
  let s := { s with
    chains := s.chains.filter (fun x => x.src != c && x.dst != c),
    chainAdds := s.chainAdds.filter (fun x => x.src != c && x.dst != c) }
  let s := cs.foldl (fun s x => if x.src = c then s else endTransfer s x.src false 0) s
  as.foldl (fun s x => if x.dst = c then s else endTransfer s x.dst true x.group) s

/-- A core is fenced (R92): a running core stops with cause FENCED; its caching agent, its transfers and the Relay groups
that stage on it follow. -/
def fenceCore (s : State) (c : Fin 16) : State :=
  if (getPage s (.core c 0)).fenced || numCores s ≤ c.val then s
  else
    let k := getCore s c
    let u := s.units
    let s := { s with units := { u with failedCores := u.failedCores ||| BitVec.ofNat 16 (2 ^ physCore s c) } }
    let s := if coreRuns k then takeTrap s c (mgetD k.imem 0 (k.pc.toNat / 8)) 0x0D 0 0x0B 0 else s
    let s := (List.finRange 6).foldl (fun s j => fencePage s (.core c j)) s
    let s := modCore s c (fun k => { k with st := .fenced, waiting := none, runPending := false, resetPending := false })
    let s := noteFence s (.core c 0) (if coreRuns k then 0x0D else 0)
    relayCoreFenced (endChains (fenceAgent s c) c) c

/-- A stack is fenced (R633, R634). -/
def fenceStack (s : State) (k : Fin 12) (detail : Nat) : State :=
  if (getPage s (.hbm k)).fenced || !s.units.hbms.toNat.testBit k then s
  else
    let u := s.units
    let b := BitVec.ofNat 12 (2 ^ k.val)
    let s := { s with units := { u with failedHbms := u.failedHbms ||| b, training := u.training &&& ~~~b } }
    let s := levelIrq (fencePage s (.hbm k)) (.hbm k) 3 true
    let s := if detail = 0 then s else captureOpen s (.hbm k) stFenced detail
    relayStackFenced (noteFence s (.hbm k) detail) k

/-- A slice is fenced (R652). -/
def fenceSlice (s : State) (j : Fin 16) : State :=
  if (getPage s (.slice j)).fenced || !s.units.slices.toNat.testBit j then s
  else
    let u := s.units
    let s := { s with units := { u with failedSlices := u.failedSlices ||| BitVec.ofNat 16 (2 ^ j.val) } }
    noteFence (captureOpen (fencePage s (.slice j)) (.slice j) stFenced 3) (.slice j) 3

/-- A port and its link expander are fenced. -/
def fencePort (s : State) (m : Fin 8) : State :=
  if (getPage s (.baton m)).fenced || !s.units.ports.toNat.testBit m then s
  else
    let u := s.units
    let s := { s with units := { u with failedPorts := u.failedPorts ||| BitVec.ofNat 8 (2 ^ m.val) } }
    let s := fencePage (fencePage s (.baton m)) (.expander m)
    noteFence (takeDown s m pdDisabled) (.baton m) 0

/-- UNIT_FENCE (R92). -/
def execUnitFence (unit : UnitName) (s : State) : Res :=
  .next (if s.power.phase != .ready then s
    else match unit with
      | .core c => fenceCore s c
      | .stack k => fenceStack s k 0
      | .slice j => fenceSlice s j
      | .port m => fencePort s m)

/-- STACK_PHY_FAIL (R633). -/
def execStackPhyFail (stack : Fin 12) (s : State) : Res :=
  .next (if s.power.phase = .ready then fenceStack s stack 2 else s)

/-- HBM_PHY_TRAINING_LOSS (R633): a retraining attempt; while it fails, the stack answers as a fenced one. -/
def execHbmPhyTrainingLoss (stack : Fin 12) (retrained : Bool) (s : State) : Res :=
  .next (if s.power.phase != .ready || !s.units.hbms.toNat.testBit stack || (getPage s (.hbm stack)).fenced then s
    else
      let b := BitVec.ofNat 12 (2 ^ stack.val)
      let u := s.units
      bump { s with units := { u with training := if retrained then u.training &&& ~~~b else u.training ||| b } }
        (.hbm stack) 9)

/-- MINIMUM_SERVICE_SET_FAILURE (R88, R89): the device gives no function.  A failed management core or boot flash writes
no log entry.  (DESIGN CHOICE, entry 65). -/
def execMinimumServiceSetFailure (unit : VitalUnit) (s : State) : Res :=
  .next (
    let s := { s with power := { s.power with vitalFailed := some unit, phase := .noFunction } }
    match unit with
    | .pcieEndpoint => logFault s 0x02 3 0 0 stFenced 0 0
    | .rootPll => logFault s 0x02 3 0x0002 0 stFenced 0 0
    | .managementCore | .bootFlash => s)

/-! ## The conservation check (R315 to R319) -/

/-- Set bits of the FLAGS word of a summary record (bytes 56 to 59), and its STATUS byte 60. -/
def markSummary (b : List Byte) (status : Byte) : List Byte :=
  b.take 56 ++ [b.getD 56 0 ||| 0x20] ++ (b.drop 57).take 3 ++ [status] ++ b.drop 61

/-- Write the summary record of a fold. -/
def putSummary (s : State) (c : Fin 16) (f : FoldPend) (b : List Byte) : State :=
  spadWriteP s c f.summaryAddr (withMark f.poisoned b)

/-- The counters of a completed fold (R326). -/
def foldCounts (s : State) (c : Fin 16) (f : FoldPend) : State :=
  let pg := PageId.core c 3
  bump (bump (bump (bump (bump (bump s pg 2 f.elements) pg 3 f.selected) pg 4 f.saturated) pg 5 f.clamped) pg 6 f.quantZero)
    pg 7 f.nar

/-- The fold ends well: its summary, then RD (R314, R315). -/
def foldOk (s : State) (c : Fin 16) (f : FoldPend) : State :=
  let s := putSummary (foldCounts s c f) c f f.summary
  let s := modCore s c (fun k => setS { k with fold := none } f.rd (f.status.zeroExtend 64))
  selReport s c f.flags

/-- CONSERVE_FAIL (R317 to R319): the STATUS byte of the summary is not stated and is free. -/
def foldFail (s : State) (c : Fin 16) (f : FoldPend) (diff : Int) : State :=
  let k := getCore s c
  let again := k.conserveFails != 0
  let d := drawFree (foldCounts s c f)
  let s := putSummary d.2 c f (markSummary f.summary (d.1.setWidth 8))
  let s := modCore s c (fun k => { k with fold := none, conserveFails := min 3 (k.conserveFails + 1) })
  let s := bump (selReport s c (f.flags + 32)) (.core c 3) 10
  let s := captureError (levelIrq s (.core c 3) 2 true) (.core c 3) stConserve 5 f.descAddr (wrap 32 diff)
  let s := logFault s 0x04 0 0x0104 c stConserve 5 c
  let s := match k.st with
    | .running => modCore s c (fun k => { k with pendingTrap := some (5, 0x08) })
    | .trapped | .fenced => s
    | .idle | .halting => takeTrap s c f.w 0x0C 5 0x08 0
  if again then fenceCore s c else s

/-- CONSERVATION_CHECK (R316): the two sums differ exactly where the datapaths have added a fault. -/
def execConservationCheck (c : Fin 16) (fault : BitVec 640) (s : State) : Res :=
  .next (match (getCore s c).fold with
    | none => s
    | some f =>
      let diff := f.inputSide - (f.outputSide + fault.toInt)
      if BitVec.ofInt 640 diff = 0 then foldOk s c f else foldFail s c f diff)

end Sys2Proof.Machine
end

