-- ==== Sys2Proof/Machine/Background.lean ====
section
/-! DEFINITION. The background services: scrubs, recalibration, sensor calibration, flash wear management and telemetry,
and their pauses (R389, R628 to R631, R641, R653 to R663, R720). -/

namespace Sys2Proof.Machine

open Sys2Proof

def modMgmt (s : State) (f : Mgmt → Mgmt) : State := { s with mgmt := f s.mgmt }

/-- BG_PAUSE stops service `i` from starting a unit of work (R654). -/
def bgPaused (s : State) (i : Nat) : Bool := (regOf s .background 0x040).testBit i

/-- Both scrubs run: in service, and not while Pacer runs (R655). -/
def scrubRuns (s : State) (i : Nat) : Bool := s.power.phase = .ready && !bgPaused s i && s.pacer.st != .running

/-! ## Lines with errors -/

/-- UE_EVENTS of a stack has reached UE_RETIRE_LIMIT (R633). -/
def ueLimit (s : State) (k : Fin 12) : Bool :=
  0 < (ctrOf s (.hbm k) 3).toNat && regOf s (.hbm k) 0x044 ≤ (ctrOf s (.hbm k) 3).toNat

/-- The management core fences a stack at its limit of uncorrectable errors (R633). -/
def ueFence (s : State) (k : Fin 12) : State :=
  if s.power.phase = .ready && ueLimit s k then fenceStack s k 3 else s

/-- A scrub finds an uncorrectable error: the data as read is not known (R629). -/
def scrubHard (s : State) (k : Fin 12) (a : Nat) : State :=
  let f := freeBytes 64 s
  ueFence (hbmUncorrectable { f.2 with hbm := f.2.hbm.write (hbmKey k (a / 64 * 64)) f.1 } k a) k

/-- What becomes of a memory cell or a link while a frame passes (R165, R380, R429, R627 to R629, R641): nothing, or one granule
takes an error, which a correctable one shows only to the read that meets it, or a port's FEC corrects codewords or cannot.
Whether, where and which is free (DESIGN CHOICE, entry 105). -/
def upset (s : State) : State :=
  let d := drawFree s
  let n := d.1.toNat
  let s := d.2
  let hard := n.testBit 3
  let unit := bitsOf n 7 4
  let line := bitsOf n 47 8
  if !n.testBit 0 then s
  else match bitsOf n 2 1 with
  | 0 =>
    if hard then
      let f := freeBytes 32 s
      let w := line % (spadBytes / 32)
      modCore f.2 (coreFin unit) (fun k => { k with spad := k.spad.store 32 (32 * w) f.1 true })
    else s
  | 1 =>
    let line := hbmKey (unit % 12) 0 / 64 + line % (stackBytes / 64)
    let f := if hard then freeBytes 64 s else ([], s)
    { f.2 with hbm := f.2.hbm.write (64 * line) f.1, hbmFlaws := mput f.2.hbmFlaws line hard }
  | 2 =>
    let line := line % 0x40000
    let f := if hard then freeBytes 64 s else ([], s)
    { f.2 with cm := f.2.cm.write (64 * line) f.1, cmFlaws := mput f.2.cmFlaws line hard }
  | _ =>
    let m := portFin (unit % 8)
    if (getPort s m).fecLock then bump s (.baton m) (if hard then 5 else 4) (1 + line) else s

/-- Lines of a stack and of a slice. -/
def stackLines : Nat := stackBytes / 64
def sliceLines : Nat := 0x100000 / 64

/-- The stacks a scrub pass covers. -/
def scrubStacks (s : State) : List Nat :=
  (bitList s.units.hbms.toNat 12).filter (fun k => !(getPage s (.hbm (stackFin k))).fenced)

/-- A pass ends when every stack it covers has been read whole (R661, R663). -/
def endPass (s : State) : State :=
  if (scrubStacks s).all (fun k => stackLines ≤ mgetD s.mgmt.scrubPos 0 k) then
    pulseIrq (bump (modMgmt s (fun m => { m with scrubPos := [] })) .background 0) .background 2
  else s

/-- HBM_SCRUB (R653, R628, R629): the read of the next line, with what it finds beside an error the line has taken before. (DESIGN
CHOICE, entry 105). -/
def execHbmScrub (stack : Fin 12) (result : EccResult) (s : State) : Res :=
  .next (
    let i := mgetD s.mgmt.scrubPos 0 stack
    if !scrubRuns s 0 || !(scrubStacks s).contains stack || stackLines ≤ i then s
    else
      let a := 64 * i
      let s := bump s (.hbm stack) 6
      let s := if s.hbm.marked (hbmKey stack a / 64) then bump s (.hbm stack) 4 else s
      let s := if mget s.hbmFlaws (hbmKey stack a / 64) = some false then bump s (.hbm stack) 7 else s
      let s := ueFence (hbmFind s stack a) stack
      let s := match result with
        | .clean => s
        | .correctable => bump (hbmCorrectable s stack a) (.hbm stack) 7
        | .uncorrectable => scrubHard s stack a
      endPass (modMgmt s (fun m => { m with scrubPos := mputD m.scrubPos 0 stack (i + 1) })))

/-- The chip line at a slice-local line index (R640). -/
def chipLine (s : State) (j i : Nat) : Nat := i * (cmSlices s).length + (cmSlices s).idxOf j

/-- CM_SCRUB (R641, R653, R659). -/
def execCmScrub (slice : Fin 16) (result : EccResult) (s : State) : Res :=
  .next (
    let pg := PageId.slice slice
    let i := mgetD s.mgmt.cmScrubPos 0 slice
    let line := chipLine s slice i
    if !scrubRuns s 1 || !s.units.slices.toNat.testBit slice || sliceFenced s slice then s
    else
      let s := cmFind s line
      let s := match result with
        | .clean => s
        | .correctable => bump s pg 9
        | .uncorrectable =>
          let f := freeBytes 64 s
          captureOpen1 (bump { f.2 with cm := f.2.cm.store 64 (64 * line) f.1 true } pg 10) pg stPoison 1 (64 * line)
      modMgmt s (fun m => { m with cmScrubPos := mputD m.cmScrubPos 0 slice ((i + 1) % sliceLines) }))

/-! ## Calibration, flash -/

/-- SERDES_RECALIBRATION (R389): a lane of a port in service. -/
def execSerdesRecalibration (port : Fin 8) (lane : Fin 8) (s : State) : Res :=
  let _ := lane
  .next (if s.power.phase = .ready && !bgPaused s 2 && s.units.ports.toNat.testBit port &&
      !(getPage s (.baton port)).fenced then bump s .background 1 else s)

/-- SENSOR_CALIBRATION (R653, R662): readings hold from its beginning to its end. -/
def execSensorCalibration (begins : Bool) (s : State) : Res :=
  .next (if begins then
      (if s.power.phase = .ready && !bgPaused s 3 then modMgmt s (fun m => { m with calibrating := true }) else s)
    else if s.mgmt.calibrating then bump (modMgmt s (fun m => { m with calibrating := false })) .background 2
    else s)

/-- FLASH_WEAR (R653, R656): erasing a spare sector begins, and the next erase command ends it (DESIGN CHOICE, entry 63); a
moved sector holds what it held. -/
def execFlashWear (action : WearAction) (s : State) : Res :=
  .next (match action with
    | .moveSector => s
    | .eraseSpare =>
      if s.mgmt.erasing then bump (modMgmt s (fun m => { m with erasing := false })) .background 3
      else if s.power.aux && !bgPaused s 4 then modMgmt s (fun m => { m with erasing := true })
      else s)

/-! ## Pauses (R654) -/

/-- A write of BG_PAUSE. -/
def bgPauseWrite (data : Word) (s : State) : State := putReg s .background 0x040 (data.toNat % 32)

/-- BG_PAUSE (R654). -/
def execBgPause (a : Access) (data : Word) (s : State) : Res :=
  .next (gated s a .background 0x040 (fun _ => bgPauseWrite data s))

/-- AUTO_RESUME (R653, R654): only the pauses of recalibration and calibration are limited. -/
def execAutoResume (service : Fin 5) (s : State) : Res :=
  .next (if (service.val = 2 || service.val = 3) && bgPaused s service then
    let s := putReg s .background 0x040 (regOf s .background 0x040 - 2 ^ service.val)
    pulseIrq (bump s .background 6) .background 1
  else s)

/-! ## Telemetry and the throttle (R653, R661, R662, R720, R721, R731) -/

/-- CARD_POWER_W: the mean of the last 100 ms of samples. -/
def cardPower (s : State) : Nat :=
  let l := s.mgmt.powers
  if l.isEmpty then 0 else l.sum / l.length

/-- POWER_LIMIT_W. -/
def powerLimit (s : State) : Nat := bitsOf (regOf s .panel 0x088) 9 0

/-- Degrees Celsius in units of 0.125 °C. -/
def degC (n : Int) : Int := 8 * n

/-- The new level and CRITICAL of R720. -/
def nextThrottle (level : Nat) (critical : Bool) (die hbm : Int) (power limit : Nat) : Nat × Bool :=
  if degC 105 ≤ die || degC 100 ≤ hbm then (8, true)
  else if critical && (degC 95 < die || degC 90 < hbm) then (8, true)
  else if degC 95 ≤ die || degC 90 ≤ hbm || limit < power then (min 8 (level + 1), false)
  else if die ≤ degC 92 && hbm ≤ degC 87 && power + 20 ≤ limit then (level - 1, false)
  else (level, false)

/-- Set the throttle from the readings; THROTTLE_REASON shows the conditions of this sample (DEDUCED, entry 70). -/
def updateThrottle (s : State) : State :=
  let m := s.mgmt
  let p := cardPower s
  let r := nextThrottle m.throttle m.critical m.dieTemp m.hbmTemp p (powerLimit s)
  let reason := bit01 (decide (degC 95 ≤ m.dieTemp)) + 2 * bit01 (decide (degC 90 ≤ m.hbmTemp)) +
    4 * bit01 (decide (powerLimit s < p)) + 8 * bit01 r.2
  let s := modMgmt s (fun m => { m with throttle := r.1, critical := r.2, reason := BitVec.ofNat 4 reason })
  let s := if r.1 = m.throttle then s else bump s .panel 4
  let s := if r.2 && !m.critical then bump s .panel 5 else s
  levelIrq s .panel 3 (0 < r.1)

/-- The panel temperature is read; a crossing of 45 °C rising or 5 °C falling is a change of the record (R731). -/
def readPanelTemp (s : State) (t : Int) : State :=
  let was := s.mgmt.panel.temp
  let crossed := (was ≤ degC 45 && degC 45 < t) || (degC 5 ≤ was && t < degC 5)
  modMgmt s (fun m => { m with panel := { m.panel with temp := t, tempHold := m.panel.tempHold || crossed } })

/-- TELEMETRY_SAMPLE (R653, R662, R720): during calibration the readings hold; without main power only the panel's sensor
is read. -/
def execTelemetrySample (t : Telemetry) (s : State) : Res :=
  .next (if !s.power.aux then s
    else
      let s := bump s .background 5
      let s := if s.mgmt.calibrating then s else readPanelTemp s t.panel
      if !s.power.railsGood then s
      else
        let s := if s.mgmt.calibrating then s else modMgmt s (fun m => { m with
          dieTemp := t.die, hbmTemp := t.hbmTemps.foldl max (t.hbmTemps.headD 0), stackTemps := t.hbmTemps, vcoreMv := t.vcoreMv,
          powers := (m.powers ++ [t.powerW]).drop (m.powers.length - 99) })
        updateThrottle s)

end Sys2Proof.Machine
end

