-- ==== Sys2Proof/Machine/Power.lean ====
section
/-! DEFINITION. Power, clocks and reset: standby and main power, PERST#, divider release, readiness, the drain and every kind
of reset (R82 to R84, R89 to R92, R101, R136, R583, R584, R606 to R618, R622, R704, R706, R714 to R722, R734). -/

namespace Sys2Proof.Machine

open Sys2Proof

def modPower (s : State) (f : Power → Power) : State := { s with power := f s.power }

/-! ## What a reset clears (R609, R610) -/

/-- A page after a full reset: the counters of the Clock and reset page and SPREAD_CTRL stay, the Bittern and Status panel
pages stay whole (R610). -/
def clearedPage (i : Nat) (p : Page) : Page :=
  if i = (pageIdx .bittern).val || i = (pageIdx .panel).val then p
  else if i = (pageIdx .clock).val then { ctrs := p.ctrs, regs := p.regs.filter (fun r => r.1 = 0x044) }
  else {}

def clearedPages (s : State) : Vector Page pageCount := Vector.ofFn (fun i => clearedPage i (s.pages[i]))

/-- The main domain at its reset values.  HBM keeps its contents, configuration space is cleared where `cfg` says so; the
flash, the panel, the sensors and the standby pages stay. -/
def clearMain (s : State) (cfg : Bool) : State :=
  let r := State.reset
  { r with
    pending := s.pending, out := s.out, freeIdx := s.freeIdx, bittern := s.bittern, hbm := s.hbm, hbmFlaws := s.hbmFlaws,
    fns := if cfg then r.fns else s.fns,
    pages := clearedPages s,
    units := { s.units with cores := 0, hbms := 0, slices := 0, ports := 0, service := 0, training := 0 },
    mgmt := { s.mgmt with calibrating := false, scrubPos := [], cmScrubPos := [], identWait := none },
    power := { s.power with
      rootLocked := false, released := false, mgmtOnSclk := false, spreadActive := false, refOffset := 0, phaseValid := false } }

/-- A full reset starts: it is counted and logged, and clears the main domain (R609, R611, R743).  `kind` is 1 requested,
2 internal, 3 link-initiated, 4 fundamental. -/
def startReset (s : State) (kind : Nat) : State :=
  clearMain (logOpen (bump s .clock 2) 0x05 0 0 0 0 kind) (2 < kind)

/-- A reset with the link up: the message of readiness is due (R612, R613). -/
def resetLinkUp (s : State) (kind : Nat) : State :=
  modPower (startReset s kind) (fun p => { p with phase := .resetting, announce := true, internalReset := kind = 2 })

/-! ## WAKE# (R704) -/

def wakePinEn (s : State) : Bool := (regOf s .bittern 0x08C).testBit 16

/-- With main power off, WAKE# is asserted while a wake is pending and the pin is enabled. -/
def wakePinCheck (s : State) : State :=
  if !s.power.railsGood && s.power.aux && s.bittern.wakePending && wakePinEn s && !s.power.wakePin then
    bump (modPower s (fun p => { p with wakePin := true })) .bittern 7
  else s

/-! ## Standby power (R608 to R610, R729, R734) -/

/-- What stands after standby power has been away: only the flash, the image on the panel and the fused cores. -/
def coldState (s : State) : State :=
  let r := State.reset
  let m := s.mgmt
  { r with
    pending := s.pending, out := s.out, freeIdx := s.freeIdx,
    units := { r.units with fused := s.units.fused },
    power := { r.power with perst := s.power.perst, headerPresent := s.power.headerPresent },
    mgmt := { r.mgmt with
      log := m.log, logNext := m.logNext, powerups := m.powerups, returnCode := m.returnCode,
      prevReturnCode := m.prevReturnCode, sectorA := m.sectorA, sectorB := m.sectorB,
      panel := { r.mgmt.panel with
        barDrawn := m.panel.barDrawn, shownSeq := m.panel.shownSeq, shownHold := m.panel.shownHold,
        shownLines := m.panel.shownLines } } }

/-- STANDBY_POWER_UP (R608, R609, R729, R734): the return code moves on, and a redraw of the panel is due. -/
def execStandbyPowerUp (s : State) : Res :=
  .next (modMgmt (coldState s) (fun m => { m with
    powerups := m.powerups + 1, prevReturnCode := m.returnCode, returnCode := 0xA5,
    panel := { m.panel with redrawPending := true } }))

/-- STANDBY_POWER_LOSS (R610). -/
def execStandbyPowerLoss (s : State) : Res :=
  .next (modPower (coldState s) (fun p => { p with aux := false, phase := .noStandby }))

/-! ## Main power (R714 to R719, R722) -/

/-- SENSE_CAP and the largest POWER_LIMIT_W, in watts (R714); 0 where the rails stay off. -/
def senseTable (open0 open1 : Bool) : Nat × Nat :=
  match open0, open1 with
  | false, false => (600, 600)
  | true, false => (450, 510)
  | false, true => (300, 360)
  | true, true => (150, 0)

/-- MAIN_POWER_ARRIVAL (R714 to R716, R733): with SENSE_CAP of 150 W the rails stay off, which is a main power fault. -/
def execMainPowerArrival (sense0Open sense1Open : Bool) (s : State) : Res :=
  .next (if !s.power.aux || s.power.main12v then s
    else
      let t := senseTable sense0Open sense1Open
      let off := t.2 = 0
      let s := modPower s (fun p => { p with main12v := true, senseCap := t.1, maxPowerLimit := t.2, railsOff := off, railFailed := false })
      if off then logOpen s 0x0C 5 0 0 0 1 else putReg s .panel 0x088 t.2)

/-- The readiness timeline starts (R583, R718): the fundamental reset is logged. (DEDUCED, entry 103). -/
def beginBoot (s : State) : State :=
  if s.power.phase = .noFunction then s
  else modPower (startReset s 4) (fun p => { p with phase := .booting, announce := false })

/-- Main power stands, and the rails may come up: none has failed (R718, R719, R722). -/
def railsDue (p : Power) : Bool :=
  p.aux && p.main12v && !p.railsOff && !p.tripLatch && p.needPerst = 0 && !p.railsGood && !p.railFailed

/-- While the rails come up, one may fail, which is a main power fault (R733, R743).  Whether one does is free (DESIGN CHOICE,
entry 109). -/
def railStep (s : State) : State :=
  if railsDue s.power then
    let d := drawFree s
    if d.1.toNat.testBit 0 then logOpen (modPower d.2 (fun p => { p with railFailed := true })) 0x0C 5 0 0 0 2 else d.2
  else s

/-- RAILS_GOOD (R718, R719, R722). -/
def execRailsGood (s : State) : Res :=
  .next (
    let p := s.power
    if !railsDue p then s
    else
      let s := modPower s (fun p => { p with railsGood := true })
      if p.perst then s else beginBoot s)

/-- The main rails go off (R719): everything of the main domain is lost, HBM and configuration space included. -/
def railsDown (s : State) : State :=
  let s := modPower s (fun p => { p with railsGood := false, needPerst := 2 })
  let phase := if s.power.phase = .noFunction then Phase.noFunction else Phase.held
  modPower { clearMain s true with hbm := {}, hbmFlaws := [] } (fun p => { p with phase := phase, announce := false })

/-- MAIN_POWER_LOSS (R719). -/
def execMainPowerLoss (s : State) : Res :=
  .next (if !s.power.main12v then s
    else
      let s := modPower (railsDown s) (fun p => { p with main12v := false })
      wakePinCheck (logOpen s 0x07 0 0 0 0 0))

/-- THERMAL_TRIP (R722). -/
def execThermalTrip (s : State) : Res :=
  .next (if !s.power.railsGood then s
    else
      let die := wrap 12 s.mgmt.dieTemp
      let s := modPower (railsDown s) (fun p => { p with tripLatch := true })
      wakePinCheck (logOpen s 0x08 4 0 0 0 die))

/-! ## PERST#, link and ROOT (R608, R136, R704, R719) -/

/-- PERST_ASSERT (R608, R722, R746): every action in progress ends, and the trip latch clears. -/
def execPerstAssert (s : State) : Res :=
  .next (if s.power.perst || !s.power.aux then s
    else
      let phase := if s.power.phase = .noFunction then Phase.noFunction else Phase.held
      modPower (clearMain s true) (fun p => { p with
        perst := true, tripLatch := false, phase := phase, announce := false,
        needPerst := if p.needPerst = 2 then 1 else p.needPerst }))

/-- PERST_DEASSERT (R583, R704, R718). -/
def execPerstDeassert (s : State) : Res :=
  .next (if !s.power.perst || !s.power.aux then s
    else
      let s := modPower s (fun p => { p with
        perst := false, wakePin := false, needPerst := if p.needPerst = 1 then 0 else p.needPerst })
      if s.power.railsGood then beginBoot s else s)

/-- The device runs, boots or resets. -/
def isOn (s : State) : Bool := s.power.phase = .ready || s.power.phase = .booting || s.power.phase = .resetting

/-- LINK_INITIATED_RESET (R608). -/
def execLinkInitiatedReset (s : State) : Res :=
  .next (if isOn s then modPower (startReset s 3) (fun p => { p with phase := .booting, announce := false }) else s)

/-- ROOT_LOCK_LOSS (R136, R746): during a boot that trains the link, the boot starts again. -/
def execRootLockLoss (s : State) : Res :=
  .next (if !isOn s || !s.power.rootLocked then s
    else
      let booting := s.power.phase = .booting
      let s := resetLinkUp (logOpen (bump s .clock 1) 0x06 0 0x0002 0 0 0) 2
      if booting then modPower s (fun p => { p with phase := .booting, announce := false }) else s)

/-- DIVIDER_RELEASE (R82 to R84, R79, R555, R711). -/
def execDividerRelease (refCoincides refInPresent : Bool) (s : State) : Res :=
  .next (if !(s.power.phase = .booting || s.power.phase = .resetting) || s.power.released then s
    else
      let s := modPower s (fun p => { p with
        rootLocked := true, released := true, mgmtOnSclk := true, spreadActive := (regOf s .clock 0x044).testBit 0,
        refOffset := if refCoincides then 0 else 24, phaseValid := true, refExt := refInPresent })
      modPage s .clock (fun p => { p with ctrs := mdel p.ctrs 0 }))

/-! ## Readiness (R89 to R92, R101, R583, R584, R613, R706) -/

/-- The units that remain: fused, passed by the self-test and not fenced before (R92; DEDUCED, entry 71).
(DESIGN CHOICE, entry 5). -/
def serviceUnits (u : Units) (t : SelfTest) : Units :=
  let cores := u.fused &&& ~~~t.cores &&& ~~~u.failedCores
  let hbms := ~~~t.hbms &&& ~~~u.failedHbms
  let slices := ~~~t.slices &&& ~~~u.failedSlices
  let ports := ~~~t.ports &&& ~~~u.failedPorts
  let recovery := !hbms.toNat.testBit 0 || !slices.toNat.testBit 0 || cores = 0
  let full := cores = u.fused && hbms = BitVec.allOnes 12 && slices = BitVec.allOnes 16 && ports = BitVec.allOnes 8
  { fused := u.fused, cores := cores, hbms := hbms, slices := slices, ports := ports,
    service := if recovery then 3 else if full then 1 else 2 }

/-- The pages of the units in service (R92, R639); a core's pages by chip logical id. -/
def servicePages (s : State) : List PageId :=
  [.global, .clock, .mailbox, .determinism, .windows, .keys, .bittern, .panel, .background] ++
    (if fewSlices s then [] else [.relay, .stork]) ++
    ((List.finRange 16).filter (fun (c : Fin 16) => c.val < numCores s)).flatMap (fun (c : Fin 16) => (List.finRange 6).map (PageId.core c)) ++
    ((List.finRange 8).filter (fun (m : Fin 8) => s.units.ports.toNat.testBit m.val)).flatMap (fun (m : Fin 8) => [PageId.baton m, PageId.expander m]) ++
    ((List.finRange 12).filter (fun (k : Fin 12) => s.units.hbms.toNat.testBit k.val)).map PageId.hbm ++
    ((List.finRange 16).filter (fun (j : Fin 16) => s.units.slices.toNat.testBit j.val)).map PageId.slice ++
    (List.finRange 4).map PageId.queues

/-- Log the units that the self-test disabled: page type and physical number (R743). -/
def logTest (s : State) (t : SelfTest) : State :=
  let one := fun (block n : Nat) (mask : Nat) (s : State) =>
    (bitList mask n).foldl (fun s i => logFault s 0x01 1 block i stFenced 0 0) s
  one 0x0201 8 t.ports.toNat (one 0x0402 16 t.slices.toNat (one 0x0401 12 t.hbms.toNat
    (one 0x0101 16 (t.cores &&& s.units.fused).toNat s)))

/-- Log the recovery state, with the unit that caused it (R89, R743). -/
def logRecovery (s : State) : State :=
  if s.units.service != 3 then s
  else
    let u := s.units
    let block := if !u.hbms.toNat.testBit 0 then 0x0401 else if !u.slices.toNat.testBit 0 then 0x0402 else 0x0101
    logFault s 0x0B 2 block 0 stFenced 0 0

/-- Vector 63 of every function with MSI-X enabled (R613). -/
def announceReady (s : State) : State := (List.finRange 4).foldl (fun s f => sendMsi s f 63) s

/-- Bittern presents its line once the device is ready (R706), but not in the recovery state (R751). -/
def presentBittern (s : State) : State :=
  if s.units.service = 3 then s
  else
    let s := if s.bittern.wakePending then bump s .bittern 7 else s
    if pageLine (getPage s .bittern) then deliverSrc s (pageSrc .bittern) else s

/-- STATUS_READY (R583, R613). -/
def execStatusReady (test : SelfTest) (s : State) : Res :=
  .next (if !(s.power.phase = .booting || s.power.phase = .resetting) || !s.power.released then s
    else
      let announce := s.power.announce
      let s := logTest { s with units := serviceUnits s.units test } test
      let s := logRecovery s
      let s := (servicePages s).foldl (fun s pg => modPage s pg (fun p => { p with enable := true, ready := true })) s
      let s := modPower s (fun p => { p with phase := .ready, announce := false })
      presentBittern (if announce then announceReady s else s))

/-! ## The drain (R617, R618, R622) -/

/-- DRAIN_PERIOD of a partition, in ms. -/
def drainPeriod (s : State) (p : Nat) : Nat := min 5000 (regOf s (qPage p) 0x04C)

/-- DRAIN as the level of every host queue page. -/
def drainLevels (s : State) : State :=
  (List.finRange 4).foldl (fun s p => levelIrq s (.queues p) 1 s.drain.isSome) s

/-- The requested full reset itself, of a device that is on. -/
def requestedReset (s : State) : State :=
  if isOn s then resetLinkUp { s with drain := none } 1 else { s with drain := none }

/-- A partition that holds no context and has no ring enabled. -/
def quietPart (s : State) (p : Nat) : Bool :=
  ctxUsed s p = 0 && (List.range 16).all (fun r => !(getRing s p r).enable)

/-- A drain starts on behalf of partition `origin` (R617); with every partition acknowledged the reset follows at once. -/
def startDrain (s : State) (origin : Nat) : State :=
  let acked := (List.range 4).filter (fun p => p = origin || quietPart s p)
  let waiting := (List.range 4).filter (fun p => !acked.contains p)
  if waiting.isEmpty then requestedReset s
  else drainLevels { s with drain := some {
    acked := BitVec.ofNat 4 ((acked.map (2 ^ ·)).sum), remainMs := (waiting.map (drainPeriod s)).foldl max 0 } }

/-- A partition acknowledges (R617). -/
def ackDrain (s : State) (p : Nat) : State :=
  match s.drain with
  | none => s
  | some d =>
    let a := d.acked ||| BitVec.ofNat 4 (2 ^ p)
    if a = BitVec.allOnes 4 then requestedReset s else { s with drain := some { d with acked := a } }

/-- A reset request (R617, R618, R622): one drain runs at a time, and one that meets a repartition waits for it.  Of requests
that meet in one cycle, each acknowledges for its partition. -/
def requestFull (s : State) (p : Nat) : State :=
  if s.drain.isSome then (if s.drain.any (·.frames = 0) then ackDrain s p else s)
  else if s.repart.isSome then { s with queuedReset := some (s.queuedReset.getD p) }
  else startDrain s p

/-- A write of FULL_RESET. -/
def fullResetWrite (data : Word) (s : State) : State := if data = 0x5A5A0001 then requestFull s 0 else s

/-- FULL_RESET (R128, R617). -/
def execFullReset (a : Access) (data : Word) (s : State) : Res :=
  .next (gated s a .global 0x06C (fun _ => fullResetWrite data s))

/-- A write of RESET_REQUEST, which is counted (R618, R619). -/
def resetRequestWrite (p : Nat) (data : Word) (s : State) : State :=
  if data = 0x5A5A0002 then requestFull (bump s (qPage p) 7) p else s

/-- RESET_REQUEST (R617, R618); one that meets an internal reset is discarded and counted (R748), one that meets a requested
reset is dropped (R612). -/
def execResetRequest (a : Access) (partition : Fin 4) (data : Word) (s : State) : Res :=
  .next (if s.power.phase = .resetting then
      (if s.power.internalReset && data = 0x5A5A0002 && a.fn = partition && a.be = 0xF then bump s (.queues partition) 7 else s)
    else gated s a (.queues partition) 0x048 (fun _ => resetRequestWrite partition data s))

/-- DRAIN_ACK (R617). -/
def execDrainAck (a : Access) (partition : Fin 4) (data : Word) (s : State) : Res :=
  .next (gated s a (.queues partition) 0x044 (fun _ => if data.toNat.testBit 0 then ackDrain s partition else s))

/-- DRAIN_PERIOD_END (R617). -/
def execDrainPeriodEnd (s : State) : Res := .next (if s.drain.isSome then requestedReset s else s)

/-! ## The end of a repartition (R607, R488) -/

/-- What a repartition zeroes of a core (R607). -/
def zeroedCore (k : Core) : Core := { k with spad := {}, imem := [], pool := [], slots := [], ladder := none }

/-- Every window is revoked, every queue unbound and every key slot cleared (R488). -/
def clearStork (s : State) : State :=
  let valid := (s.stork.windows.filter (fun w => w.2.valid)).map (·.1)
  modStork (valid.foldl revokeWindow s) (fun k => { k with queues := [], keys := [] })

/-- Curlew table slots and Stork logs are zeroed. -/
def zeroTables (s : State) : State :=
  { s with
    cm := { cells := s.cm.cells.filter (fun x => 0x10000 ≤ x.1 && !(0x410000 ≤ x.1 && x.1 < 0x414000)),
            marks := s.cm.marks.filter (fun l => 0x400 ≤ l && !(0x10400 ≤ l && l < 0x10500)) },
    cmFlaws := s.cmFlaws.filter (fun x => 0x400 ≤ x.1 && !(0x10400 ≤ x.1 && x.1 < 0x10500)),
    dir := s.dir.filter (fun x => 0x400 ≤ x.1 && !(0x10400 ≤ x.1 && x.1 < 0x10500)) }

/-- Every ring is disabled and its registers return to their reset values; a ring in FAULT keeps it (R607, R615). -/
def resetRings (s : State) : State :=
  let s := { s with rings := s.rings.map (fun k => { fault := k.fault }), rrNext := Vector.replicate 4 0 }
  (List.finRange 4).foldl (fun s p => modPage s (.queues p) (fun x => { x with regs := x.regs.filter (fun r => r.1 < 0x100) })) s

/-- Windows, tables and memories are zeroed, and the new partitioning is in force (R607, steps 2 to 5). -/
def newPartitions (s : State) (day zero : Bool) : State :=
  let s := zeroTables (clearStork s)
  { s with
    cores := s.cores.map zeroedCore, hbm := if zero then {} else s.hbm,
    hbmFlaws := if zero then [] else s.hbmFlaws, mode := if day then 1 else 0, repart := none }

/-- The rings are disabled, and a reset request that came meanwhile takes effect (R607, R622). -/
def afterRepartition (s : State) : State :=
  let s := resetRings s
  match s.queuedReset with
  | some q => startDrain { s with queuedReset := none } q
  | none => s

/-- The new partitioning is in force, and the completion entry is written (R607). -/
def endRepartition (s : State) (tag : Nat) (day zero : Bool) (x : Ctx) (p r slot : Nat) : State :=
  afterRepartition (writeEntry (newPartitions s day zero) tag x { code := stOk } p r slot)

/-- REPARTITION_COMPLETE (R607, R622): it waits while its completion entry cannot be written. -/
def execRepartitionComplete (s : State) : Res :=
  .next (match s.repart with
    | none => s
    | some (tag, day, zero) => match mget s.ctxs tag with
      | none => { s with repart := none }
      | some x => match x.owner with
        | .ring p r slot =>
          if (getRing s p r).fault || !busMaster s p then endRepartFault s p r tag day zero
          else if cqFree s p r then endRepartition s tag day zero x p r slot
          else s
        | .core _ => { s with repart := none })
where
  /-- The submitting ring can write no entry: it is in FAULT, and its context stays held. -/
  endRepartFault (s : State) (p r tag : Nat) (day zero : Bool) : State :=
    afterRepartition (finishCtx (newPartitions (ringFault s p r) day zero) tag { code := stOk })

end Sys2Proof.Machine
end

