-- ==== Sys2Proof/Machine/Pcie.lean ====
section
/-! DEFINITION. The PCI Express functions: configuration requests, power states, bus mastering and the MSI-X table (R90,
R126, R577 to R583, R612, R615). -/

namespace Sys2Proof.Machine

open Sys2Proof

def modFn (s : State) (fn : Fin 4) (f : PcieFn → PcieFn) : State := { s with fns := s.fns.set fn (f s.fns[fn]) }

/-- Configuration requests complete normally: in service, and during a reset that keeps the link up (R583, R612). -/
def cfgServed (s : State) : Bool := s.power.phase = .ready || s.power.phase = .resetting

/-- Bus Master Enable is cleared: every running ring of the function enters FAULT (R615). -/
def dropBusMaster (s : State) (fn : Fin 4) : State :=
  let s := modFn s fn (fun f => { f with busMaster := false })
  (List.range 16).foldl (fun s r => if ringRunning s fn r then ringFault s fn r else s) s

/-- The value of a configuration register, as the specification names it (R577 to R581, R90): sizes in bytes, the MSI-X
table in vectors, the power state by its number. -/
def cfgRead (s : State) (fn : Fin 4) (r : ConfigReg) : Nat :=
  let f := s.fns[fn]
  let recovery := s.units.service = 3 && fn = 0
  match r with
  | .deviceId => if recovery then 0x0C2F else 0x0C20
  | .revisionId => 0x01
  | .classCode => if recovery then 0xFF5001 else 0x120000
  | .serialLo => fld Config.serial 31 0
  | .serialHi => fld Config.serial 63 32
  | .flrSupported => 0
  | .initiateFlr => 0
  | .busMasterEnable => bit01 f.busMaster
  | .powerState => if f.d3hot then 3 else 0
  | .noSoftReset => 1
  | .msixEnable => bit01 f.msixEnable
  | .msixFunctionMask => bit01 f.msixFunctionMask
  | .msixTableSize => 64
  | .bar0Size => 0x4000000
  | .bar2Size => 0x10000
  | .maxPayloadSupported => 512
  | .aspmSupport => 0
  | .maxReadRequest => 4096
  | .tenBitTagRequester => 1
  | .relaxedOrdering => 1
  | .aerPresent => 1
  | .msixTableBar => 2
  | .msixTableOffset => 0
  | .msixPbaBar => 2
  | .msixPbaOffset => 0x8000
  | .bar4Size => 0
  | .bar5Size => 0
  | .d1d2Support => 0

/-- A configuration write: Initiate Function Level Reset and the registers that report are without effect (R578). -/
def cfgWrite (s : State) (fn : Fin 4) (r : ConfigReg) (w : Word) : State :=
  let b := w.toNat.testBit 0
  match r with
  | .busMasterEnable => if b then flushFn (modFn s fn (fun f => { f with busMaster := true })) fn else dropBusMaster s fn
  | .powerState =>
    if bitsOf w.toNat 1 0 = 3 then modFn s fn (fun f => { f with d3hot := true })
    else if bitsOf w.toNat 1 0 = 0 then flushFn (modFn s fn (fun f => { f with d3hot := false })) fn
    else s
  | .msixEnable => flushFn (modFn s fn (fun f => { f with msixEnable := b })) fn
  | .msixFunctionMask => flushFn (modFn s fn (fun f => { f with msixFunctionMask := b })) fn
  | .deviceId | .revisionId | .classCode | .serialLo | .serialHi | .flrSupported | .initiateFlr | .noSoftReset
  | .msixTableSize | .bar0Size | .bar2Size | .maxPayloadSupported | .aspmSupport | .maxReadRequest | .tenBitTagRequester
  | .relaxedOrdering | .aerPresent | .msixTableBar | .msixTableOffset | .msixPbaBar | .msixPbaOffset | .bar4Size | .bar5Size
  | .d1d2Support => s

/-- CONFIG_REQUEST (R578, R583, R89): Request Retry Status while the device boots or gives no function; a device whose link
is down answers nothing. -/
def execConfigRequest (fn : Fin 4) (reg : ConfigReg) (write : Option Word) (s : State) : Res :=
  .next (if cfgServed s then
      match write with
      | some w => cfgWrite s fn reg w
      | none => emit (.configData (BitVec.ofNat 32 (cfgRead s fn reg))) s
    else if s.power.phase = .booting || s.power.phase = .noFunction then emit .configRetry s
    else s)

/-- D3HOT_ENTRY (R581). -/
def execD3hotEntry (fn : Fin 4) (s : State) : Res :=
  .next (if cfgServed s then modFn s fn (fun f => { f with d3hot := true }) else s)

/-- D0_RETURN (R581): nothing is reset, and held messages go. -/
def execD0Return (fn : Fin 4) (s : State) : Res :=
  .next (if cfgServed s then flushFn (modFn s fn (fun f => { f with d3hot := false })) fn else s)

/-- MSIX_UNMASK (R126): the table lies in BAR2, which a function in D3hot does not decode. -/
def execMsixUnmask (fn : Fin 4) (vector : Fin 64) (s : State) : Res :=
  .next (if cfgServed s && !(s.fns[fn]).d3hot then
    flushVector (modFn s fn (fun f => { f with
      vectors := f.vectors.set vector { f.vectors[vector] with masked := false } })) fn vector
  else s)

/-- BUS_MASTER_DISABLE (R615). -/
def execBusMasterDisable (fn : Fin 4) (s : State) : Res := .next (if cfgServed s then dropBusMaster s fn else s)

end Sys2Proof.Machine
end

