-- ==== Sys2Proof/Machine/Mailbox.lean ====
section
/-! DEFINITION. The panel record and the management mailbox: its commands, their results, and the identity exchange (R91,
R129 to R132, R397, R724). -/

namespace Sys2Proof.Machine

open Sys2Proof

/-! ## The committed record (R724) -/

/-- A copy of the record is valid: MAGIC, VERSION and CRC. -/
def copyValid (c : RecordCopy) : Bool :=
  leField c.bytes 0 2 = 0x7E4C && leField c.bytes 2 1 = 1 && leField c.bytes 248 4 = crc32c (sliceB c.bytes 0 248)

def copySeq (c : RecordCopy) : Nat := leField c.bytes 4 4

/-- Sector A holds the committed record; else sector B does. -/
def committedInA (s : State) : Bool :=
  match s.mgmt.sectorA, s.mgmt.sectorB with
  | some a, some b => copyValid a && (!copyValid b || copySeq b < copySeq a)
  | some a, none => copyValid a
  | none, _ => false

/-- The committed record: the valid copy with the higher SEQUENCE. -/
def committed (s : State) : Option RecordCopy :=
  if committedInA s then s.mgmt.sectorA
  else match s.mgmt.sectorB with
    | some b => if copyValid b then some b else none
    | none => none

/-! ## The mailbox -/

def modBox (s : State) (f : Mailbox → Mailbox) : State := { s with mailbox := f s.mailbox }

/-- Details of R132. -/
def mdBadOp : Nat := 1
def mdBadArg : Nat := 2
def mdNotHeld : Nat := 3
def mdNoRecord : Nat := 4
def mdNoPorts : Nat := 5
def mdNoAnswer : Nat := 6

/-- A command starts (R130). -/
def boxStart (s : State) : State := levelIrq { s with mailbox := { busy := true } } .mailbox 1 false

/-- A command completes with its result, detail and response (R130, R132). -/
def boxDone (s : State) (code : Byte) (detail : Nat) (data : List Byte) : State :=
  let s := modBox s (fun _ => ⟨false, true, code, BitVec.ofNat 16 detail, data⟩)
  let s := bump s .mailbox 0
  let s := if code = stOk then s else bump s .mailbox 1
  levelIrq s .mailbox 1 true

def boxRefuse (s : State) (detail : Nat) : State := boxDone s stUnsupported detail []

def mbOp (s : State) : Nat := regOf s .mailbox 0x040
def mbArg0 (s : State) : Nat := regOf s .mailbox 0x044
def mbArg1 (s : State) : Nat := regOf s .mailbox 0x048

/-- LOG_INFO: 16 B. -/
def logInfo (s : State) : List Byte :=
  let l := s.mgmt.log
  leBytes 4 (l.head?.elim 0 (·.seq.toNat)) ++ leBytes 4 (l.getLast?.elim 0 (·.seq.toNat)) ++ leBytes 4 l.length ++
    leBytes 4 s.mgmt.sincePowerup.toNat

/-- READ_LOG: the held entries of the range. -/
def readLog (s : State) : State :=
  let n := bitsOf (mbArg1 s) 2 0
  if 8 ≤ mbArg1 s || n = 0 || 4 < n then boxRefuse s mdBadArg
  else
    let es := (List.range n).filterMap (fun i =>
      s.mgmt.log.find? (fun e => e.seq = BitVec.ofNat 32 (mbArg0 s + i)))
    if es.isEmpty then boxRefuse s mdNotHeld else boxDone s stOk 0 (es.flatMap logBytes)

/-- READ_RECORD: one half. -/
def readRecord (s : State) : State :=
  if 2 ≤ mbArg0 s then boxRefuse s mdBadArg
  else match committed s with
    | some c => boxDone s stOk 0 (sliceB c.bytes (128 * mbArg0 s) 128)
    | none => boxRefuse s mdNoRecord

/-- READ_RETURN_CODE. -/
def readReturnCode (s : State) : State :=
  match committed s with
  | some c => boxDone s stOk 0 (leBytes 5 s.mgmt.returnCode.toNat ++ leBytes 5 s.mgmt.prevReturnCode.toNat ++
      leBytes 4 (copySeq c) ++ [0, 0])
  | none => boxRefuse s mdNoRecord

/-- REMOTE_IDENT: the request leaves, and the command stays busy until an answer or 1 ms (R131, R132, R91).  A reserved
argument bit is looked at before the recovery state and the ports (DESIGN CHOICE, entry 121). -/
def remoteIdent (s : State) : State :=
  let dst := mbArg0 s
  if 256 ≤ dst then boxRefuse s mdBadArg
  else if s.units.service = 3 || !(List.range 8).any (isUp s) || dst = chipId s then boxRefuse s mdNoPorts
  else
    let id := s.mgmt.identNext
    let s := modMgmt s (fun m => { m with identWait := some id, identNext := id + 1 })
    sendM s (mkM s dst 1 1 ([0, 0] ++ leBytes 4 id.toNat) [])

/-- The command that MB_OP names; a page that is not enabled answers UNSUPPORTED (R103), with detail 0 (DESIGN CHOICE, entry
122). -/
def boxRun (s : State) : State :=
  if !(getPage s .mailbox).enable then boxRefuse s 0
  else match mbOp s with
  | 0 => boxDone s stOk 0 []
  | 1 => boxDone s stOk 0 (logInfo s)
  | 2 => readLog s
  | 3 => readRecord s
  | 4 => readReturnCode s
  | 5 => remoteIdent s
  | _ => boxRefuse s mdBadOp

/-- A write of MB_GO (R130): refused and counted while a command runs; the command of a quiesced page waits (R102). -/
def boxGo (s : State) : State :=
  if s.mailbox.busy then badAccess s (pageBase .mailbox + 0x04C)
  else if quiesced (getPage s .mailbox) then boxStart s
  else boxRun (boxStart s)

/-- A command that QUIESCE held starts (R102). -/
def boxResume (s : State) : State :=
  if s.mailbox.busy && s.mgmt.identWait.isNone && !quiesced (getPage s .mailbox) then boxRun s else s

/-- MB_GO with one MB_OP. (DESIGN CHOICE, entry 92). -/
def boxCommand (a : Access) (op : Nat) (s : State) : State :=
  gated s a .mailbox 0x04C (fun _ => if mbOp s = op then boxGo s else s)

/-- NOP (R131). -/
def execMbNop (a : Access) (s : State) : Res := .next (boxCommand a 0 s)

/-- LOG_INFO (R131). -/
def execMbLogInfo (a : Access) (s : State) : Res := .next (boxCommand a 1 s)

/-- READ_LOG (R131). -/
def execMbReadLog (a : Access) (s : State) : Res := .next (boxCommand a 2 s)

/-- READ_RECORD (R131). -/
def execMbReadRecord (a : Access) (s : State) : Res := .next (boxCommand a 3 s)

/-- READ_RETURN_CODE (R131). -/
def execMbReadReturnCode (a : Access) (s : State) : Res := .next (boxCommand a 4 s)

/-- REMOTE_IDENT (R131). -/
def execMbRemoteIdent (a : Access) (s : State) : Res := .next (boxCommand a 5 s)

/-- REMOTE_IDENT_TIMEOUT (R132). -/
def execRemoteIdentTimeout (s : State) : Res :=
  .next (match s.mgmt.identWait with
    | some _ => boxDone (modMgmt s (fun m => { m with identWait := none })) stTimeout mdNoAnswer []
    | none => s)

/-- IDENT_RESP (R397): the answer to the request under way completes it with its 32 B payload. -/
def execIdentResp (m : Fin 8) (f : Frame) (s : State) : Res :=
  .next (if isMgmtMsg f 2 && frDst f = chipId s then
    let s := takeHead s m 0 f
    if s.mgmt.identWait = some (BitVec.ofNat 32 (hb f 20 4)) then
      boxDone (modMgmt s (fun m => { m with identWait := none })) stOk 0 (sliceB f.payload 0 32)
    else s
  else s)

end Sys2Proof.Machine
end

