-- ==== Sys2Proof/Machine/Bittern.lean ====
section
/-! DEFINITION. The Bittern monitor: the decimation chain, samples and their flags, matching filters and beams, the wake detectors, the pre-wake
ring and the delivery of wakes (R664 to R709, R751). -/

namespace Sys2Proof.Machine

open Sys2Proof

def modBit (s : State) (f : Bittern → Bittern) : State := { s with bittern := f s.bittern }
def getChan (s : State) (c : Fin 4) : Chan := s.bittern.chans[c]
def modChan (s : State) (c : Fin 4) (f : Chan → Chan) : State :=
  modBit s (fun b => { b with chans := b.chans.set c (f b.chans[c]) })

def bitReg (s : State) (off : Nat) : Nat := regOf s .bittern off

/-- The interrupt levels OVR and RING_FROZEN (R709). -/
def bitLevels (s : State) : State :=
  levelIrq (levelIrq s .bittern 2 (s.bittern.ovr != 0)) .bittern 3 (s.bittern.ringState = .frozen)

/-! ## Wakes (R687, R695, R698, R701 to R704) -/

/-- A wake: counted and logged with the sample count; a recording ring starts its post-fill; the host-visible part is an
external input of the chip once the device is ready.  WAKE# follows with main power off. -/
def wake (s : State) (code : Nat) : State :=
  let s := bump s .bittern 1
  let count := (ctrOf s .bittern 0).toNat
  let s := logOpen s 0x09 0 0x0601 0 0 (code + count % 2 ^ 56 * 256)
  let s := if s.bittern.ringState = .recording && code != 0x01 then modBit s (fun b => { b with ringState := .postfill }) else s
  if s.power.phase = .ready then liveInput s (.wake code) else wakePinCheck (presentWake s code)

/-! ## The decimation chain (R665, R673, R674) -/

def chanEnabled (s : State) (c : Fin 4) : Bool := (bitReg s 0x040).testBit c

/-- The PDM clock pin runs: a PDM channel is enabled (R665). -/
def pdmClockRuns (s : State) : Bool := s.power.aux && (chanEnabled s 0 || chanEnabled s 1)

/-- HPF_EN (R673). -/
def hpfEn (s : State) : Bool := (bitReg s 0x040).testBit 4

/-- One input sample through the integrators, each adding what the one before it holds. -/
def integrate : Int → List Int → List Int
  | _, [] => []
  | x, a :: r => (a + x) :: integrate (a + x) r

/-- One value through the combs: what comes out, and the combs' new last inputs. -/
def combs : Int → List Int → Int × List Int
  | x, [] => (x, [])
  | x, d :: r => let p := combs (x - d) r; (p.1, x :: p.2)

/-- The output of a filter of these taps over its past inputs, newest first. -/
def firOut (taps hist : List Int) : Int := ((taps.zip hist).map (fun p => p.1 * p.2)).sum

/-- 48 input samples make one value at 64 kHz (R673: a CIC filter of order five, decimating by 48). -/
def cicStep (k : Decimator) (xs : List Int) : Decimator :=
  let acc := xs.foldl (fun a x => integrate x a) k.acc
  let p := combs (acc.getLast?.getD 0) k.comb
  { k with acc := acc, comb := p.2, mid := p.1 :: k.mid }

/-- A half-band stage takes every second of its outputs: after two values at 64 kHz, one at 32 kHz. -/
def halfStep1 (k : Decimator) : Decimator :=
  { k with low := firOut Config.halfBand1 k.mid :: k.low, mid := k.mid.take Config.halfBand1.length }

/-- The neighbouring integer an evaluation takes: the multiple below or the one above. -/
def scaleDown (id : Nat) (x unit : Int) : Int := x / unit + (if Config.roundUp id x unit then 1 else 0)

/-- The second half-band stage and the high-pass filter: y(n) follows p·y(n − 1) + g·(x(n) − x(n − 1)) (R673: first
order). -/
def halfStep2 (k : Decimator) : Decimator :=
  let x := scaleDown 0x49 (firOut Config.halfBand2 k.low) Config.chainUnit
  { k with
    low := k.low.take Config.halfBand2.length, flat := x,
    high := scaleDown 0x4A (Config.highPassPole * k.high + Config.highPassGain * (x - k.flat)) 65536 }

/-- The chain on the 192 input samples of one output sample, oldest first. -/
def chainStep (k : Decimator) (xs : List Int) : Decimator :=
  let part (i : Nat) := (xs.drop (48 * i)).take 48
  let k := halfStep1 (cicStep (cicStep k (part 0)) (part 1))
  halfStep2 (halfStep1 (cicStep (cicStep k (part 2)) (part 3)))

/-- The chain's output, the high-pass filter excluded or not. -/
def chainOut (hpf : Bool) (k : Decimator) : Int := if hpf then k.high else k.flat

/-- The power response at `f` Hz, relative to `f` = 0, lies between `lo` and `hi` dB: `p` is the square of the response of
the CIC filter times those of the half-band stages at 64 kHz and 32 kHz, and of the high-pass filter where `hpf` asks. -/
def ChainWithin (hpf : Bool) (f lo hi : ℝ) : Prop :=
  let fir (taps : List Int) (rate : ℝ) (wave : ℝ → ℝ) : ℝ :=
    (taps.zipIdx.map (fun t => (t.1 : ℝ) * wave (2 * Real.pi * f * t.2 / rate))).sum
  let square (taps : List Int) (rate : ℝ) : ℝ := fir taps rate Real.cos ^ 2 + fir taps rate Real.sin ^ 2
  let cic : ℝ := (Real.sin (Real.pi * f / 64000) / (48 * Real.sin (Real.pi * f / 3072000))) ^ 10
  let wave : ℝ := Real.cos (2 * Real.pi * f / 16000)
  let pole : ℝ := Config.highPassPole / 65536
  let high : ℝ := if hpf then (Config.highPassGain / 65536) ^ 2 * (2 - 2 * wave) / (1 - 2 * pole * wave + pole ^ 2) else 1
  let flat : ℝ := (Config.halfBand1.sum : ℝ) ^ 2 * (Config.halfBand2.sum : ℝ) ^ 2
  let p : ℝ := cic * square Config.halfBand1 64000 * square Config.halfBand2 32000 * high
  (10 : ℝ) ^ (lo / 10) * flat ≤ p ∧ p ≤ (10 : ℝ) ^ (hi / 10) * flat

/-- What R673 and R674 ask of the free filters: linear phase, a delay of 24 samples to the nearest sample, and the bounds of
the table.  A premise for claims about the response; no claim about the commands needs it. -/
def ChainMeetsR674 : Prop :=
  Config.halfBand1.reverse = Config.halfBand1 ∧ Config.halfBand2.reverse = Config.halfBand2 ∧
  |(235 + 48 * (Config.halfBand1.length - 1) + 96 * (Config.halfBand2.length - 1) - 9216 : ℤ)| ≤ 192 ∧
  (∀ hpf, ∀ f ∈ [(1000 : ℝ), 2000, 4000, 6000], ChainWithin hpf f (-0.05) 0.05) ∧
  (∀ f ∈ [(20 : ℝ), 50, 100], ChainWithin false f (-0.05) 0.05) ∧
  ChainWithin true 20 (-3.06) (-2.96) ∧ ChainWithin true 50 (-0.69) (-0.59) ∧ ChainWithin true 100 (-0.22) (-0.12) ∧
  (∀ hpf, ChainWithin hpf 7000 (-0.1) 0.1 ∧ ChainWithin hpf 7600 (-3.2) (-2.8)) ∧
  (∀ hpf, ∀ f : ℝ, 9000 ≤ f → f ≤ 1536000 → ∃ lo, ChainWithin hpf f lo (-80))

/-! ## Samples (R671 to R679, R688 to R691) -/

/-- Clamp to ±0x7FFF. -/
def clamp16 (x : Int) : Int × Bool :=
  if 0x7FFF < x then (0x7FFF, true) else if x < -0x7FFF then (-0x7FFF, true) else (x, false)

/-- Divide by 2^14, to nearest with ties to even. -/
def round14 (x : Int) : Int :=
  let q := x / 16384
  let r := x % 16384
  if r < 8192 then q else if 8192 < r then q + 1 else if q % 2 = 0 then q else q + 1

/-- A matching tap h_c[j], signed (R676). -/
def tap (ch : Chan) (j : Nat) : Int := sgn 16 (mgetD ch.coefs (if j = 0 then 0x4000 else 0) j).toNat

/-- The matching filter over the inputs, newest first: not valid where a tap that is not 0 reads a sample that is not valid
(R672, R676; DEDUCED, entry 72). -/
def matchFilter (ch : Chan) (inputs : List (Option Int)) : Option Int :=
  (List.range 16).foldl (fun acc j =>
    let h := tap ch j
    if h = 0 then acc
    else match acc, (inputs[j]?).getD none with
      | some a, some x => some (a + h * x)
      | _, _ => none) (some 0)

/-- The delayed sample d_c(n), the past samples newest first (R678): a whole number of samples is that sample; the
interpolator between samples is not given. -/
def delayed (past : List (Option Int)) (eighths : Nat) : Int :=
  if eighths % 8 = 0 then ((past[eighths / 8]?).getD none).getD 0
  else Config.beamInterp eighths (past.map (·.getD 0))

/-- A beam sample (R679): a channel that is not enabled gives no valid one (DEDUCED, entry 72). -/
def beamSample (s : State) (b : Nat) : Option Int :=
  let r := (List.finRange 4).foldl (fun (acc : Option Int) (c : Fin 4) =>
    let w := sgn 16 (mgetD s.bittern.weights 0 (4 * b + c.val)).toNat
    let past := (getChan s c).past
    if w = 0 then acc
    else match acc, (if chanEnabled s c then (past.head?).getD none else none) with
      | some a, some _ => some (a + w * delayed past (bitReg s (0x050 + 4 * c.val)))
      | _, _ => none) (some 0)
  r.map (fun x => (clamp16 (round14 x)).1)

/-- One detector sample (R680). -/
def detect (s : State) (x : Option Int) : State :=
  modBit s (fun b => { b with frame := b.frame ++ [x], block := b.block ++ [x] })

/-- No enabled channel has a higher number: its sample is the last of its instant. -/
def lastChan (s : State) (c : Fin 4) : Bool := (List.finRange 4).all (fun d => !(c.val < d.val && chanEnabled s d))

/-- A channel's OVR bit is set; a change raises a wake where OVR_WAKE_EN asks, which the end of the instant takes (R685,
R687). -/
def setOvr (s : State) (c : Fin 4) : State :=
  let was := s.bittern.ovr.toNat.testBit c
  let s := bitLevels (modBit s (fun b => { b with ovr := b.ovr ||| BitVec.ofNat 4 (2 ^ c.val) }))
  if !was && (bitReg s 0x088).testBit (16 + c.val) then
    modBit s (fun b => { b with ovrWakes := b.ovrWakes ||| BitVec.ofNat 4 (2 ^ c.val) }) else s

/-- An over-range input of analogue channel `c` disturbs the other one (R689), whose sample of this instant has been taken
already when its number is lower. -/
def disturb (s : State) (c : Fin 4) : State :=
  let d : Fin 4 := if c.val = 2 then 3 else 2
  if !chanEnabled s d then s
  else if c.val = 2 then modChan s d (fun x => { x with settleLeft := max x.settleLeft 48 })
  else
    let fresh := (getChan s d).out.getLast?.any (fun y => !y.settling)
    let s := modChan s d (fun x => { x with
      settleLeft := max x.settleLeft 47,
      out := x.out.dropLast ++ (x.out.getLast?.map (fun y => { y with settling := true })).toList })
    if fresh then bump s .bittern 3 else s

/-- What one output sample of a channel is: validity, filter, clamps, flags. -/
def formSample (s : State) (c : Fin 4) (x : Int) : Smp × List (Option Int) × Nat :=
  let ch := getChan s c
  let bad := ch.n < 64 || ch.biasFault || (c.val < 2 && s.bittern.pdmStuck)
  let cx := clamp16 x
  let input : Option Int := if bad then none else some cx.1
  let hist := (input :: ch.hist).take 16
  let out := (matchFilter ch hist).map (fun y => clamp16 (round14 y))
  let clamps := bit01 (!bad && cx.2) + bit01 (out.any (·.2))
  let out := if bad then none else out
  (⟨out.map (·.1), clamps != 0 || ch.ovrLeft != 0, ch.settleLeft != 0⟩, hist, clamps)

/-- What OVR_EVENTS gains by a sample: its over-range inputs, or its clamps where it has none (DEDUCED, entry 135). -/
def ovrEvents (overRange clamps : Nat) : Nat := if overRange = 0 then clamps else overRange

/-! ## Detectors (R681 to R684) -/

/-- A hold count meets its limit: the wake is raised and the count starts anew (DESIGN CHOICE, entry 73). -/
def holdStep (count limit : Nat) (hit : Bool) : Nat × Bool :=
  if !hit then (0, false) else if max 1 limit ≤ count + 1 then (0, true) else (count + 1, false)

/-- The threshold code of a band. -/
def bandThr (s : State) (b : Nat) : Nat := bitsOf (bitReg s (0x06C + 4 * (b / 4))) (8 * (b % 4) + 7) (8 * (b % 4))

/-- One band on a frame of 256 valid samples: a level at or above a threshold has a code at or below it (R681, R682,
R684). -/
def bandStep (xs : List Int) (s : State) (b : Nat) : State :=
  let hit := (bitReg s 0x074).testBit b && decide (Config.bandLevel b xs ≤ (bandThr s b : Int))
  let h := holdStep (mgetD s.bittern.bandHold 0 b) (bitsOf (bitReg s 0x074) 15 8) hit
  let s := modBit s (fun x => { x with bandHold := mputD x.bandHold 0 b h.1 })
  if h.2 then wake s (0x10 + b) else s

/-- A frame of 256 samples, once it is complete: the bands in ascending order (R681, R682, R684). -/
def endFrame (s : State) : State :=
  let fr := s.bittern.frame.take 256
  if fr.length < 256 then s
  else
    let s := modBit s (fun b => { b with frame := b.frame.drop 256 })
    if fr.any (·.isNone) then s else (List.range 8).foldl (bandStep (fr.map (·.getD 0))) s

/-- BAND_FRAME (R681, R682). -/
def execBandFrame (s : State) : Res := .next (endFrame s)

/-- Tone detector `t` finds its tone in a block (R683). -/
def toneHit (s : State) (t : Nat) (xs : List Int) : Bool :=
  let r := bitReg s (0x078 + 4 * t)
  let f := bitsOf r 12 0
  r.testBit 31 && 50 ≤ f && f ≤ 7000 && decide (Config.toneLevel f xs ≤ (bitsOf (bitReg s 0x088) 7 0 : Int)) &&
    decide (Config.toneRatio f xs ≤ (bitsOf r 23 16 : Int))

/-- One tone detector on a block of 1,024 valid samples. -/
def toneStep (xs : List Int) (s : State) (t : Nat) : State :=
  let h := holdStep (mgetD s.bittern.toneHold 0 t) (bitsOf (bitReg s 0x088) 15 8) (toneHit s t xs)
  let s := modBit s (fun x => { x with toneHold := mputD x.toneHold 0 t h.1 })
  if h.2 then wake s (0x20 + t) else s

/-- A block of 1,024 samples, once it is complete (R683, R684). -/
def endBlock (s : State) : State :=
  let bl := s.bittern.block.take 1024
  if bl.length < 1024 then s
  else
    let s := modBit s (fun b => { b with block := b.block.drop 1024 })
    if bl.any (·.isNone) then s else (List.range 4).foldl (toneStep (bl.map (·.getD 0))) s

/-- TONE_BLOCK (R683): a frame that ends with the block is decided first, for its codes are lower (R687). -/
def execToneBlock (s : State) : Res := .next (endBlock (endFrame s))

/-- The OVR wakes of an instant are taken after those of a frame or block that ends with it, in ascending order (R687). -/
def ovrStep (s : State) : State :=
  let m := s.bittern.ovrWakes
  if m = 0 then s
  else (bitList m.toNat 4).foldl (fun s c => wake s (0x30 + c)) (modBit (endBlock (endFrame s)) (fun b => { b with ovrWakes := 0 }))

/-- A channel's sample has been taken; the last of an instant ends it. -/
def endInstant (c : Fin 4) (s : State) : State := if lastChan s c then ovrStep s else s

/-! ## One sample (R671 to R677) -/

/-- One output sample of a channel: `x` is the chain's output before its clamp, `overRange` the number of over-range input
samples during it. -/
def takeSample (chan : Fin 4) (x : Int) (overRange : Nat) (s : State) : State :=
  let beyond := if 2 ≤ chan.val then overRange else 0
  let s := if beyond != 0 then disturb (modChan s chan (fun ch => { ch with ovrLeft := 96 })) chan else s
  let f := formSample s chan x
  let y := f.1
  let s := modChan s chan (fun ch => { ch with
    n := ch.n + 1, hist := f.2.1, ovrLeft := ch.ovrLeft - 1, settleLeft := ch.settleLeft - 1,
    out := (if ch.n % 16 = 0 then [] else ch.out) ++ [y], past := (y.x :: ch.past).take 64,
    second := ch.second ++ y.x.toList })
  let s := bump (bump s .bittern 0) .bittern 2 (ovrEvents beyond f.2.2)
  let s := bump (bump s .bittern 3 (bit01 y.settling)) .bittern 4 (bit01 y.x.isNone)
  let src := bitReg s 0x068
  let s := if src = chan.val then detect s y.x else s
  let s := if (src = 4 || src = 5) && lastChan s chan then detect s (beamSample s (src - 4)) else s
  endInstant chan (if beyond != 0 || f.2.2 != 0 then setOvr s chan else s)

/-- SAMPLE (R671 to R677, R680, R688, R689): `inputs` are the channel's 192 input samples at 3.072 MHz (±1 for a bit of PDM
data, the modulator's values for an analogue input) and `overRange` how many of them the modulator reports over range; the
channels of one instant come in ascending order. -/
def execSample (chan : Fin 4) (inputs : List Int) (overRange : Nat) (s : State) : Res :=
  .next (if !s.power.aux || !chanEnabled s chan then s
    else
      let k := chainStep (getChan s chan).chain inputs
      takeSample chan (chainOut (hpfEn s) k) overRange (modChan s chan (fun ch => { ch with chain := k })))

/-- LEVEL of one channel: 0xFF when the second held no valid sample. -/
def levelOf (ch : Chan) : Chan :=
  { ch with level := if ch.second.isEmpty then 0xFF else Config.levelCode ch.second, second := [] }

/-- LEVEL_UPDATE (R707). -/
def execLevelUpdate (s : State) : Res :=
  .next (if !s.power.aux then s
    else modBit s (fun b => { b with chans := b.chans.map levelOf }))

/-! ## Bias and the PDM wire (R668 to R670, R690) -/

/-- Both analogue channels settle for 160 samples (R690). -/
def settleBoth (s : State) : State :=
  [2, 3].foldl (fun s c => modChan s c (fun ch => { ch with settleLeft := 160 })) s

/-- A write of BIAS_CODE and BIAS_EN: codes 11 to 15 are ignored; a set BIAS_EN bit ends a bias fault. -/
def biasWrite (data : Word) (s : State) : State :=
  let old := bitReg s 0x044
  let d := data.toNat
  let code := if 10 < bitsOf d 3 0 then bitsOf old 3 0 else bitsOf d 3 0
  let v := code + 16 * bitsOf d 5 4
  let s := putReg s .bittern 0x044 v
  let s := if v = old then s else settleBoth s
  [2, 3].foldl (fun s (c : Fin 4) =>
    if d.testBit (2 + c.val) && !old.testBit (2 + c.val) then modChan s c (fun ch => { ch with biasFault := false }) else s) s

/-- BIAS_CHANGE (R668, R690). -/
def execBiasChange (a : Access) (data : Word) (s : State) : Res :=
  .next (gated s a .bittern 0x044 (fun _ => biasWrite data s))

/-- BIAS_FAULT (R669, R690, R708). -/
def execBiasFault (input : Fin 2) (s : State) : Res :=
  .next (
    let r := bitReg s 0x044
    let c : Fin 4 := ⟨2 + input.val, by omega⟩
    if !r.testBit (4 + input.val) then s
    else
      let s := settleBoth (putReg s .bittern 0x044 (r - 2 ^ (4 + input.val)))
      captureOpen1 (modChan s c (fun ch => { ch with biasFault := true })) .bittern stUnsupported 2 c)

/-- PDM_STUCK (R670, R708): the lowest enabled PDM channel is named (DESIGN CHOICE, entry 74). -/
def execPdmStuck (s : State) : Res :=
  .next (if pdmClockRuns s && !s.bittern.pdmStuck then
    captureOpen1 (modBit s (fun b => { b with pdmStuck := true })) .bittern stTimeout 1 (if chanEnabled s 0 then 0 else 1)
  else s)

/-- PDM_TRANSITIONS_RESUME (R670). -/
def execPdmTransitionsResume (s : State) : Res := .next (modBit s (fun b => { b with pdmStuck := false }))

/-! ## The ring (R692 to R700) -/

def ringBlocks : Nat := 32768

/-- q of a sample at a SHIFT (R694). -/
def quantQ (shift : Nat) (x : Int) : Int := if shift = 0 then x else (x + 2 ^ (shift - 1)) / 2 ^ shift

/-- The SHIFT of a block. -/
def blockShift (xs : List Int) : Nat :=
  ((List.range 9).find? (fun k => xs.all (fun x => decide (-127 ≤ quantQ k x) && decide (quantQ k x ≤ 127)))).getD 8

/-- A flag map of a block. -/
def flagMap (ys : List Smp) (f : Smp → Bool) : Nat := ((ys.zipIdx).map (fun y => bit01 (f y.1) * 2 ^ y.2)).sum

/-- The 24 bytes of a block (R693). -/
def blockBytes (c : Nat) (ys : List Smp) : List Byte :=
  let k := blockShift (ys.filterMap (·.x))
  [BitVec.ofNat 8 (c + 4 * k), 0] ++ leBytes 2 (flagMap ys (·.ovr)) ++ leBytes 2 (flagMap ys (·.settling)) ++
    leBytes 2 (flagMap ys (·.x.isNone)) ++
    ys.map (fun y => BitVec.ofInt 8 (y.x.elim 0 (fun x => max (-127) (min 127 (quantQ k x)))))

/-- The ring is being written. -/
def ringOpen (b : Bittern) : Bool := b.ringState = .recording || b.ringState = .postfill

/-- Write one block. -/
def putBlock (s : State) (c : Nat) (ys : List Smp) : State :=
  let v := BitVec.ofNat 192 (leNat (blockBytes c ys))
  bump (modBit s (fun b => { b with
    ring := mputD b.ring 0 b.ringWrite v, ringWrite := (b.ringWrite + 1) % ringBlocks,
    ringCount := min ringBlocks (b.ringCount + 1) })) .bittern 5

/-- The block of one channel, if it is complete: written where the channel is recorded. -/
def ringStep (s : State) (c : Fin 4) : State :=
  let ys := (getChan s c).out
  if ys.length < 16 then s
  else
    let s := modChan s c (fun ch => { ch with out := [] })
    if ringOpen s.bittern && (bitReg s 0x098).testBit (4 + c.val) then putBlock s c ys else s

/-- RING_BLOCK_WRITE (R692, R693): each recorded channel whose block is complete, in ascending order. -/
def execRingBlockWrite (s : State) : Res := .next ((List.finRange 4).foldl ringStep s)

/-- POSTFILL_END (R695). -/
def execPostfillEnd (s : State) : Res :=
  .next (if s.bittern.ringState = .postfill then bitLevels (modBit s (fun b => { b with ringState := .frozen })) else s)

/-- The ring is zeroed and takes a state. -/
def clearRing (s : State) (st : WakeRing) : State :=
  bitLevels (modBit s (fun b => { b with ring := [], ringWrite := 0, ringCount := 0, ringState := st }))

/-- A write of the ring's control word (R696, R697): RING_MASK only while RING_EN is 0, RING_READ_EN only while the page is
not locked. -/
def ringCtrlWrite (data : Word) (s : State) : State :=
  let old := bitReg s 0x098
  let d := data.toNat
  let mask := if old.testBit 0 then bitsOf old 7 4 else bitsOf d 7 4
  let rd := if (getPage s .bittern).lock then bitsOf old 31 31 else bitsOf d 31 31
  let s := putReg (noteLocked s .bittern 0x098 data) .bittern 0x098 (bitsOf d 0 0 + 16 * mask + 65536 * bitsOf d 27 16 + 2 ^ 31 * rd)
  if d.testBit 0 then (if old.testBit 0 then s else clearRing s .recording) else clearRing s .off

/-- RING_EN (R696). -/
def execRingEn (a : Access) (data : Word) (s : State) : Res :=
  .next (gated s a .bittern 0x098 (fun _ => ringCtrlWrite data s))

/-- RING_EN_CLEAR (R696). -/
def execRingEnClear (a : Access) (data : Word) (s : State) : Res :=
  .next (gated s a .bittern 0x098 (fun _ => ringCtrlWrite data s))

/-- A write of RING_RELEASE. -/
def ringReleaseWrite (data : Word) (s : State) : State :=
  if data.toNat.testBit 0 then bump (clearRing s (if (bitReg s 0x098).testBit 0 then .recording else .off)) .bittern 6 else s

/-- RING_RELEASE (R696). -/
def execRingRelease (a : Access) (data : Word) (s : State) : Res :=
  .next (gated s a .bittern 0x09C (fun _ => ringReleaseWrite data s))

/-- The byte of the ring at an offset. -/
def ringByte (s : State) (i : Nat) : Byte :=
  BitVec.ofNat 8 (fld (mgetD s.bittern.ring 0 (i / 24)) (8 * (i % 24) + 7) (8 * (i % 24)))

/-- RING_DATA_READ (R697, R700): zero unless the ring is frozen and readable; RING_ADDR moves on with every read. -/
def execRingDataRead (rq : Requester) (s : State) : Res :=
  .next (gatedRead s rq .bittern (fun _ =>
    let addr := bitReg s 0x0A8 % 786432
    let v := if s.bittern.ringState = .frozen && (bitReg s 0x098).testBit 31 then
        leNat ((List.range 4).map (fun i => ringByte s (addr + i))) else 0
    emit (.readData (BitVec.ofNat 64 v)) (putReg s .bittern 0x0A8 ((addr + 4) % 786432))))

/-! ## Acknowledgement and test (R688, R698, R701) -/

/-- A write of WAKE_ACK and TEST_WAKE: the acknowledgement comes first. -/
def wakeCtrlWrite (data : Word) (s : State) : State :=
  let s := if data.toNat.testBit 0 then
      levelIrq (modBit s (fun b => { b with wakePending := false, wakeCode := 0 })) .bittern 1 false else s
  if data.toNat.testBit 1 then wake s 0x01 else s

/-- WAKE_ACK (R701). -/
def execWakeAck (a : Access) (data : Word) (s : State) : Res :=
  .next (gated s a .bittern 0x090 (fun _ => wakeCtrlWrite data s))

/-- TEST_WAKE (R698). -/
def execTestWake (a : Access) (data : Word) (s : State) : Res :=
  .next (gated s a .bittern 0x090 (fun _ => wakeCtrlWrite data s))

/-- A write of the OVR bits. -/
def ovrWrite (data : Word) (s : State) : State := bitLevels (modBit s (fun b => { b with ovr := b.ovr &&& ~~~(data.setWidth 4) }))

/-- OVR_CLEAR (R688). -/
def execOvrClear (a : Access) (data : Word) (s : State) : Res :=
  .next (gated s a .bittern 0x094 (fun _ => ovrWrite data s))

/-! ## Registers with a meaning of their own when written (R671, R676, R679, R707) -/

/-- A write of CHAN_EN and HPF_EN: a channel that is enabled starts anew. -/
def chanWrite (data : Word) (s : State) : State :=
  let old := bitReg s 0x040
  let d := data.toNat
  let s := putReg s .bittern 0x040 (d % 32)
  (List.finRange 4).foldl (fun s (c : Fin 4) =>
    if d.testBit c.val && !old.testBit c.val then
      modChan s c (fun ch => { biasFault := ch.biasFault, coefs := ch.coefs, level := ch.level, second := ch.second })
    else s) s

/-- A write of MATCH_COEF: the tap that MATCH_CH and MATCH_TAP select. -/
def coefWrite (data : Word) (s : State) : State :=
  let r := bitReg s 0x048
  let c : Fin 4 := ⟨bitsOf r 1 0 % 4, Nat.mod_lt _ (by decide)⟩
  let j := bitsOf r 11 8
  modChan s c (fun ch => { ch with coefs := mputD ch.coefs (if j = 0 then 0x4000 else 0) j (data.setWidth 16) })

/-- A write of W_DATA: the weight that W_BEAM and W_CH select. -/
def weightWrite (data : Word) (s : State) : State :=
  let r := bitReg s 0x060
  modBit s (fun b => { b with weights := mputD b.weights 0 (4 * bitsOf r 0 0 + bitsOf r 5 4) (data.setWidth 16) })

/-- A write of WAKE_PIN_EN (R704). -/
def wakePinWrite (data : Word) (s : State) : State :=
  wakePinCheck (putReg s .bittern 0x08C (65536 * bitsOf data.toNat 16 16))

end Sys2Proof.Machine
end

