-- ==== Sys2Proof/Machine/Panel.lean ====
section
/-! DEFINITION. The status panel and the SMBus: committing and drawing the panel record, its registers with an effect, and
the commands of the SMBus target (R724 to R739). -/

namespace Sys2Proof.Machine

open Sys2Proof

def modPanel (s : State) (f : Panel → Panel) : State := modMgmt s (fun m => { m with panel := f m.panel })

/-- The management core runs: on standby power, and it has not failed. -/
def mgmtRuns (s : State) : Bool := s.power.aux && s.power.vitalFailed != some .managementCore

/-! ## The record (R724) -/

/-- SERVICE_STATE as in the record. -/
def recordService (s : State) : Nat := if s.power.phase = .noFunction then 4 else s.units.service.toNat

/-- USER_TEXT of the next record: as last submitted; after standby power-up, as the committed record has it (DEDUCED,
entry 75). -/
def recordText (s : State) : List Byte :=
  if s.mgmt.panel.userText.isEmpty then
    match committed s with
    | some c => sliceB c.bytes 64 32
    | none => List.replicate 32 0
  else sliceB s.mgmt.panel.userText 0 32

/-- The panel temperature lies outside a range of degrees Celsius. -/
def panelOutside (s : State) (lo hi : Int) : Bool := s.mgmt.panel.temp < degC lo || degC hi < s.mgmt.panel.temp

/-- The 256 bytes of a record with a SEQUENCE, as the fields stand now. -/
def panelBytes (s : State) (seq : Nat) : List Byte :=
  let m := s.mgmt
  let flags := bit01 (panelOutside s 5 45) + 2 * bit01 s.power.tripLatch + 4 * bit01 s.power.railsOff
  let body := leBytes 2 0x7E4C ++ leBytes 1 1 ++ leBytes 1 flags ++ leBytes 4 seq ++ leBytes 8 Config.serial.toNat ++
    leBytes 1 (recordService s) ++ leBytes 1 s.mode.toNat ++ leBytes 1 (chipId s) ++ leBytes 1 (coresFused s) ++
    leBytes 2 s.units.cores.toNat ++ leBytes 2 s.units.slices.toNat ++ leBytes 2 s.units.hbms.toNat ++
    leBytes 1 s.units.ports.toNat ++ leBytes 1 0 ++ leBytes 5 m.returnCode.toNat ++ leBytes 5 m.prevReturnCode.toNat ++
    leBytes 2 0 ++ leBytes 4 m.powerups.toNat ++ leBytes 20 0 ++ recordText s ++ leBytes 152 0
  body ++ leBytes 4 (crc32c body) ++ leBytes 4 0xFFFFFFFF

/-- SEQUENCE of the committed record; 0 while there is none. -/
def committedSeq (s : State) : Nat :=
  match committed s with
  | some c => copySeq c
  | none => 0

/-- A field other than DRAWN would change (R726); TEMP_HOLD counts at its crossings only (R731). -/
def recordChanged (s : State) (new : List Byte) : Bool :=
  match committed s with
  | none => true
  | some c => s.mgmt.panel.tempHold || sliceB c.bytes 8 240 != sliceB new 8 240 ||
      leField c.bytes 3 1 / 2 != leField new 3 1 / 2

/-- PANEL_COMMIT (R725, R726, R656): the sector that does not hold the committed record takes the new copy. -/
def execPanelCommit (s : State) : Res :=
  .next (
    let seq := (committedSeq s + 1) % 2 ^ 32
    let new := panelBytes s seq
    if !mgmtRuns s || s.power.vitalFailed = some .bootFlash || !recordChanged s new then s
    else
      let inA := committedInA s
      let s := if s.mgmt.erasing then bump s .background 4 else s
      let s := modMgmt s (fun m =>
        if inA then { m with sectorB := some ⟨new⟩ } else { m with sectorA := some ⟨new⟩ })
      bump (modPanel s (fun p => { p with tempHold := false, drawDue := true })) .panel 0)

/-! ## The image (R733, R735) -/

/-- The Crockford base-32 symbols (R735). -/
def crockford : List Char :=
  ['0', '1', '2', '3', '4', '5', '6', '7', '8', '9', 'A', 'B', 'C', 'D', 'E', 'F', 'G', 'H', 'J', 'K', 'M', 'N', 'P', 'Q',
   'R', 'S', 'T', 'V', 'W', 'X', 'Y', 'Z']

/-- The `i`-th symbol of a code, five bits at a time from bit 39 down. -/
def codeSymbol (code i : Nat) : Char := (crockford[bitsOf code (39 - 5 * i) (35 - 5 * i)]?).getD '0'

/-- A return code as two groups of four symbols. -/
def codeText (code : Nat) : List Char :=
  (List.range 4).map (codeSymbol code) ++ ['-'] ++ [4, 5, 6, 7].map (codeSymbol code)

/-- A return code names a fault: its CLASS is not 0 (R733). -/
def namesFault (code : Nat) : Bool := bitsOf code 39 32 != 0

/-- Line 3 (R735). -/
def codeLine (code prev : Nat) : List Char :=
  if namesFault code then ['R', 'E', 'T', ' '] ++ codeText code
  else if namesFault prev then ['P', 'R', 'V', ' '] ++ codeText prev
  else ['N', 'O', ' ', 'F', 'A', 'U', 'L', 'T']

/-- The last `n` decimal digits of a number. -/
def decimalText (n v : Nat) : List Char :=
  (List.range n).map (fun i => (crockford[v / 10 ^ (n - 1 - i) % 10]?).getD '0')

/-- The name of a SERVICE_STATE of the record. -/
def serviceText : Nat → List Char
  | 0 => ['B', 'O', 'O', 'T', 'I', 'N', 'G']
  | 1 => ['F', 'U', 'L', 'L']
  | 2 => ['D', 'E', 'G', 'R', 'A', 'D', 'E', 'D']
  | 3 => ['R', 'E', 'C', 'O', 'V', 'E', 'R', 'Y']
  | _ => ['N', 'O', '_', 'F', 'U', 'N', 'C', 'T', 'I', 'O', 'N']

/-- Line 2: what keeps the rails off, a trip first (DESIGN CHOICE, entry 136), or SERVICE_STATE and MODE. -/
def stateLine (r : List Byte) : List Char :=
  let flags := leField r 3 1
  if flags.testBit 1 then ['T', 'H', 'E', 'R', 'M', 'A', 'L', ' ', 'T', 'R', 'I', 'P']
  else if flags.testBit 2 then ['P', 'O', 'W', 'E', 'R', ' ', 'C', 'A', 'B', 'L', 'E']
  else serviceText (leField r 16 1) ++ [' '] ++
    (if leField r 17 1 = 0 then ['N', 'I', 'G', 'H', 'T'] else ['D', 'A', 'Y'])

/-- The four lines that a record's image shows; `hold` puts TEMP HOLD on line 4 (R731). -/
def imageLines (r : List Byte) (hold : Bool) : List (List Char) :=
  [['T', 'R', 'C', '-', '2', '/'] ++ decimalText 2 (leField r 19 1) ++ [' ', 'C', 'H', 'I', 'P', ' '] ++
     decimalText 3 (leField r 18 1),
   stateLine r,
   codeLine (leField r 28 5) (leField r 33 5),
   if hold then ['T', 'E', 'M', 'P', ' ', 'H', 'O', 'L', 'D']
   else ((sliceB r 64 17).takeWhile (· != 0)).map (fun b => Char.ofNat b.toNat)]

/-! ## Drawing (R727 to R732) -/

/-- HELD as the level of its interrupt (R739). -/
def heldLevel (s : State) : State := levelIrq s .panel 2 s.mgmt.panel.held

/-- The panel can be drawn: its driver works, and with no function the last image stays (R89, R739). -/
def panelDraws (s : State) : Bool :=
  mgmtRuns s && s.power.phase != .noFunction && !s.mgmt.panel.failed && s.mgmt.panel.drawing.isNone

/-- A draw that is due starts, or is held outside 0 to 50 °C and counted once (R730); one made outside 5 to 45 °C shows
TEMP HOLD, which the record then takes (R731). -/
def beginDraw (s : State) : State :=
  match committed s with
  | none => s
  | some c =>
    if panelOutside s 0 50 then
      let s' := if s.mgmt.panel.held then s else bump s .panel 2
      heldLevel (modPanel s' (fun p => { p with held := true, drawDue := true }))
    else
      let hot := panelOutside s 5 45
      let marked := (leField c.bytes 3 1) % 2 = 1
      heldLevel (modPanel s (fun p => { p with
        drawing := some 1, drawSeq := BitVec.ofNat 32 (copySeq c), barDrawn := false, drawDue := false, held := false,
        shownHold := hot || marked, drawLines := imageLines c.bytes (hot || marked), tempHold := p.tempHold || (hot && !marked) }))

/-- PANEL_DRAW (R727, R730 to R732). -/
def execPanelDraw (s : State) : Res :=
  .next (if panelDraws s && s.mgmt.panel.drawDue then beginDraw s else s)

/-- DRAWN of a copy becomes 0x00. -/
def markDrawn (seq : Word) (c : Option RecordCopy) : Option RecordCopy :=
  c.map (fun k => if copySeq k = seq.toNat then ⟨k.bytes.set 252 0⟩ else k)

/-- BUSY_FALL (R727, R728, R735): phase 1 erases the bar, phase 2 redraws the rows, phase 3 draws the bar. -/
def execBusyFall (s : State) : Res :=
  .next (match s.mgmt.panel.drawing with
    | none => s
    | some n =>
      if n < 3 then modPanel s (fun p => { p with
        drawing := some (n + 1), shownLines := if n = 2 then p.drawLines else p.shownLines })
      else
        let s := modMgmt s (fun m => { m with
          sectorA := markDrawn m.panel.drawSeq m.sectorA, sectorB := markDrawn m.panel.drawSeq m.sectorB })
        let s := modPanel s (fun p => { p with drawing := none, barDrawn := true, shownSeq := p.drawSeq })
        pulseIrq (bump s .panel 1) .panel 1)

/-- PANEL_FAIL (R739). -/
def execPanelFail (s : State) : Res :=
  .next (if s.mgmt.panel.drawing.isNone then s
    else captureOpen (modPanel s (fun p => { p with drawing := none, failed := true })) .panel stFenced 1)

/-- PANEL_REDRAW (R729). -/
def execPanelRedraw (s : State) : Res :=
  .next (if !panelDraws s || !s.mgmt.panel.redrawPending then s
    else
      let s := modPanel s (fun p => { p with redrawPending := false })
      match committed s with
      | none => s
      | some c => beginDraw (if leField c.bytes 252 1 = 0xFF then bump s .panel 3 else s))

/-- A write of PANEL_UPDATE: the text registers are submitted. -/
def panelUpdateWrite (data : Word) (s : State) : State :=
  if data.toNat.testBit 0 then
    let text := (List.range 8).flatMap (fun i => leBytes 4 (regOf s .panel (0x060 + 4 * i)))
    modPanel s (fun p => { p with userText := text })
  else s

/-- PANEL_UPDATE (R738). -/
def execPanelUpdate (a : Access) (data : Word) (s : State) : Res :=
  .next (gated s a .panel 0x080 (fun _ => panelUpdateWrite data s))

/-- The word of the committed record at RECORD_INDEX; 0 while there is none. -/
def recordWord (s : State) : Nat :=
  match committed s with
  | some c => leField c.bytes (4 * regOf s .panel 0x048) 4
  | none => 0

/-- RECORD_DATA_READ (R738). -/
def execRecordDataRead (rq : Requester) (s : State) : Res :=
  .next (gatedRead s rq .panel (fun _ =>
    emit (.readData (BitVec.ofNat 64 (recordWord s))) (putReg s .panel 0x048 ((regOf s .panel 0x048 + 1) % 64))))

/-- HEADER_DETECT (R738). -/
def execHeaderDetect (low : Bool) (s : State) : Res :=
  .next (if s.power.aux then modPower s (fun p => { p with headerPresent := low }) else s)

/-! ## POWER_LIMIT_W (R716, R737) -/

/-- A new POWER_LIMIT_W: only within its range, and not while the page is locked. -/
def setLimit (watts : Nat) (s : State) : State :=
  if (getPage s .panel).lock || watts < 300 || s.power.maxPowerLimit < watts then s else putReg s .panel 0x088 watts

/-! ## SMBus (R736, R737) -/

/-- The bytes of a read: the block length for a block read, the data, and the PEC where the host clocks it (PRESUMED,
entry 76: CRC-8 over the whole transaction). -/
def smbusAnswer (s : State) (code : Nat) (r : SmbusRead) (block : Bool) (data : List Byte) : State :=
  let body := (if block then [BitVec.ofNat 8 data.length] else []) ++ data
  let pec := crc8 ([0xB8, BitVec.ofNat 8 code, 0xB9] ++ body)
  emit (.smbusData (body ++ (if r.clockPec then [BitVec.ofNat 8 pec] else []))) s

/-- A read is served unless its PEC is wrong or nobody serves it. -/
def smbusRead (s : State) (code : Nat) (r : SmbusRead) (block : Bool) (data : List Byte) : Res :=
  .next (if r.wrongPec || !mgmtRuns s then s else smbusAnswer s code r block data)

/-- The identity of the card. -/
def identBytes (s : State) : List Byte :=
  leBytes 8 Config.serial.toNat ++ leBytes 2 0x0C20 ++ leBytes 1 (coresFused s) ++ leBytes 1 Config.firmwareMajor.toNat ++
    leBytes 2 Config.firmwareMinor.toNat ++ leBytes 2 0

/-- GET_IDENT. -/
def execGetIdent (pec : SmbusRead) (s : State) : Res := smbusRead s 0x01 pec true (identBytes s)

/-- The word of GET_STATE. -/
def stateWord (s : State) : Nat :=
  recordService s + 8 * bit01 s.power.railsGood + 16 * s.mgmt.throttle + 256 * bit01 s.mgmt.critical +
    512 * bit01 s.power.tripLatch

/-- GET_STATE. -/
def execGetState (pec : SmbusRead) (s : State) : Res := smbusRead s 0x02 pec false (leBytes 2 (stateWord s))

/-- A temperature word: 0x8000 without main power. -/
def tempWord (s : State) (t : Int) : List Byte := leBytes 2 (if s.power.railsGood then wrap 16 t else 0x8000)

/-- GET_DIE_TEMP. -/
def execGetDieTemp (pec : SmbusRead) (s : State) : Res := smbusRead s 0x03 pec false (tempWord s s.mgmt.dieTemp)

/-- GET_HBM_TEMP. -/
def execGetHbmTemp (pec : SmbusRead) (s : State) : Res := smbusRead s 0x04 pec false (tempWord s s.mgmt.hbmTemp)

/-- GET_POWER. -/
def execGetPower (pec : SmbusRead) (s : State) : Res :=
  smbusRead s 0x05 pec false (leBytes 2 (if s.power.railsGood then cardPower s else 0))

/-- GET_RETURN_CODE. -/
def execGetReturnCode (pec : SmbusRead) (s : State) : Res :=
  smbusRead s 0x06 pec true (leBytes 5 s.mgmt.returnCode.toNat ++ leBytes 5 s.mgmt.prevReturnCode.toNat)

/-- Half of the committed record; with no record the command is refused (DEDUCED, entry 77). -/
def recordHalf (s : State) (code : Nat) (r : SmbusRead) (i : Nat) : Res :=
  match committed s with
  | some c => smbusRead s code r true (sliceB c.bytes i 128)
  | none => .next (if r.wrongPec || !mgmtRuns s then s else emit .smbusNack s)

/-- GET_RECORD_LO. -/
def execGetRecordLo (pec : SmbusRead) (s : State) : Res := recordHalf s 0x08 pec 0

/-- GET_RECORD_HI. -/
def execGetRecordHi (pec : SmbusRead) (s : State) : Res := recordHalf s 0x09 pec 128

/-- The fault summary: BLOCK and CODE are those of the latest entry, 0 while the log is empty. -/
def faultSummary (s : State) : List Byte :=
  leBytes 4 s.mgmt.sincePowerup.toNat ++
    (match s.mgmt.log.getLast? with
     | some e => leBytes 2 e.block.toNat ++ [e.code]
     | none => [0, 0, 0]) ++ [0]

/-- GET_FAULT_SUMMARY. -/
def execGetFaultSummary (pec : SmbusRead) (s : State) : Res := smbusRead s 0x0A pec true (faultSummary s)

/-- SET_POWER_LIMIT (R716, R737). -/
def execSetPowerLimit (watts : BitVec 16) (pec : Option Byte) (s : State) : Res :=
  .next (
    let good := match pec with
      | none => true
      | some p => p.toNat = crc8 ([0xB8, 0x10] ++ leBytes 2 watts.toNat)
    if good && mgmtRuns s then setLimit watts.toNat s else s)

/-- The command codes of the table. -/
def smbusListed (code : Byte) : Bool := [1, 2, 3, 4, 5, 6, 8, 9, 0xA, 0x10].contains code.toNat

/-- SMBUS_UNKNOWN_COMMAND (R736): an unlisted code is NACKed; a command with a wrong PEC is ignored. -/
def execSmbusUnknownCommand (code : Byte) (wrongPec : Bool) (s : State) : Res :=
  .next (if smbusListed code || wrongPec || !mgmtRuns s then s else emit .smbusNack s)

end Sys2Proof.Machine
end

