-- ==== Sys2Proof/Machine/Registers.lean ====
section
/-! DEFINITION. Register writes: the control word of every page, and a write to any other register, by the access codes and
the rules of its page (R10, R94 to R120, R129 to R134, R190, R191, R388, R418, R427, R480 to R484, R572, R592, R619, R661,
R707, R738). -/

namespace Sys2Proof.Machine

open Sys2Proof

/-! ## CTRL (R101 to R106) -/

/-- Work that a page held starts when it is no longer quiesced (R102): a core's pending RUN, DMA descriptors, a mailbox command;
a port that takes work again starts its bring-up. -/
def unquiesce (s : State) (pg : PageId) : State :=
  match pg with
  | .core n j =>
    if j.val = 0 && !quiesced (getPage s pg) && (getCore s n).runPending then startNow s n
    else if j.val = 5 then dmaStart s n else s
  | .mailbox => boxResume s
  | .relay => (List.range 64).foldl settle s
  | .keys => if quiesced (getPage s pg) then s else modStork s (fun k => { k with keyHeld := false })
  | .baton m => startBringup s m
  | _ => s

/-- A write of CTRL. -/
def ctrlWrite (pg : PageId) (data : Word) (s : State) : State :=
  let d := data.toNat
  let idle := pageIdle s pg
  let s := modPage s pg (fun p => { p with
    enable := d.testBit 0 || (p.enable && !idle),
    disabling := !d.testBit 0 && p.enable && !idle,
    quiesce := d.testBit 1,
    lock := p.lock || d.testBit 31 })
  unquiesce s pg

/-- CTRL_ENABLE (R103). -/
def execCtrlEnable (a : Access) (page : PageId) (data : Word) (s : State) : Res :=
  .next (gated s a page 0x008 (fun p => ctrlWrite p data s))

/-- CTRL_QUIESCE (R102). -/
def execCtrlQuiesce (a : Access) (page : PageId) (data : Word) (s : State) : Res :=
  .next (gated s a page 0x008 (fun p => ctrlWrite p data s))

/-- CTRL_LOCK (R105, R106). -/
def execCtrlLock (a : Access) (page : PageId) (data : Word) (s : State) : Res :=
  .next (gated s a page 0x008 (fun p => ctrlWrite p data s))

/-! ## Where an address lies (R94, R95) -/

/-- The page at a BAR0 offset, as the accessing function numbers it.  The map gives link expander 7 the offset of the Stork
page; an access there meets the Stork page (DESIGN CHOICE, entry 81). -/
def pageAt (addr : Nat) : Option PageId :=
  let i := addr / 0x1000
  if i = 0 then some .global
  else if i = 1 then some .clock
  else if i = 2 then some .mailbox
  else if i = 3 then some .determinism
  else if 0x100 ≤ i ∧ i < 0x200 then
    if h : i % 16 < 6 then some (.core (coreFin ((i - 0x100) / 16)) ⟨i % 16, h⟩) else none
  else if 0x200 ≤ i ∧ i < 0x208 then some (.baton (portFin (i - 0x200)))
  else if i = 0x208 then some .relay
  else if 0x209 ≤ i ∧ i < 0x211 ∧ i != 0x210 then some (.expander (portFin (i - 0x209)))
  else if i = 0x210 then some .stork
  else if i = 0x211 then some .windows
  else if i = 0x212 then some .keys
  else if 0x220 ≤ i ∧ i < 0x22C then some (.hbm (stackFin (i - 0x220)))
  else if 0x230 ≤ i ∧ i < 0x240 then some (.slice (sliceFin (i - 0x230)))
  else if 0x240 ≤ i ∧ i < 0x280 ∧ i % 16 = 0 then some (.queues (partFin ((i - 0x240) / 16)))
  else if i = 0x300 then some .bittern
  else if i = 0x301 then some .panel
  else if i = 0x302 then some .background
  else none

/-- BAR0 offset of a page as the function that may write it numbers it. -/
def seenBase (s : State) (pg : PageId) : Nat :=
  match pg with
  | .core c j => pageBase (.core (coreFin (partLogical s c)) j)
  | _ => pageBase pg

/-! ## Stored registers (R10, R105, R106, R134) -/

/-- A write to stored fields: RW fields take their bits, RWL fields only while the page is not locked; reserved and
read-only bits stay.  A locked register counts a write to it where it has no other field, or where the write would change
it (R134; entry 78). -/
def storeReg (pg : PageId) (off : Nat) (data : Word) (s : State) : State :=
  match regRow (pageType pg) off with
  | none => s
  | some r =>
    let old := regOf s pg off
    let locked := (getPage s pg).lock
    let m := if locked then r.rw else r.rw ||| r.rwl
    let counted := locked && ((r.rw = 0 && r.rwl != 0) || (data.toNat ^^^ old) &&& r.rwl != 0)
    let s := if counted then badAccess s (seenBase s pg + off) else s
    putReg s pg off (data.toNat &&& m ||| old &&& (0xFFFFFFFF ^^^ m))

/-- A write that a condition refuses: ignored and counted. -/
def guardWrite (refused : Bool) (pg : PageId) (off : Nat) (k : State → State) (s : State) : State :=
  if refused then badAccess s (seenBase s pg + off) else k s

/-! ## Registers of the chip's pages with an effect of their own -/

/-- A write to CHIP_ID, ROLE, SYSTEM_SIZE_M1, ETHERTYPE or PCP_MAP has taken ports DOWN (R388).  A chip that now mixes
roles or sizes has every port DOWN; on one that does not, ports that may come up do (R418; DEDUCED, entry 79). -/
def settleRoles (s : State) : State :=
  (List.finRange 8).foldl (fun (s : State) (m : Fin 8) =>
    if rolesOk s then startBringup s m
    else if (getPort s m).st = .down then s
    else takeDown s m pdDisabled) s

/-- Global (R128, R388). -/
def writeGlobal (off : Nat) (data : Word) (s : State) : State :=
  if off = 0x040 then
    if (getPage s .global).lock then badAccess s off
    else
      let s := storeReg .global off data s
      settleRoles ((List.finRange 8).foldl (fun (s : State) (m : Fin 8) => takeDown s m pdDisabled) s)
  else if off = 0x068 then photoFinishWrite data s
  else if off = 0x06C then fullResetWrite data s
  else s

/-- Management mailbox (R129, R130). -/
def writeMailbox (off : Nat) (data : Word) (s : State) : State :=
  if s.mailbox.busy && [0x040, 0x044, 0x048, 0x04C].contains off then badAccess s (pageBase .mailbox + off)
  else if off = 0x04C then (if data.toNat.testBit 0 then boxGo s else s)
  else storeReg .mailbox off data s

/-- What the partner answers to a PACER_ENABLE that does not say: nothing the specification fixes. -/
def freePartner (s : State) : PartnerMasks × State :=
  let d := drawFree s
  let n := d.1.toNat
  (⟨BitVec.ofNat 16 n, BitVec.ofNat 12 (n / 2 ^ 16), BitVec.ofNat 16 (n / 2 ^ 28), BitVec.ofNat 8 (n / 2 ^ 44), n.testBit 52⟩, d.2)

/-- A write of the Pacer word (R556, R557, R572). -/
def pacerWrite (data : Word) (s : State) : State :=
  let s := pacerFields data s
  if data.toNat.testBit 0 then
    if s.pacer.enable then s else let x := freePartner s; pacerStart x.2 x.1
  else if s.pacer.enable then pacerEnd s else s

/-- Determinism (R572): a GUN_LEAD outside 1 to 10 is ignored. -/
def writeDeterminism (off : Nat) (data : Word) (s : State) : State :=
  if off = 0x040 then gunCtrlWrite data s
  else if off = 0x048 then
    let d := data.toNat
    let lead := bitsOf d 15 8
    let old := bitsOf (regOf s .determinism 0x048) 15 8
    storeReg .determinism off (BitVec.ofNat 32 (putBits d 15 8 (if 1 ≤ lead && lead ≤ 10 then lead else old))) s
  else if off = 0x080 then pacerWrite data s
  else if off = 0x0C0 then recCtrlWrite data s
  else if off = 0x0C8 || off = 0x0CC || off = 0x0D0 then guardWrite (recBusy s) .determinism off (storeReg .determinism off data) s
  else storeReg .determinism off data s

/-- Baton port (R388, R427). -/
def writeBaton (m : Fin 8) (off : Nat) (data : Word) (s : State) : State :=
  if off = 0x040 then portCtrlWrite m data s
  else if off = 0x048 || off = 0x04C || off = 0x054 then
    if (getPage s (.baton m)).lock then badAccess s (pageBase (.baton m) + off)
    else settleRoles (takeDown (storeReg (.baton m) off data s) m pdDisabled)
  else storeReg (.baton m) off data s

/-- Sealing keys (R483): a word of KEY_DATA. -/
def writeKeys (off : Nat) (data : Word) (s : State) : State :=
  if 0x040 ≤ off ∧ off < 0x060 then
    let i := (off - 0x040) / 4
    let k := s.stork.keyData.toNat
    modStork s (fun x => { x with keyData := BitVec.ofNat 256 (k - bitsOf k (32 * i + 31) (32 * i) * 2 ^ (32 * i) + data.toNat * 2 ^ (32 * i)) })
  else if off = 0x060 then keyWrite (bitsOf data.toNat 9 8 = 1) data s
  else s

/-- Bittern (R671, R676, R679, R680, R696 to R704, R707): codes 6 and 7 of DET_SRC are ignored. -/
def writeBittern (off : Nat) (data : Word) (s : State) : State :=
  if off = 0x040 then chanWrite data s
  else if off = 0x044 then biasWrite data s
  else if off = 0x04C then coefWrite data s
  else if off = 0x064 then weightWrite data s
  else if off = 0x068 then (if 6 ≤ bitsOf data.toNat 2 0 then s else storeReg .bittern off data s)
  else if off = 0x08C then wakePinWrite data s
  else if off = 0x090 then wakeCtrlWrite data s
  else if off = 0x094 then ovrWrite data s
  else if off = 0x098 then ringCtrlWrite data s
  else if off = 0x09C then ringReleaseWrite data s
  else storeReg .bittern off data s

/-- Status panel (R716, R738). -/
def writePanel (off : Nat) (data : Word) (s : State) : State :=
  if off = 0x080 then panelUpdateWrite data s
  else if off = 0x088 then guardWrite (getPage s .panel).lock .panel off (setLimit (bitsOf data.toNat 9 0)) s
  else storeReg .panel off data s

/-- Background services (R654, R661): a SCRUB_HOURS outside 1 to 168 is ignored. -/
def writeBackground (off : Nat) (data : Word) (s : State) : State :=
  if off = 0x040 then bgPauseWrite data s
  else if off = 0x048 then
    let h := bitsOf data.toNat 7 0
    if 1 ≤ h && h ≤ 168 then storeReg .background off data s else s
  else storeReg .background off data s

/-! ## Registers of the partitions' pages -/

/-- A write of RUN, STOP and CORE_RESET, in that order where several are 1 (DESIGN CHOICE, entry 80). -/
def coreCtrlWrite (c : Fin 16) (data : Word) (s : State) : State :=
  let d := data.toNat
  let s := if d.testBit 0 then runCore s c else s
  let s := if d.testBit 1 then stopCore s c 0 else s
  if d.testBit 2 then requestReset s c else s

/-- The registers that R191 closes while the core runs. -/
def coreClosed (off : Nat) : Bool := [0x048, 0x064, 0x068, 0x074, 0x078, 0x07C].contains off

/-- A write of IMEM_DATA_HI stores the instruction and moves IMEM_ADDR on. -/
def imemWrite (c : Fin 16) (data : Word) (s : State) : State :=
  let pg := PageId.core c 0
  let i := regOf s pg 0x074
  let w := BitVec.ofNat 64 (data.toNat * 2 ^ 32 + regOf s pg 0x078)
  let s := modCore s c (fun k => { k with imem := mputD k.imem 0 i w })
  putReg (putReg s pg 0x07C data.toNat) pg 0x074 ((i + 1) % 0x4000)

/-- Core (R190, R191). -/
def writeCore (c : Fin 16) (off : Nat) (data : Word) (s : State) : State :=
  if off = 0x044 then coreCtrlWrite c data s
  else if coreClosed off && coreRuns (getCore s c) then badAccess s (seenBase s (.core c 0) + off)
  else if off = 0x07C then imemWrite c data s
  else storeReg (.core c 0) off data s

/-- Host queues (R592, R617 to R619). -/
def writeQueues (p : Fin 4) (off : Nat) (data : Word) (s : State) : State :=
  if off = 0x044 then (if data.toNat.testBit 0 then ackDrain s p else s)
  else if off = 0x048 then resetRequestWrite p data s
  else if 0x100 ≤ off ∧ off < 0x500 then
    let r := (off - 0x100) / 0x40
    if off % 0x40 = 0x10 then ringCfgWrite p r data s
    else if (regRow 0x0501 off).isNone then s
    else guardWrite (ringRunning s p r) (.queues p) off (storeReg (.queues p) off data) s
  else if 0x600 ≤ off ∧ off < 0x680 then bellWrite s p ((off - 0x600) / 8) (off % 8 = 4) data
  else storeReg (.queues p) off data s

/-! ## A write to any register (R100, R119, R120) -/

/-- The common header. -/
def headerWrite (pg : PageId) (off : Nat) (data : Word) (s : State) : State :=
  if off = 0x008 then ctrlWrite pg data s
  else if off = 0x014 then clearIrq s pg data
  else if off = 0x018 then updIrq s pg (fun x => { x with irqEnable := data })
  else if off = 0x01C then
    updIrq s pg (fun x => { x with irqStatus := x.irqStatus ||| data })
  else if off = 0x030 then modPage s pg (fun x => { x with scratch := data })
  else s

/-- A whole-word write that has reached its page. -/
def writeReg (pg : PageId) (off : Nat) (data : Word) (s : State) : State :=
  if off < 0x040 then headerWrite pg off data s
  else match pg with
    | .global => writeGlobal off data s
    | .mailbox => writeMailbox off data s
    | .determinism => writeDeterminism off data s
    | .core c j => if j.val = 0 then writeCore c off data s else storeReg pg off data s
    | .baton m => writeBaton m off data s
    | .keys => writeKeys off data s
    | .queues p => writeQueues p off data s
    | .bittern => writeBittern off data s
    | .panel => writePanel off data s
    | .background => writeBackground off data s
    | .clock | .relay | .expander _ | .stork | .windows | .hbm _ | .slice _ => storeReg pg off data s

/-- REGISTER_WRITE (R94 to R98, R119, R120): a write outside every page is ignored; the route registers take writes of every
function (R124). -/
def execRegisterWrite (a : Access) (addr : BitVec 26) (data : Word) (s : State) : Res :=
  let off := addr.toNat % 0x1000 / 4 * 4
  match pageAt addr.toNat with
  | none => .next s
  | some pg =>
    if pg = .global ∧ 0x200 ≤ off ∧ off < 0x400 then
      execIrqRouteWrite a ⟨(off - 0x200) / 4 % 128, Nat.mod_lt _ (by decide)⟩ data s
    else .next (gated s a pg off (fun p => writeReg p off data s))

end Sys2Proof.Machine
end

