-- ==== Sys2Proof/Machine/Dispatch.lean ====
section
/-! DEFINITION. One arm per command: each calls its meaning. -/

namespace Sys2Proof.Machine

open Sys2Proof

def exec (i : Instr) (s : State) : Host.Outcome State Fault Refusal :=
  match i with
  | .standbyPowerUp => Sys2Proof.Machine.execStandbyPowerUp s
  | .mainPowerArrival sense0Open sense1Open => Sys2Proof.Machine.execMainPowerArrival sense0Open sense1Open s
  | .railsGood => Sys2Proof.Machine.execRailsGood s
  | .mainPowerLoss => Sys2Proof.Machine.execMainPowerLoss s
  | .thermalTrip => Sys2Proof.Machine.execThermalTrip s
  | .perstAssert => Sys2Proof.Machine.execPerstAssert s
  | .perstDeassert => Sys2Proof.Machine.execPerstDeassert s
  | .linkInitiatedReset => Sys2Proof.Machine.execLinkInitiatedReset s
  | .dividerRelease refCoincides refInPresent => Sys2Proof.Machine.execDividerRelease refCoincides refInPresent s
  | .rootLockLoss => Sys2Proof.Machine.execRootLockLoss s
  | .statusReady test => Sys2Proof.Machine.execStatusReady test s
  | .configRequest fn reg write => Sys2Proof.Machine.execConfigRequest fn reg write s
  | .d3hotEntry fn => Sys2Proof.Machine.execD3hotEntry fn s
  | .d0Return fn => Sys2Proof.Machine.execD0Return fn s
  | .msixUnmask fn vector => Sys2Proof.Machine.execMsixUnmask fn vector s
  | .busMasterDisable fn => Sys2Proof.Machine.execBusMasterDisable fn s
  | .registerWrite a addr data => Sys2Proof.Machine.execRegisterWrite a addr data s
  | .irqStatusClear a page data => Sys2Proof.Machine.execIrqStatusClear a page data s
  | .irqForce a page data => Sys2Proof.Machine.execIrqForce a page data s
  | .errCountRead rq page => Sys2Proof.Machine.execErrCountRead rq page s
  | .badAccessRead rq => Sys2Proof.Machine.execBadAccessRead rq s
  | .counterLowRead rq page pair => Sys2Proof.Machine.execCounterLowRead rq page pair s
  | .ctrlEnable a page data => Sys2Proof.Machine.execCtrlEnable a page data s
  | .enableClearOnIdle page => Sys2Proof.Machine.execEnableClearOnIdle page s
  | .ctrlQuiesce a page data => Sys2Proof.Machine.execCtrlQuiesce a page data s
  | .ctrlLock a page data => Sys2Proof.Machine.execCtrlLock a page data s
  | .irqRouteWrite a index data => Sys2Proof.Machine.execIrqRouteWrite a index data s
  | .photoFinish a data => Sys2Proof.Machine.execPhotoFinish a data s
  | .photoFinishActivation => Sys2Proof.Machine.execPhotoFinishActivation s
  | .fullReset a data => Sys2Proof.Machine.execFullReset a data s
  | .unitFence unit => Sys2Proof.Machine.execUnitFence unit s
  | .mbNop a => Sys2Proof.Machine.execMbNop a s
  | .mbLogInfo a => Sys2Proof.Machine.execMbLogInfo a s
  | .mbReadLog a => Sys2Proof.Machine.execMbReadLog a s
  | .mbReadRecord a => Sys2Proof.Machine.execMbReadRecord a s
  | .mbReadReturnCode a => Sys2Proof.Machine.execMbReadReturnCode a s
  | .mbRemoteIdent a => Sys2Proof.Machine.execMbRemoteIdent a s
  | .remoteIdentTimeout => Sys2Proof.Machine.execRemoteIdentTimeout s
  | .add core w => Sys2Proof.Machine.execAdd core w s
  | .sub core w => Sys2Proof.Machine.execSub core w s
  | .mul core w => Sys2Proof.Machine.execMul core w s
  | .logic core w => Sys2Proof.Machine.execLogic core w s
  | .shift core w => Sys2Proof.Machine.execShift core w s
  | .addi core w => Sys2Proof.Machine.execAddi core w s
  | .cmp core w => Sys2Proof.Machine.execCmp core w s
  | .select core w => Sys2Proof.Machine.execSelect core w s
  | .movi core w => Sys2Proof.Machine.execMovi core w s
  | .rdsr core w => Sys2Proof.Machine.execRdsr core w s
  | .rdcyc core w => Sys2Proof.Machine.execRdcyc core w s
  | .br core w => Sys2Proof.Machine.execBr core w s
  | .call core w => Sys2Proof.Machine.execCall core w s
  | .jr core w => Sys2Proof.Machine.execJr core w s
  | .loop core w => Sys2Proof.Machine.execLoop core w s
  | .loopPop core w => Sys2Proof.Machine.execLoopPop core w s
  | .halt core w => Sys2Proof.Machine.execHalt core w s
  | .haltComplete core => Sys2Proof.Machine.execHaltComplete core s
  | .vadd core w => Sys2Proof.Machine.execVadd core w s
  | .vsub core w => Sys2Proof.Machine.execVsub core w s
  | .vmul core w => Sys2Proof.Machine.execVmul core w s
  | .vfma core w => Sys2Proof.Machine.execVfma core w s
  | .vminmax core w => Sys2Proof.Machine.execVminmax core w s
  | .vunary core w => Sys2Proof.Machine.execVunary core w s
  | .vcmp core w => Sys2Proof.Machine.execVcmp core w s
  | .vsel core w => Sys2Proof.Machine.execVsel core w s
  | .vcvt core w => Sys2Proof.Machine.execVcvt core w s
  | .vbcast core w => Sys2Proof.Machine.execVbcast core w s
  | .vperm core w => Sys2Proof.Machine.execVperm core w s
  | .vbits core w => Sys2Proof.Machine.execVbits core w s
  | .vred core w => Sys2Proof.Machine.execVred core w s
  | .vidx core w => Sys2Proof.Machine.execVidx core w s
  | .vpred core w => Sys2Proof.Machine.execVpred core w s
  | .ld core w => Sys2Proof.Machine.execLd core w s
  | .st core w => Sys2Proof.Machine.execSt core w s
  | .vld core w => Sys2Proof.Machine.execVld core w s
  | .vst core w => Sys2Proof.Machine.execVst core w s
  | .vlds core w => Sys2Proof.Machine.execVlds core w s
  | .vsts core w => Sys2Proof.Machine.execVsts core w s
  | .vgather core w => Sys2Proof.Machine.execVgather core w s
  | .vscatter core w => Sys2Proof.Machine.execVscatter core w s
  | .dmaGo core w => Sys2Proof.Machine.execDmaGo core w s
  | .dmaComplete core engine => Sys2Proof.Machine.execDmaComplete core engine s
  | .tmma core w => Sys2Proof.Machine.execTmma core w s
  | .tmmaComplete core => Sys2Proof.Machine.execTmmaComplete core s
  | .tmovIn core w => Sys2Proof.Machine.execTmovIn core w s
  | .tmovOut core w => Sys2Proof.Machine.execTmovOut core w s
  | .tzero core w => Sys2Proof.Machine.execTzero core w s
  | .agOpen core w => Sys2Proof.Machine.execAgOpen core w s
  | .agClose core w => Sys2Proof.Machine.execAgClose core w s
  | .agSave core w => Sys2Proof.Machine.execAgSave core w s
  | .agLoad core w => Sys2Proof.Machine.execAgLoad core w s
  | .agChain core w => Sys2Proof.Machine.execAgChain core w s
  | .chainTransferComplete src dst chan => Sys2Proof.Machine.execChainTransferComplete src dst chan s
  | .efn core w => Sys2Proof.Machine.execEfn core w s
  | .erow core w => Sys2Proof.Machine.execErow core w s
  | .empld core w => Sys2Proof.Machine.execEmpld core w s
  | .imgDataRead rq n => Sys2Proof.Machine.execImgDataRead rq n s
  | .spThr core w => Sys2Proof.Machine.execSpThr core w s
  | .spSort core w => Sys2Proof.Machine.execSpSort core w s
  | .spMerge core w => Sys2Proof.Machine.execSpMerge core w s
  | .spLadder core w => Sys2Proof.Machine.execSpLadder core w s
  | .spDrain core w => Sys2Proof.Machine.execSpDrain core w s
  | .fold core w => Sys2Proof.Machine.execFold core w s
  | .conservationCheck core fault => Sys2Proof.Machine.execConservationCheck core fault s
  | .pack core w => Sys2Proof.Machine.execPack core w s
  | .unpack core w => Sys2Proof.Machine.execUnpack core w s
  | .packHist core w => Sys2Proof.Machine.execPackHist core w s
  | .packCompletion core => Sys2Proof.Machine.execPackCompletion core s
  | .send core w => Sys2Proof.Machine.execSend core w s
  | .messageDelivery src dst chan => Sys2Proof.Machine.execMessageDelivery src dst chan s
  | .recv core w => Sys2Proof.Machine.execRecv core w s
  | .recvAny core w => Sys2Proof.Machine.execRecvAny core w s
  | .msgProbe core w => Sys2Proof.Machine.execMsgProbe core w s
  | .rpost core w => Sys2Proof.Machine.execRpost core w s
  | .spost core w => Sys2Proof.Machine.execSpost core w s
  | .fence core w => Sys2Proof.Machine.execFence core w s
  | .wait core w => Sys2Proof.Machine.execWait core w s
  | .waitFirst core w => Sys2Proof.Machine.execWaitFirst core w s
  | .test core w => Sys2Proof.Machine.execTest core w s
  | .barrier core w => Sys2Proof.Machine.execBarrier core w s
  | .cmld core w => Sys2Proof.Machine.execCmld core w s
  | .cmst core w => Sys2Proof.Machine.execCmst core w s
  | .cmadd core w => Sys2Proof.Machine.execCmadd core w s
  | .cmatom core w => Sys2Proof.Machine.execCmatom core w s
  | .gunWait core w => Sys2Proof.Machine.execGunWait core w s
  | .trap core w => Sys2Proof.Machine.execTrap core w s
  | .brk core w => Sys2Proof.Machine.execBrk core w s
  | .waitTimeout core => Sys2Proof.Machine.execWaitTimeout core s
  | .run a n => Sys2Proof.Machine.execRun a n s
  | .stop a n => Sys2Proof.Machine.execStop a n s
  | .coreReset a n => Sys2Proof.Machine.execCoreReset a n s
  | .coreResetComplete core => Sys2Proof.Machine.execCoreResetComplete core s
  | .imemDataHi a n data => Sys2Proof.Machine.execImemDataHi a n data s
  | .chunkCheck port => Sys2Proof.Machine.execChunkCheck port s
  | .linkEnable a port data => Sys2Proof.Machine.execLinkEnable a port data s
  | .retrain a port data => Sys2Proof.Machine.execRetrain a port data s
  | .autonegComplete port peerTypes => Sys2Proof.Machine.execAutonegComplete port peerTypes s
  | .linkTrainingComplete port => Sys2Proof.Machine.execLinkTrainingComplete port s
  | .fecLock port => Sys2Proof.Machine.execFecLock port s
  | .bringupTimeout port => Sys2Proof.Machine.execBringupTimeout port s
  | .hello port f => Sys2Proof.Machine.execHello port f s
  | .helloTimer port => Sys2Proof.Machine.execHelloTimer port s
  | .idleHello port => Sys2Proof.Machine.execIdleHello port s
  | .liveness port => Sys2Proof.Machine.execLiveness port s
  | .pcsLoss port => Sys2Proof.Machine.execPcsLoss port s
  | .data port f => Sys2Proof.Machine.execData port f s
  | .ack port f => Sys2Proof.Machine.execAck port f s
  | .nak port f => Sys2Proof.Machine.execNak port f s
  | .credit port f => Sys2Proof.Machine.execCredit port f s
  | .pfc port p => Sys2Proof.Machine.execPfc port p s
  | .pause port => Sys2Proof.Machine.execPause port s
  | .pauseExpiry port cls => Sys2Proof.Machine.execPauseExpiry port cls s
  | .pfcRepeat port cls => Sys2Proof.Machine.execPfcRepeat port cls s
  | .ackDelayTimer port cls => Sys2Proof.Machine.execAckDelayTimer port cls s
  | .retransmitTimeout port cls => Sys2Proof.Machine.execRetransmitTimeout port cls s
  | .dataFrameStart port cls now => Sys2Proof.Machine.execDataFrameStart port cls now s
  | .frameForward port cls => Sys2Proof.Machine.execFrameForward port cls s
  | .stallDrop port cls => Sys2Proof.Machine.execStallDrop port cls s
  | .identReq port f => Sys2Proof.Machine.execIdentReq port f s
  | .identResp port f => Sys2Proof.Machine.execIdentResp port f s
  | .openWindow tag => Sys2Proof.Machine.execOpenWindow tag s
  | .revoke tag => Sys2Proof.Machine.execRevoke tag s
  | .bindQueue tag => Sys2Proof.Machine.execBindQueue tag s
  | .pageReady tag => Sys2Proof.Machine.execPageReady tag s
  | .pageUnmap tag => Sys2Proof.Machine.execPageUnmap tag s
  | .storkWrite tag => Sys2Proof.Machine.execStorkWrite tag s
  | .storkRead tag => Sys2Proof.Machine.execStorkRead tag s
  | .storkFlag tag => Sys2Proof.Machine.execStorkFlag tag s
  | .flagSend tag => Sys2Proof.Machine.execFlagSend tag s
  | .writeData arrival f => Sys2Proof.Machine.execWriteData arrival f s
  | .flagFrame arrival f => Sys2Proof.Machine.execFlagFrame arrival f s
  | .readReq arrival f => Sys2Proof.Machine.execReadReq arrival f s
  | .readData arrival f => Sys2Proof.Machine.execReadData arrival f s
  | .response arrival f => Sys2Proof.Machine.execResponse arrival f s
  | .responseCoalesceTimer arrival => Sys2Proof.Machine.execResponseCoalesceTimer arrival s
  | .stallExpiry => Sys2Proof.Machine.execStallExpiry s
  | .resendRound tag => Sys2Proof.Machine.execResendRound tag s
  | .progressTimeout tag => Sys2Proof.Machine.execProgressTimeout tag s
  | .replay tag => Sys2Proof.Machine.execReplay tag s
  | .routeWaitExpiry tag => Sys2Proof.Machine.execRouteWaitExpiry tag s
  | .compressedWriteDiscard arrival => Sys2Proof.Machine.execCompressedWriteDiscard arrival s
  | .keyLoad a data => Sys2Proof.Machine.execKeyLoad a data s
  | .keyClear a data => Sys2Proof.Machine.execKeyClear a data s
  | .keyOpComplete => Sys2Proof.Machine.execKeyOpComplete s
  | .relayCreate tag => Sys2Proof.Machine.execRelayCreate tag s
  | .relayStep tag => Sys2Proof.Machine.execRelayStep tag s
  | .relayReform tag => Sys2Proof.Machine.execRelayReform tag s
  | .relayDissolve tag => Sys2Proof.Machine.execRelayDissolve tag s
  | .dissolveRelease group => Sys2Proof.Machine.execDissolveRelease group s
  | .count port f => Sys2Proof.Machine.execCount port f s
  | .up port chunk => Sys2Proof.Machine.execUp port chunk s
  | .down port chunk => Sys2Proof.Machine.execDown port chunk s
  | .endFrame port f => Sys2Proof.Machine.execEndFrame port f s
  | .doneFrame port f => Sys2Proof.Machine.execDoneFrame port f s
  | .release port f => Sys2Proof.Machine.execRelease port f s
  | .abort port f => Sys2Proof.Machine.execAbort port f s
  | .topo port f => Sys2Proof.Machine.execTopo port f s
  | .commit port f => Sys2Proof.Machine.execCommit port f s
  | .formWait group => Sys2Proof.Machine.execFormWait group s
  | .createWait group => Sys2Proof.Machine.execCreateWait group s
  | .stepWait group => Sys2Proof.Machine.execStepWait group s
  | .leaseExpiry group port => Sys2Proof.Machine.execLeaseExpiry group port s
  | .gunArm a data => Sys2Proof.Machine.execGunArm a data s
  | .gunAbort a data => Sys2Proof.Machine.execGunAbort a data s
  | .gunReady now => Sys2Proof.Machine.execGunReady now s
  | .ready port f now => Sys2Proof.Machine.execReady port f now s
  | .fire port f arrival => Sys2Proof.Machine.execFire port f arrival s
  | .gunAbortMessage port f => Sys2Proof.Machine.execGunAbortMessage port f s
  | .gunFire now => Sys2Proof.Machine.execGunFire now s
  | .gunArmWait => Sys2Proof.Machine.execGunArmWait s
  | .gunNoFire => Sys2Proof.Machine.execGunNoFire s
  | .delayMeasurement port now => Sys2Proof.Machine.execDelayMeasurement port now s
  | .delayReq port f t2 t3 => Sys2Proof.Machine.execDelayReq port f t2 t3 s
  | .delayResp port f t4 => Sys2Proof.Machine.execDelayResp port f t4 s
  | .pacerEnable a data partner => Sys2Proof.Machine.execPacerEnable a data partner s
  | .pacerDisable a data => Sys2Proof.Machine.execPacerDisable a data s
  | .pacerResponseDelivery present => Sys2Proof.Machine.execPacerResponseDelivery present s
  | .pace port f => Sys2Proof.Machine.execPace port f s
  | .pacedDoorbell partition ring => Sys2Proof.Machine.execPacedDoorbell partition ring s
  | .pacerWindowEnd trace => Sys2Proof.Machine.execPacerWindowEnd trace s
  | .digest port f => Sys2Proof.Machine.execDigest port f s
  | .pacerStop => Sys2Proof.Machine.execPacerStop s
  | .recordStart a data => Sys2Proof.Machine.execRecordStart a data s
  | .replayStart a data => Sys2Proof.Machine.execReplayStart a data s
  | .recStop a data => Sys2Proof.Machine.execRecStop a data s
  | .recordCountRewrite => Sys2Proof.Machine.execRecordCountRewrite s
  | .replayRelease => Sys2Proof.Machine.execReplayRelease s
  | .replayInputTimeout => Sys2Proof.Machine.execReplayInputTimeout s
  | .sqDb a partition ring data => Sys2Proof.Machine.execSqDb a partition ring data s
  | .cqDb a partition ring data => Sys2Proof.Machine.execCqDb a partition ring data s
  | .ringCfgEnable a partition ring data => Sys2Proof.Machine.execRingCfgEnable a partition ring data s
  | .ringCfgDisable a partition ring data => Sys2Proof.Machine.execRingCfgDisable a partition ring data s
  | .descriptorFetch partition answer => Sys2Proof.Machine.execDescriptorFetch partition answer s
  | .completionWrite tag => Sys2Proof.Machine.execCompletionWrite tag s
  | .coalesceTimer partition ring => Sys2Proof.Machine.execCoalesceTimer partition ring s
  | .hostNop tag => Sys2Proof.Machine.execHostNop tag s
  | .copy tag answer => Sys2Proof.Machine.execCopy tag answer s
  | .launch tag => Sys2Proof.Machine.execLaunch tag s
  | .repartition tag => Sys2Proof.Machine.execRepartition tag s
  | .repartitionComplete => Sys2Proof.Machine.execRepartitionComplete s
  | .resetRequest a partition data => Sys2Proof.Machine.execResetRequest a partition data s
  | .drainAck a partition data => Sys2Proof.Machine.execDrainAck a partition data s
  | .drainPeriodEnd => Sys2Proof.Machine.execDrainPeriodEnd s
  | .gets agent line => Sys2Proof.Machine.execGets agent line s
  | .getm agent line => Sys2Proof.Machine.execGetm agent line s
  | .atomic agent addr op => Sys2Proof.Machine.execAtomic agent addr op s
  | .putm agent line merge => Sys2Proof.Machine.execPutm agent line merge s
  | .puts agent line => Sys2Proof.Machine.execPuts agent line s
  | .agentFence agent => Sys2Proof.Machine.execAgentFence agent s
  | .retry agent line => Sys2Proof.Machine.execRetry agent line s
  | .recall line => Sys2Proof.Machine.execRecall line s
  | .reservationExpiry line => Sys2Proof.Machine.execReservationExpiry line s
  | .parityError agent line => Sys2Proof.Machine.execParityError agent line s
  | .stackPhyFail stack => Sys2Proof.Machine.execStackPhyFail stack s
  | .hbmScrub stack result => Sys2Proof.Machine.execHbmScrub stack result s
  | .cmScrub slice result => Sys2Proof.Machine.execCmScrub slice result s
  | .serdesRecalibration port lane => Sys2Proof.Machine.execSerdesRecalibration port lane s
  | .sensorCalibration begins => Sys2Proof.Machine.execSensorCalibration begins s
  | .flashWear action => Sys2Proof.Machine.execFlashWear action s
  | .telemetrySample t => Sys2Proof.Machine.execTelemetrySample t s
  | .bgPause a data => Sys2Proof.Machine.execBgPause a data s
  | .autoResume service => Sys2Proof.Machine.execAutoResume service s
  | .sample chan inputs overRange => Sys2Proof.Machine.execSample chan inputs overRange s
  | .bandFrame => Sys2Proof.Machine.execBandFrame s
  | .toneBlock => Sys2Proof.Machine.execToneBlock s
  | .ringBlockWrite => Sys2Proof.Machine.execRingBlockWrite s
  | .postfillEnd => Sys2Proof.Machine.execPostfillEnd s
  | .biasFault input => Sys2Proof.Machine.execBiasFault input s
  | .pdmStuck => Sys2Proof.Machine.execPdmStuck s
  | .levelUpdate => Sys2Proof.Machine.execLevelUpdate s
  | .biasChange a data => Sys2Proof.Machine.execBiasChange a data s
  | .wakeAck a data => Sys2Proof.Machine.execWakeAck a data s
  | .testWake a data => Sys2Proof.Machine.execTestWake a data s
  | .ovrClear a data => Sys2Proof.Machine.execOvrClear a data s
  | .ringEn a data => Sys2Proof.Machine.execRingEn a data s
  | .ringEnClear a data => Sys2Proof.Machine.execRingEnClear a data s
  | .ringRelease a data => Sys2Proof.Machine.execRingRelease a data s
  | .ringDataRead rq => Sys2Proof.Machine.execRingDataRead rq s
  | .panelCommit => Sys2Proof.Machine.execPanelCommit s
  | .panelDraw => Sys2Proof.Machine.execPanelDraw s
  | .busyFall => Sys2Proof.Machine.execBusyFall s
  | .panelFail => Sys2Proof.Machine.execPanelFail s
  | .panelRedraw => Sys2Proof.Machine.execPanelRedraw s
  | .panelUpdate a data => Sys2Proof.Machine.execPanelUpdate a data s
  | .recordDataRead rq => Sys2Proof.Machine.execRecordDataRead rq s
  | .headerDetect low => Sys2Proof.Machine.execHeaderDetect low s
  | .getIdent pec => Sys2Proof.Machine.execGetIdent pec s
  | .getState pec => Sys2Proof.Machine.execGetState pec s
  | .getDieTemp pec => Sys2Proof.Machine.execGetDieTemp pec s
  | .getHbmTemp pec => Sys2Proof.Machine.execGetHbmTemp pec s
  | .getPower pec => Sys2Proof.Machine.execGetPower pec s
  | .getReturnCode pec => Sys2Proof.Machine.execGetReturnCode pec s
  | .getRecordLo pec => Sys2Proof.Machine.execGetRecordLo pec s
  | .getRecordHi pec => Sys2Proof.Machine.execGetRecordHi pec s
  | .getFaultSummary pec => Sys2Proof.Machine.execGetFaultSummary pec s
  | .setPowerLimit watts pec => Sys2Proof.Machine.execSetPowerLimit watts pec s
  | .smbusUnknownCommand code wrongPec => Sys2Proof.Machine.execSmbusUnknownCommand code wrongPec s
  | .standbyPowerLoss => Sys2Proof.Machine.execStandbyPowerLoss s
  | .hbmPhyTrainingLoss stack retrained => Sys2Proof.Machine.execHbmPhyTrainingLoss stack retrained s
  | .pdmTransitionsResume => Sys2Proof.Machine.execPdmTransitionsResume s
  | .minimumServiceSetFailure unit => Sys2Proof.Machine.execMinimumServiceSetFailure unit s
  | .foreignFrame port f => Sys2Proof.Machine.execForeignFrame port f s
  | .classDCompletion core => Sys2Proof.Machine.execClassDCompletion core s

end Sys2Proof.Machine
end

