-- ==== Sys2Proof/Machine/Tick.lean ====
section
/-! DEFINITION. The passing of one alignment frame (R75, R86), which is what the device does on an empty queue (DESIGN
CHOICE, entry 1): FRAME_COUNT and the cycle counters of the running cores advance, a memory cell may take an error, and a stack
at its limit of uncorrectable errors is fenced. -/

namespace Sys2Proof.Machine

open Sys2Proof

/-- One core over one frame: 6 CCLK cycles in RUNNING or HALTING, and a frame withheld by the throttle (R85, R193). -/
def tickCore (s : State) (c : Fin 16) : State :=
  if coreRuns (getCore s c) then
    let s := modCore (bump s (.core c 0) 1 6) c (fun k => { k with cycles := k.cycles + 6 })
    if withheld s then bump s (.core c 0) 5 else s
  else s

/-- A new cycle: the edges, the grants and the causes of a Pacer stop that met in the last one are over, and a drain has run
for one frame more (R125, R617, R646, R752). -/
def newCycle (s : State) : State :=
  { s with
    edges := [], granted := [], drain := s.drain.map (fun d => { d with frames := d.frames + 1 }),
    pacer := { s.pacer with stopOpen := false } }

/-- One alignment frame, one SCLK cycle, passes once the dividers are released (R76, R82, R86); before, the rails may be coming
up. (DESIGN CHOICE, entries 108
and 123). -/
def tick (s : State) : State :=
  if s.power.released then
    (List.finRange 12).foldl ueFence (upset ((List.finRange 16).foldl tickCore (bump (newCycle s) .clock 0)))
  else railStep s

end Sys2Proof.Machine
end

