-- ==== Sys2Proof/WellFormed.lean ====
section
/-! DEFINITION. Which commands the device's surroundings can produce: payload and list lengths, aligned offsets and line
numbers that exist.  The meanings are total and do not rely on it. -/

namespace Sys2Proof

/-- A payload of at most 8,192 bytes (R391). -/
def Frame.wellFormed (f : Frame) : Bool := f.payload.length ≤ 8192

/-- The command's operands are ones a sender can form: frames (R391, R401), register offsets (R93), counter pairs (R114),
control-memory lines and words (R637), sensor lists (R653), the inputs of
an output sample (R664, R673) and PHY types (R379). -/
def Instr.wellFormed (i : Instr) : Bool :=
  match i with
  | .registerWrite _ addr _ => addr.toNat % 4 = 0
  | .counterLowRead _ _ pair => pair.index < 256
  | .autonegComplete _ peerTypes => peerTypes.length ≤ 4
  | .hello _ f => f.wellFormed
  | .data _ f => f.wellFormed
  | .ack _ f => f.wellFormed
  | .nak _ f => f.wellFormed
  | .credit _ f => f.wellFormed
  | .pfc _ p => p.times.length = 8
  | .identReq _ f => f.wellFormed
  | .identResp _ f => f.wellFormed
  | .writeData _ f => f.wellFormed
  | .flagFrame _ f => f.wellFormed
  | .readReq _ f => f.wellFormed
  | .readData _ f => f.wellFormed
  | .response _ f => f.wellFormed
  | .count _ f => f.wellFormed
  | .up _ chunk => !chunk.isEmpty && chunk.all Frame.wellFormed
  | .down _ chunk => !chunk.isEmpty && chunk.all Frame.wellFormed
  | .endFrame _ f => f.wellFormed
  | .doneFrame _ f => f.wellFormed
  | .release _ f => f.wellFormed
  | .abort _ f => f.wellFormed
  | .topo _ f => f.wellFormed
  | .commit _ f => f.wellFormed
  | .ready _ f _ => f.wellFormed
  | .fire _ f _ => f.wellFormed
  | .gunAbortMessage _ f => f.wellFormed
  | .delayReq _ f _ _ => f.wellFormed
  | .delayResp _ f _ => f.wellFormed
  | .pace _ f => f.wellFormed
  | .digest _ f => f.wellFormed
  | .gets _ line => line < 262144
  | .getm _ line => line < 262144
  | .atomic _ addr _ => addr % 8 = 0 && addr < 0x1000000
  | .putm _ line _ => line < 262144
  | .puts _ line => line < 262144
  | .retry _ line => line < 262144
  | .recall line => line < 262144
  | .reservationExpiry line => line < 262144
  | .parityError _ line => line < 262144
  | .telemetrySample t => t.hbmTemps.length ≤ 12
  | .sample _ inputs _ => inputs.length = 192
  | .foreignFrame _ f => f.wellFormed
  | .standbyPowerUp | .mainPowerArrival _ _ | .railsGood | .mainPowerLoss | .thermalTrip | .perstAssert
  | .perstDeassert | .linkInitiatedReset | .dividerRelease _ _ | .rootLockLoss | .statusReady _ | .configRequest _ _ _
  | .d3hotEntry _ | .d0Return _ | .msixUnmask _ _ | .busMasterDisable _ | .irqStatusClear _ _ _ | .irqForce _ _ _
  | .errCountRead _ _ | .badAccessRead _ | .ctrlEnable _ _ _ | .enableClearOnIdle _ | .ctrlQuiesce _ _ _ | .ctrlLock _ _ _
  | .irqRouteWrite _ _ _ | .photoFinish _ _ | .photoFinishActivation | .fullReset _ _ | .unitFence _ | .mbNop _
  | .mbLogInfo _ | .mbReadLog _ | .mbReadRecord _ | .mbReadReturnCode _ | .mbRemoteIdent _ | .remoteIdentTimeout
  | .add _ _ | .sub _ _ | .mul _ _ | .logic _ _ | .shift _ _ | .addi _ _
  | .cmp _ _ | .select _ _ | .movi _ _ | .rdsr _ _ | .rdcyc _ _ | .br _ _
  | .call _ _ | .jr _ _ | .loop _ _ | .loopPop _ _ | .halt _ _ | .haltComplete _
  | .vadd _ _ | .vsub _ _ | .vmul _ _ | .vfma _ _ | .vminmax _ _ | .vunary _ _
  | .vcmp _ _ | .vsel _ _ | .vcvt _ _ | .vbcast _ _ | .vperm _ _ | .vbits _ _
  | .vred _ _ | .vidx _ _ | .vpred _ _ | .ld _ _ | .st _ _ | .vld _ _
  | .vst _ _ | .vlds _ _ | .vsts _ _ | .vgather _ _ | .vscatter _ _ | .dmaGo _ _
  | .dmaComplete _ _ | .tmma _ _ | .tmmaComplete _ | .tmovIn _ _ | .tmovOut _ _ | .tzero _ _
  | .agOpen _ _ | .agClose _ _ | .agSave _ _ | .agLoad _ _ | .agChain _ _ | .chainTransferComplete _ _ _
  | .efn _ _ | .erow _ _ | .empld _ _ | .imgDataRead _ _ | .spThr _ _ | .spSort _ _
  | .spMerge _ _ | .spLadder _ _ | .spDrain _ _ | .fold _ _ | .conservationCheck _ _ | .pack _ _
  | .unpack _ _ | .packHist _ _ | .packCompletion _ | .send _ _ | .messageDelivery _ _ _ | .recv _ _
  | .recvAny _ _ | .msgProbe _ _ | .rpost _ _ | .spost _ _ | .fence _ _ | .wait _ _
  | .waitFirst _ _ | .test _ _ | .barrier _ _ | .cmld _ _ | .cmst _ _ | .cmadd _ _
  | .cmatom _ _ | .gunWait _ _ | .trap _ _ | .brk _ _ | .waitTimeout _ | .run _ _
  | .stop _ _ | .coreReset _ _ | .coreResetComplete _ | .imemDataHi _ _ _ | .chunkCheck _ | .linkEnable _ _ _
  | .retrain _ _ _ | .linkTrainingComplete _ | .fecLock _ | .bringupTimeout _ | .helloTimer _ | .idleHello _
  | .liveness _ | .pcsLoss _ | .pause _ | .pauseExpiry _ _ | .pfcRepeat _ _ | .ackDelayTimer _ _
  | .retransmitTimeout _ _ | .dataFrameStart _ _ _ | .frameForward _ _ | .stallDrop _ _ | .openWindow _ | .revoke _
  | .bindQueue _ | .pageReady _ | .pageUnmap _ | .storkWrite _ | .storkRead _ | .storkFlag _
  | .flagSend _ | .responseCoalesceTimer _ | .stallExpiry | .resendRound _ | .progressTimeout _ | .replay _
  | .routeWaitExpiry _ | .compressedWriteDiscard _ | .keyLoad _ _ | .keyClear _ _ | .keyOpComplete | .relayCreate _
  | .relayStep _ | .relayReform _ | .relayDissolve _ | .dissolveRelease _ | .formWait _ | .createWait _
  | .stepWait _ | .leaseExpiry _ _ | .gunArm _ _ | .gunAbort _ _ | .gunReady _ | .gunFire _
  | .gunArmWait | .gunNoFire | .delayMeasurement _ _ | .pacerEnable _ _ _ | .pacerDisable _ _ | .pacerResponseDelivery _
  | .pacedDoorbell _ _ | .pacerWindowEnd _ | .pacerStop | .recordStart _ _ | .replayStart _ _ | .recStop _ _
  | .recordCountRewrite | .replayRelease | .replayInputTimeout | .sqDb _ _ _ _ | .cqDb _ _ _ _ | .ringCfgEnable _ _ _ _
  | .ringCfgDisable _ _ _ _ | .descriptorFetch _ _ | .completionWrite _ | .coalesceTimer _ _ | .hostNop _ | .copy _ _
  | .launch _ | .repartition _ | .repartitionComplete | .resetRequest _ _ _ | .drainAck _ _ _ | .drainPeriodEnd
  | .agentFence _ | .stackPhyFail _ | .hbmScrub _ _ | .cmScrub _ _ | .serdesRecalibration _ _ | .sensorCalibration _
  | .flashWear _ | .bgPause _ _ | .autoResume _ | .bandFrame | .toneBlock
  | .ringBlockWrite | .postfillEnd | .biasFault _ | .pdmStuck | .levelUpdate | .biasChange _ _
  | .wakeAck _ _ | .testWake _ _ | .ovrClear _ _ | .ringEn _ _ | .ringEnClear _ _ | .ringRelease _ _
  | .ringDataRead _ | .panelCommit | .panelDraw | .busyFall | .panelFail | .panelRedraw
  | .panelUpdate _ _ | .recordDataRead _ | .headerDetect _ | .getIdent _ | .getState _ | .getDieTemp _
  | .getHbmTemp _ | .getPower _ | .getReturnCode _ | .getRecordLo _ | .getRecordHi _ | .getFaultSummary _
  | .setPowerLimit _ _ | .smbusUnknownCommand _ _ | .standbyPowerLoss | .hbmPhyTrainingLoss _ _ | .pdmTransitionsResume | .minimumServiceSetFailure _
  | .classDCompletion _ => true

/-- The core and the word of a command that issues an instruction; none for every other command. -/
def Instr.issued (i : Instr) : Option (Fin 16 × DWord) :=
  match i with
  | .add core w | .sub core w | .mul core w | .logic core w | .shift core w | .addi core w
  | .cmp core w | .select core w | .movi core w | .rdsr core w | .rdcyc core w | .br core w
  | .call core w | .jr core w | .loop core w | .loopPop core w | .halt core w | .vadd core w
  | .vsub core w | .vmul core w | .vfma core w | .vminmax core w | .vunary core w | .vcmp core w
  | .vsel core w | .vcvt core w | .vbcast core w | .vperm core w | .vbits core w | .vred core w
  | .vidx core w | .vpred core w | .ld core w | .st core w | .vld core w | .vst core w
  | .vlds core w | .vsts core w | .vgather core w | .vscatter core w | .dmaGo core w | .tmma core w
  | .tmovIn core w | .tmovOut core w | .tzero core w | .agOpen core w | .agClose core w | .agSave core w
  | .agLoad core w | .agChain core w | .efn core w | .erow core w | .empld core w | .spThr core w
  | .spSort core w | .spMerge core w | .spLadder core w | .spDrain core w | .fold core w | .pack core w
  | .unpack core w | .packHist core w | .send core w | .recv core w | .recvAny core w | .msgProbe core w
  | .rpost core w | .spost core w | .fence core w | .wait core w | .waitFirst core w | .test core w
  | .barrier core w | .cmld core w | .cmst core w | .cmadd core w | .cmatom core w | .gunWait core w
  | .trap core w | .brk core w => some (core, w)
  | .standbyPowerUp | .mainPowerArrival _ _ | .railsGood | .mainPowerLoss | .thermalTrip | .perstAssert
  | .perstDeassert | .linkInitiatedReset | .dividerRelease _ _ | .rootLockLoss | .statusReady _ | .configRequest _ _ _
  | .d3hotEntry _ | .d0Return _ | .msixUnmask _ _ | .busMasterDisable _ | .registerWrite _ _ _ | .irqStatusClear _ _ _
  | .irqForce _ _ _ | .errCountRead _ _ | .badAccessRead _ | .counterLowRead _ _ _ | .ctrlEnable _ _ _ | .enableClearOnIdle _
  | .ctrlQuiesce _ _ _ | .ctrlLock _ _ _ | .irqRouteWrite _ _ _ | .photoFinish _ _ | .photoFinishActivation | .fullReset _ _
  | .unitFence _ | .mbNop _ | .mbLogInfo _ | .mbReadLog _ | .mbReadRecord _ | .mbReadReturnCode _
  | .mbRemoteIdent _ | .remoteIdentTimeout | .haltComplete _ | .dmaComplete _ _ | .tmmaComplete _ | .chainTransferComplete _ _ _
  | .imgDataRead _ _ | .conservationCheck _ _ | .packCompletion _ | .messageDelivery _ _ _ | .waitTimeout _ | .run _ _
  | .stop _ _ | .coreReset _ _ | .coreResetComplete _ | .imemDataHi _ _ _ | .chunkCheck _ | .linkEnable _ _ _
  | .retrain _ _ _ | .autonegComplete _ _ | .linkTrainingComplete _ | .fecLock _ | .bringupTimeout _ | .hello _ _
  | .helloTimer _ | .idleHello _ | .liveness _ | .pcsLoss _ | .data _ _ | .ack _ _
  | .nak _ _ | .credit _ _ | .pfc _ _ | .pause _ | .pauseExpiry _ _ | .pfcRepeat _ _
  | .ackDelayTimer _ _ | .retransmitTimeout _ _ | .dataFrameStart _ _ _ | .frameForward _ _ | .stallDrop _ _ | .identReq _ _
  | .identResp _ _ | .openWindow _ | .revoke _ | .bindQueue _ | .pageReady _ | .pageUnmap _
  | .storkWrite _ | .storkRead _ | .storkFlag _ | .flagSend _ | .writeData _ _ | .flagFrame _ _
  | .readReq _ _ | .readData _ _ | .response _ _ | .responseCoalesceTimer _ | .stallExpiry | .resendRound _
  | .progressTimeout _ | .replay _ | .routeWaitExpiry _ | .compressedWriteDiscard _ | .keyLoad _ _ | .keyClear _ _
  | .keyOpComplete | .relayCreate _ | .relayStep _ | .relayReform _ | .relayDissolve _ | .dissolveRelease _
  | .count _ _ | .up _ _ | .down _ _ | .endFrame _ _ | .doneFrame _ _ | .release _ _
  | .abort _ _ | .topo _ _ | .commit _ _ | .formWait _ | .createWait _ | .stepWait _
  | .leaseExpiry _ _ | .gunArm _ _ | .gunAbort _ _ | .gunReady _ | .ready _ _ _ | .fire _ _ _
  | .gunAbortMessage _ _ | .gunFire _ | .gunArmWait | .gunNoFire | .delayMeasurement _ _ | .delayReq _ _ _ _
  | .delayResp _ _ _ | .pacerEnable _ _ _ | .pacerDisable _ _ | .pacerResponseDelivery _ | .pace _ _ | .pacedDoorbell _ _
  | .pacerWindowEnd _ | .digest _ _ | .pacerStop | .recordStart _ _ | .replayStart _ _ | .recStop _ _
  | .recordCountRewrite | .replayRelease | .replayInputTimeout | .sqDb _ _ _ _ | .cqDb _ _ _ _ | .ringCfgEnable _ _ _ _
  | .ringCfgDisable _ _ _ _ | .descriptorFetch _ _ | .completionWrite _ | .coalesceTimer _ _ | .hostNop _ | .copy _ _
  | .launch _ | .repartition _ | .repartitionComplete | .resetRequest _ _ _ | .drainAck _ _ _ | .drainPeriodEnd
  | .gets _ _ | .getm _ _ | .atomic _ _ _ | .putm _ _ _ | .puts _ _ | .agentFence _
  | .retry _ _ | .recall _ | .reservationExpiry _ | .parityError _ _ | .stackPhyFail _ | .hbmScrub _ _
  | .cmScrub _ _ | .serdesRecalibration _ _ | .sensorCalibration _ | .flashWear _ | .telemetrySample _ | .bgPause _ _
  | .autoResume _ | .sample _ _ _ | .bandFrame | .toneBlock | .ringBlockWrite | .postfillEnd
  | .biasFault _ | .pdmStuck | .levelUpdate | .biasChange _ _ | .wakeAck _ _ | .testWake _ _
  | .ovrClear _ _ | .ringEn _ _ | .ringEnClear _ _ | .ringRelease _ _ | .ringDataRead _ | .panelCommit
  | .panelDraw | .busyFall | .panelFail | .panelRedraw | .panelUpdate _ _ | .recordDataRead _
  | .headerDetect _ | .getIdent _ | .getState _ | .getDieTemp _ | .getHbmTemp _ | .getPower _
  | .getReturnCode _ | .getRecordLo _ | .getRecordHi _ | .getFaultSummary _ | .setPowerLimit _ _ | .smbusUnknownCommand _ _
  | .standbyPowerLoss | .hbmPhyTrainingLoss _ _ | .pdmTransitionsResume | .minimumServiceSetFailure _ | .foreignFrame _ _ | .classDCompletion _ => none

end Sys2Proof
end

