-- ==== Sys2Proof/Safety.lean ====
section
/-! DEFINITION. What counts as a run of the real device: commands a sender can form, instructions that are the stored ones,
and memories in canonical form. -/

namespace Sys2Proof.Machine

open Sys2Proof

/-- The word a core would issue next: the one it waits on, else the one its PC names (R137, R151). -/
def nextWord (s : State) (c : Fin 16) : DWord :=
  match (getCore s c).waiting with
  | some x => x.w
  | none => mgetD (getCore s c).imem 0 ((getCore s c).pc.toNat / 8)

/-- A command a run may contain: well formed, and an instruction only as the core's store has it. -/
def follows (s : State) (i : Instr) : Bool :=
  i.wellFormed && match i.issued with
    | some (c, w) => w = nextWord s c
    | none => true

/-- The byte memories and the maps over them keep their canonical form. -/
def memoriesOk (s : State) : Bool :=
  s.hbm.wf && s.cm.wf && s.cores.toList.all (fun k => k.spad.wf)

/-- The maps a register page and the directory keep are in canonical form, as the byte memories are. -/
def storesCanonical (s : State) : Bool :=
  memoriesOk s && mwf s.dir && s.pages.toList.all (fun p => mwf p.regs && mwf p.ctrs)

/-- The power state is one the card can be in (R82 to R84, R583, R608, R714, R715, R718, R719, R722): a device that is on
has its rails and no PERST#; a ready one has released its dividers, which start ROOT, the management core's clock and the
frame phase together; good rails rest on 12 V, with nothing that keeps them off; 12 V needs standby power; the cap and the
limit are a row of the SENSE table. -/
def powerLegal (p : Power) : Bool :=
  (!(p.phase = .ready || p.phase = .booting || p.phase = .resetting) || (p.railsGood && !p.perst)) &&
    (p.phase != .ready || p.released) && p.rootLocked = p.released && p.mgmtOnSclk = p.released &&
    p.phaseValid = p.released && (p.refOffset = 0 || p.refOffset = 24) &&
    (!p.railsGood || (p.main12v && !p.railsOff && !p.railFailed && !p.tripLatch && p.needPerst = 0)) && (!p.main12v || p.aux) &&
    (p.phase != .noStandby || !p.aux) && [(0, 0), (600, 600), (450, 510), (300, 360), (150, 0)].contains
      (p.senseCap, p.maxPowerLimit) && (!p.railsOff || p.senseCap = 150)

/-- Everything outside the registers, program counter and trap record of core `c`, its scratchpad and its loop stack is as
it was: the other cores, every memory and map, and the register words of every page. -/
def keepsRest (s t : State) (c : Fin 16) : Prop :=
  (∀ d, d ≠ c → getCore t d = getCore s d) ∧ t.hbm = s.hbm ∧ t.cm = s.cm ∧ t.dir = s.dir ∧ t.ctxs = s.ctxs ∧
    t.hbmFlaws = s.hbmFlaws ∧ t.cmFlaws = s.cmFlaws ∧ t.granted = s.granted ∧ t.mesh = s.mesh ∧ t.chains = s.chains ∧ t.power = s.power ∧ t.units = s.units ∧ t.ports = s.ports ∧ t.stork = s.stork ∧
    t.relay = s.relay ∧ t.rings = s.rings ∧ t.mgmt = s.mgmt ∧ t.bittern = s.bittern ∧ t.gun = s.gun ∧ t.pacer = s.pacer ∧
    t.recorder = s.recorder ∧ t.mailbox = s.mailbox ∧ (∀ pg off, regOf t pg off = regOf s pg off) ∧
    (getCore t c).imem = (getCore s c).imem ∧ (getCore t c).pool = (getCore s c).pool ∧
    (getCore t c).groups = (getCore s c).groups ∧ (getCore t c).slots = (getCore s c).slots ∧
    (getCore t c).dops = (getCore s c).dops ∧ (getCore t c).dmaTags = (getCore s c).dmaTags ∧
    (getCore t c).dmaQ = (getCore s c).dmaQ ∧ (getCore t c).msgs = (getCore s c).msgs ∧
    (getCore t c).cycles = (getCore s c).cycles ∧ (getCore t c).runs = (getCore s c).runs ∧
    (getCore t c).array = (getCore s c).array ∧ (getCore t c).micro = (getCore s c).micro ∧
    (getCore t c).ladder = (getCore s c).ladder ∧ (getCore t c).fold = (getCore s c).fold ∧
    (getCore t c).packQ = (getCore s c).packQ

/-- What a trap leaves in its core (R184 to R186, R190): everything but the state, the trap record and what it waits on. -/
def trapped (k : Core) (w : DWord) (cause code addr : Nat) : Core :=
  { k with st := .trapped, halted := false, waiting := none, trapValid := true, trapCause := cause, trapCode := code,
           trapInstr := w, trapAddr := addr }

/-- The unit an opcode belongs to takes work (R101 to R103). -/
def unitTakes (s : State) (c : Fin 16) (op : Nat) : Bool :=
  match unitOf op with
  | none => true
  | some j =>
    let p := getPage s (.core c j)
    p.enable && !p.disabling && !p.quiesce

/-- Core `c` may issue the word `w` of the row with opcode `op`, which carries the V mark if `v`: the core runs and is not
withheld (R721), waits on nothing else, no CONSERVE_FAIL waits (R317), the PC names an instruction (R185), the register
fields are defined (R147), the V mark is allowed (R157), the predicate holds (R140), the unit takes work (R102, R103), and
no operation in flight stands in the way (R151). -/
def mayIssue (s : State) (c : Fin 16) (w : DWord) (op : Nat) (v : Bool) : Bool :=
  let k := getCore s c
  k.st = .running && !withheld s && k.waiting.all (fun x => x.w = w) && k.pc.toNat < 0x20000 && k.pc.toNat % 8 = 0 &&
    k.pendingTrap.isNone && opDefined op && fOp w = op && regsOk w && !(v && s.pfActive) &&
    (laneWise op || predHolds k w) && unitTakes s c op && !hazard s c w

/-- An instruction that was no taken branch has completed: the counters and the PC move (R143, R192). -/
def finish (s : State) (c : Fin 16) (v : Bool) : State := advance (retire s c v) c

/-- An instruction that set the PC has completed. -/
def finishAt (s : State) (c : Fin 16) (v : Bool) (pc : DWord) : State :=
  modCore (retire s c v) c (fun k => { k with pc := pc })

/-- The state with one register of core `c` written. -/
def withS (s : State) (c : Fin 16) (r : Nat) (v : DWord) : State := modCore s c (fun k => setS k r v)
def withV (s : State) (c : Fin 16) (r : Nat) (v : BitVec 2048) : State := modCore s c (fun k => setV k r v)
def withP (s : State) (c : Fin 16) (r : Nat) (v : DWord) : State := modCore s c (fun k => setP k r v)

/-- A flight context as an instruction of core `c` takes it for a descriptor at `addr` (R586). -/
def coreCtxOf (s : State) (c : Fin 16) (kind : CtxKind) (addr : Nat) : Ctx :=
  { owner := .core c, kind := kind, part := partOfCore s c, addr := addr }

/-- A whole-word register write through function `a.fn` to page `pg` takes effect at page `p` of the state: the page answers
(R91, R95, R96, R98), every byte is enabled (R119), and a Chip-owned page is written through PF0 (R97). -/
def reaches (s : State) (a : Access) (pg p : PageId) : Bool :=
  resolve s a.fn pg = some p && a.be = 0xF && (!chipOwned pg || a.fn = 0)

/-- The Stork engine may take up the unpoisoned descriptor `d`, of operation `op`, that the context `x` of a tag was taken
for (R102, R103, R443, R586, R639). -/
def storkPosted (s : State) (tag op : Nat) (x : Ctx) (d : SDesc) : Bool :=
  storkTake s tag = some x && !fewSlices s && (getPage s .stork).enable && !(ctxDesc s x).2 && sDesc (ctxDesc s x).1 = d && d.op = op

/-- The Relay may take up the descriptor `d`, of operation `op`, of a context `x`, and nothing stands before it (R102, R103,
R490, R494). -/
def relayPosted (s : State) (tag op : Nat) (x : Ctx) (d : RDesc) : Bool :=
  relayTake s tag = some x && rDesc (ctxDesc s x).1 = d && d.op = op &&
    (relayGate (startCtx s tag) x d (ctxDesc s x).2).isNone

/-- A checked chunk of kind `kind` heads a port, belongs to the step `st` of group `g` that is active, and its stream is
good (R369, R518). -/
def chunkFits (s : State) (m : Fin 8) (kind g : Nat) (st : StepState) (r : ReadyChunk) (u : State) : Prop :=
  ∃ f rest, r.frames = f :: rest ∧ frRelayKind f = kind ∧ frGroup f = g ∧ takeReady s m r.frames = some (r, u) ∧
    r.damaged = none ∧ (getGrp u g).st = .active ∧ (getGrp u g).step = some st ∧ (getGrp u g).epoch = frEpoch f ∧
    st.number = frStep f

end Sys2Proof.Machine
end

