-- ==== Sys2Proof/Certificates/Slice0/Obligations.lean ====
section
/-! DEFINITION. The statements for the provers. -/

open Sys2Proof Sys2Proof.Machine

/-! ## Instructions of a core: where each completes, and its next state -/

/-- Scalar instructions (R152): each completes whenever it may issue with its fields legal, and its next state is the
register write the instruction list gives, the counters and the PC moved.  The upper bits of a narrow result (entry 28), the
clock RDCYC counts by (entry 29) and the unsigned comparisons of other types (entry 111) are the model's. -/
def Obligations.ScalarInstructionsComplete : Prop :=
  ∀ (s : State) (c : Fin 16) (w : DWord),
    (mayIssue s c w 0x00 false = true → plainA w = true → exec (.add c w) s = .next (finish (withS s c (fRd w)
      (extS (dtA w) (arith .add (dtA w) 0 (getS (getCore s c) (fRa w)).toNat (getS (getCore s c) (fRb w)).toNat))) c false)) ∧
    (mayIssue s c w 0x01 false = true → plainA w = true → exec (.sub c w) s = .next (finish (withS s c (fRd w)
      (extS (dtA w) (arith .sub (dtA w) 0 (getS (getCore s c) (fRa w)).toNat (getS (getCore s c) (fRb w)).toNat))) c false)) ∧
    (mayIssue s c w 0x02 false = true → plainA w = true → exec (.mul c w) s = .next (finish (withS s c (fRd w)
      (extS (dtA w) (arith .mul (dtA w) 0 (getS (getCore s c) (fRa w)).toNat (getS (getCore s c) (fRb w)).toNat))) c false)) ∧
    (mayIssue s c w 0x03 false = true → fnA w < 4 → dtOk (dtA w) = true → zeroA w = true →
      exec (.logic c w) s = .next (finish (withS s c (fRd w)
        (match fnA w with
          | 0 => getS (getCore s c) (fRa w) &&& getS (getCore s c) (fRb w)
          | 1 => getS (getCore s c) (fRa w) ||| getS (getCore s c) (fRb w)
          | 2 => getS (getCore s c) (fRa w) ^^^ getS (getCore s c) (fRb w)
          | _ => getS (getCore s c) (fRa w) &&& ~~~(getS (getCore s c) (fRb w)))) c false)) ∧
    (mayIssue s c w 0x04 false = true → fnA w < 3 → dtOk (dtA w) = true → zeroA w = true →
      exec (.shift c w) s = .next (finish (withS s c (fRd w)
        (match fnA w with
          | 0 => getS (getCore s c) (fRa w) <<< ((getS (getCore s c) (fRb w)).toNat % 64)
          | 1 => getS (getCore s c) (fRa w) >>> ((getS (getCore s c) (fRb w)).toNat % 64)
          | _ => (getS (getCore s c) (fRa w)).sshiftRight ((getS (getCore s c) (fRb w)).toNat % 64))) c false)) ∧
    (mayIssue s c w 0x05 false = true → fnI w = 0 →
      exec (.addi c w) s = .next (finish (withS s c (fRd w)
        (getS (getCore s c) (fRa w) + (w.extractLsb' 0 32).signExtend 64)) c false)) ∧
    (mayIssue s c w 0x06 false = true → fnA w < 6 → dtOk (dtA w) = true → zeroA w = true →
      exec (.cmp c w) s = .next (finish (withP s c (fRd w)
        (if cmpOp (fnA w) (dtA w) 0 (getS (getCore s c) (fRa w)).toNat (getS (getCore s c) (fRb w)).toNat
          then BitVec.allOnes 64 else 0)) c false)) ∧
    (mayIssue s c w 0x07 false = true → plainA w = true →
      exec (.select c w) s = .next (finish (withS s c (fRd w)
        (if (getP (getCore s c) (fRc w)).getLsbD 0 then getS (getCore s c) (fRa w) else getS (getCore s c) (fRb w))) c
          false)) ∧
    (mayIssue s c w 0x09 false = true → fnI w = 0 →
      exec (.movi c w) s = .next (finish (withS s c (fRd w) ((w.extractLsb' 0 32).signExtend 64)) c false)) ∧
    (mayIssue s c w 0x09 false = true → fnI w = 1 →
      exec (.movi c w) s = .next (finish (withS s c (fRd w)
        (w.extractLsb' 0 32 ++ (getS (getCore s c) (fRd w)).extractLsb' 0 32)) c false)) ∧
    (mayIssue s c w 0x0A false = true → fnI w < 7 →
      exec (.rdsr c w) s = .next (finish (withS s c (fRd w)
        (match fnI w with
          | 0 => BitVec.ofNat 64 (partLogical s c)
          | 1 => BitVec.ofNat 64 (partCount s (partOfCore s c))
          | 2 => BitVec.ofNat 64 (chipId s)
          | 3 => BitVec.ofNat 64 (partOfCore s c)
          | 4 => s.mode.setWidth 64
          | 5 => if s.pfActive then 1 else 0
          | _ => (getCore s c).runPc)) c false)) ∧
    (mayIssue s c w 0x0B true = true → fnI w = 0 →
      exec (.rdcyc c w) s = .next (finish (withS s c (fRd w) (getCore s c).cycles) c true))

/-- BR, CALL, JR, LOOP, LOOP.POP and HALT (R143, R146, R152): where each completes and where the PC goes; HALT stops a core
with no class E operation outstanding, and HALT_COMPLETE stops a halting one. -/
def Obligations.ControlFlowCompletes : Prop :=
  ∀ (s : State) (c : Fin 16) (w : DWord),
    (mayIssue s c w 0x10 false = true → fnB w = 0 → zeroB w = true → predHolds (getCore s c) w = true →
      exec (.br c w) s = .next (finishAt s c false ((getCore s c).pc + 8 * (w.extractLsb' 0 32).signExtend 64))) ∧
    (mayIssue s c w 0x10 false = true → fnB w = 0 → zeroB w = true → predHolds (getCore s c) w = false →
      exec (.br c w) s = .next (finish s c false)) ∧
    (mayIssue s c w 0x11 false = true → fnB w = 0 → zeroB w = true →
      exec (.call c w) s = .next (finishAt (withS s c 31 ((getCore s c).pc + 8)) c false
        ((getCore s c).pc + 8 * (w.extractLsb' 0 32).signExtend 64))) ∧
    (mayIssue s c w 0x12 false = true → fnB w = 0 → zeroB w = true →
      exec (.jr c w) s = .next (finishAt s c false (getS (getCore s c) (fRd w)))) ∧
    (mayIssue s c w 0x13 false = true → fnB w = 0 → zeroB w = true → 1 ≤ immU w → (getCore s c).loops = [] →
      (getCore s c).pc.toNat / 8 + immU w < 16384 → getS (getCore s c) (fRd w) ≠ 0 →
      exec (.loop c w) s = .next (finishAt (modCore s c (fun k => { k with
        loops := [⟨k.pc.toNat / 8 + 1, k.pc.toNat / 8 + immU w, getS k (fRd w) - 1⟩] })) c false ((getCore s c).pc + 8))) ∧
    (∀ e es, mayIssue s c w 0x13 false = true → fnB w = 1 → zeroB w = true → fRd w = 0 → immU w = 0 → (getCore s c).loops = e :: es →
      exec (.loopPop c w) s = .next (finish (modCore s c (fun k => { k with loops := es })) c false)) ∧
    (mayIssue s c w 0x14 false = true → fnB w = 0 → zeroB w = true → haltWaits s c = false →
      exec (.halt c w) s = .next (levelIrq (modCore (retire s c false) c (fun k =>
        { k with st := .idle, halted := true, waiting := none })) (.core c 0) 2 true)) ∧
    ((getCore s c).st = .halting → haltWaits s c = false →
      exec (.haltComplete c) s = .next (levelIrq (modCore (retire s c false) c (fun k =>
        { k with st := .idle, halted := true, waiting := none })) (.core c 0) 2 true))

/-- Vector instructions (R138, R139, R149, R152, R153): each completes whenever it may issue with its fields legal; the
governed elements of the destination take the result, the others keep their value.  Where R152 leaves a form open the model
follows entries 24 to 26, 32 to 35 and 111 to 114. -/
def Obligations.VectorInstructionsComplete : Prop :=
  ∀ (s : State) (c : Fin 16) (w : DWord) (k : Core) (n : Nat) (r : (Nat → Nat) → State),
    k = getCore s c → n = dtWidth (dtA w) →
    r = (fun f => finish (withV s c (fRd w) (vmap n (laneMask k w) (getV k (fRd w)) f)) c false) →
    (mayIssue s c w 0x20 false = true → vecA w = true → exec (.vadd c w) s = .next (r (fun j =>
      arith .add (dtA w) (scaleOf k (fRc w)) (elem n (getV k (fRa w)) j) (elem n (getV k (fRb w)) j)))) ∧
    (mayIssue s c w 0x21 false = true → vecA w = true → exec (.vsub c w) s = .next (r (fun j =>
      arith .sub (dtA w) (scaleOf k (fRc w)) (elem n (getV k (fRa w)) j) (elem n (getV k (fRb w)) j)))) ∧
    (mayIssue s c w 0x22 false = true → vecA w = true → exec (.vmul c w) s = .next (r (fun j =>
      arith .mul (dtA w) (scaleOf k (fRc w)) (elem n (getV k (fRa w)) j) (elem n (getV k (fRb w)) j)))) ∧
    (mayIssue s c w 0x23 false = true → fnA w = 0 → dtIeee (dtA w) = true → zeroA w = true →
      exec (.vfma c w) s = .next (r (fun j =>
        fma (dtA w) (elem n (getV k (fRa w)) j) (elem n (getV k (fRb w)) j) (elem n (getV k (fRc w)) j)))) ∧
    (mayIssue s c w 0x24 false = true → fnA w < 3 → dtVec (dtA w) = true → zeroA w = true →
      exec (.vminmax c w) s = .next (r (fun j => minmaxOp (fnA w) (dtA w) (scaleOf k (fRc w))
        (elem n (getV k (fRa w)) j) (elem n (getV k (fRb w)) j)))) ∧
    (mayIssue s c w 0x25 false = true → fnA w < 2 → dtVec (dtA w) = true → zeroA w = true →
      exec (.vunary c w) s = .next (r (fun j => unaryOp (fnA w) (dtA w) (elem n (getV k (fRa w)) j)))) ∧
    (mayIssue s c w 0x26 false = true → fnA w < 6 → dtVec (dtA w) = true → zeroA w = true →
      exec (.vcmp c w) s = .next (finish (withP s c (fRd w) (vcmpBits (fnA w) (dtA w) (scaleOf k (fRc w))
        (laneMask k w) (getP k (fRd w)) (getV k (fRa w)) (getV k (fRb w)))) c false)) ∧
    (mayIssue s c w 0x27 false = true → vecA w = true → exec (.vsel c w) s = .next (r (fun j =>
      if (getP k (fRc w)).toNat.testBit (laneOf n j) then elem n (getV k (fRa w)) j else elem n (getV k (fRb w)) j))) ∧
    (mayIssue s c w 0x28 false = true → dtVec (dtA w) = true → dtVec (fnA w) = true → fnA w < 16 → zeroA w = true →
      exec (.vcvt c w) s = .next (finish (withV s c (fRd w) (ofElems (dtWidth (fnA w))
        ((List.range (elems (dtWidth (fnA w)))).map (fun j =>
          if j < elems n ∧ (laneMask k w).toNat.testBit (laneOf (dtWidth (fnA w)) j) = true then
            cvtElem (dtA w) (fnA w) (scaleOf k (fRc w)) (elem n (getV k (fRa w)) j)
          else elem (dtWidth (fnA w)) (getV k (fRd w)) j)))) c false)) ∧
    (mayIssue s c w 0x29 false = true → vecA w = true →
      exec (.vbcast c w) s = .next (r (fun _ => (getS k (fRa w)).toNat % 2 ^ n))) ∧
    (mayIssue s c w 0x2A false = true → vecA w = true →
      exec (.vperm c w) s = .next (finish (withV s c (fRd w) (vmap 32 (laneMask k w) (getV k (fRd w)) (fun i =>
        elem 32 (getV k (fRa w)) (elem 32 (getV k (fRb w)) i % 64)))) c false)) ∧
    (mayIssue s c w 0x2B false = true → fnA w < 7 → dtVec (dtA w) = true → zeroA w = true →
      exec (.vbits c w) s = .next (r (fun j =>
        vbitsOp (fnA w) (dtA w) (elem n (getV k (fRa w)) j) (elem n (getV k (fRb w)) j)))) ∧
    (mayIssue s c w 0x2C false = true → fnA w < 3 → dtVec (dtA w) = true → zeroA w = true →
      (dtA w = 0x4 && fnA w = 0 && !scaleFits (scaleOf k (fRc w))) = false →
      exec (.vred c w) s = .next (finish (withS s c (fRd w) (extS (dtA w) (vredOp (fnA w) (dtA w) (scaleOf k (fRc w))
        ((active n (laneMask k w)).map (elem n (getV k (fRa w))))))) c false)) ∧
    (mayIssue s c w 0x2D false = true → fnI w = 0 →
      exec (.vidx c w) s = .next (finish (withV s c (fRd w) (vmap 32 (laneMask k w) (getV k (fRd w)) (fun j =>
        (BitVec.ofNat 32 j + w.extractLsb' 0 32).toNat))) c false)) ∧
    (mayIssue s c w 0x2E false = true → fnA w = 0 → dtVec (dtA w) = true → zeroA w = true →
      exec (.vpred c w) s = .next (finish (withP s c (fRd w) (getP k (fRa w) &&& getP k (fRb w))) c false)) ∧
    (mayIssue s c w 0x2E false = true → fnA w = 1 → dtVec (dtA w) = true → zeroA w = true →
      exec (.vpred c w) s = .next (finish (withP s c (fRd w) (getP k (fRa w) ||| getP k (fRb w))) c false)) ∧
    (mayIssue s c w 0x2E false = true → fnA w = 2 → dtVec (dtA w) = true → zeroA w = true →
      exec (.vpred c w) s = .next (finish (withP s c (fRd w) (~~~(getP k (fRa w)))) c false)) ∧
    (mayIssue s c w 0x2E false = true → fnA w = 3 → dtVec (dtA w) = true → zeroA w = true →
      exec (.vpred c w) s = .next (finish (withS s c (fRd w)
        (BitVec.ofNat 64 (((List.range 64).filter (fun i => (getP k (fRa w)).toNat.testBit i)).length))) c false))

/-- Loads and stores of the scratchpad (R146, R158 to R167, R152): each completes whenever it may issue and its accesses
are aligned, in range and, for a load, unpoisoned. -/
def Obligations.ScratchpadAccessesComplete : Prop :=
  ∀ (s : State) (c : Fin 16) (w : DWord) (k : Core) (b : Nat) (js : List Nat),
    k = getCore s c → b = dtBytes (dtM w) → js = active (8 * b) (laneMask k w) →
    (mayIssue s c w 0x40 false = true → fnM w = 0 → dtOk (dtM w) = true →
      spadReadCheck s c b (addrM k w) b = none →
      exec (.ld c w) s = .next (finish (withS s c (fRd w) (extS (dtM w) (leNat (spadRead s c (addrM k w) b)))) c false)) ∧
    (mayIssue s c w 0x41 false = true → fnM w = 0 → dtOk (dtM w) = true →
      spadCheck s c b (addrM k w) b = none →
      exec (.st c w) s = .next (finish (spadWrite s c (addrM k w) (leBytes b (getS k (fRd w)).toNat)) c false)) ∧
    (mayIssue s c w 0x42 false = true → fnMok w = true → dtVec (dtM w) = true →
      firstTrap s c true b (js.map (unitAddr k w)) = none →
      exec (.vld c w) s = .next (finish (withV s c (fRd w) (vmap (8 * b) (laneMask k w) (getV k (fRd w))
        (fun j => leNat (spadRead s c (addrM k w + b * j) b)))) c false)) ∧
    (mayIssue s c w 0x43 false = true → fnMok w = true → dtVec (dtM w) = true →
      firstTrap s c false b (js.map (unitAddr k w)) = none →
      exec (.vst c w) s = .next (finish (modCore s c (fun k => { k with
        spad := scatterV k.spad b (laneMask k w) (getV k (fRd w)) (fun j => addrM k w + b * j) })) c false)) ∧
    (mayIssue s c w 0x44 false = true → dtVec (dtM w) = true →
      firstTrap s c true b (js.map (strideAddr k w)) = none →
      exec (.vlds c w) s = .next (finish (withV s c (fRd w) (vmap (8 * b) (laneMask k w) (getV k (fRd w))
        (fun j => leNat (spadRead s c (strideAddr k w j) b)))) c false)) ∧
    (mayIssue s c w 0x45 false = true → dtVec (dtM w) = true →
      firstTrap s c false b (js.map (strideAddr k w)) = none →
      exec (.vsts c w) s = .next (finish (modCore s c (fun k => { k with
        spad := scatterV k.spad b (laneMask k w) (getV k (fRd w)) (strideAddr k w) })) c false)) ∧
    (mayIssue s c w 0x46 false = true → dtVec (dtM w) = true →
      firstTrap s c true b (js.map (indexAddr (addrM k w) b (getV k (fnM w)))) = none →
      exec (.vgather c w) s = .next (finish (pushD s c w) c false)) ∧
    (mayIssue s c w 0x47 false = true → dtVec (dtM w) = true →
      firstTrap s c false b (js.map (indexAddr (addrM k w) b (getV k (fnM w)))) = none →
      exec (.vscatter c w) s = .next (finish (pushD s c w) c false))

/-- CLASS_D_COMPLETION (R151, R162): the oldest operation leaves the queue; a gather writes the governed elements of its
destination from the addresses of its index vector, and a scatter stores them, the highest lane last.  The order of
completions and the index's sign are the model's (entries 19 and 37). -/
def Obligations.IndexedAccessCompletes : Prop :=
  ∀ (s : State) (c : Fin 16) (d : DOp) (rest : List DOp) (b base : Nat),
    (getCore s c).dops = d :: rest → b = dtBytes (dtM d.w) → base = (d.ra + (d.w.extractLsb' 0 32).signExtend 64).toNat →
    (fOp d.w = 0x46 → exec (.classDCompletion c) s = .next (modCore s c (fun k => setV { k with dops := rest } (fRd d.w)
      (vmap (8 * b) d.pred (d.va.getD 1 0) (fun j => k.spad.readLE (base + elem (8 * b) (d.va.getD 0 0) j) b))))) ∧
    (fOp d.w = 0x47 → exec (.classDCompletion c) s = .next (modCore s c (fun k => { k with
      dops := rest,
      spad := scatterV k.spad b d.pred (d.va.getD 1 0) (fun j => base + elem (8 * b) (d.va.getD 0 0) j) })))

/-- DMA.GO and DMA_COMPLETE (R168 to R173): a legal descriptor takes the lowest free slot of its engine and answers
tag 16 × engine + slot, pending; a single-row copy that has started, of unpoisoned bytes between two allowed ranges moves them, and the tag
ends OK.  That the descriptor is read at issue is the model's choice (entry 38). -/
def Obligations.DmaCompletes : Prop :=
  ∀ (s : State) (c : Fin 16) (w : DWord) (e : Fin 4),
    (∀ d i, mayIssue s c w 0x48 false = true → fnX w = e.val →
      spadReadCheck s c 32 (getS (getCore s c) (fRa w)).toNat 32 = none →
      d = BitVec.ofNat 256 (leNat (spadRead s c (getS (getCore s c) (fRa w)).toNat 32)) →
      (dmaShapeOk d && !dmaSpadOk s c d) = false → dmaFreeSlot (getCore s c) e.val = some i →
      exec (.dmaGo c w) s = .next (finish (dmaStart (modCore s c (fun k => setS { k with
        dmaQ := k.dmaQ.set e (k.dmaQ[e] ++ [⟨d, i, false⟩]), dmaTags := mput k.dmaTags (16 * e.val + i) .pending } (fRd w)
          (BitVec.ofNat 64 (16 * e.val + i)))) c) c false)) ∧
    (∀ j rest p n src dst, (getCore s c).dmaQ[e] = j :: rest → j.started = true → p = partOfCore s c → dmaShapeOk j.desc = true →
      dmaRows j.desc = 1 → n = dmaRowBytes j.desc → src = dmaAddr j.desc 0 → dst = dmaAddr j.desc 1 →
      devCheck s (some c) p (dmaSpace j.desc 0) src n false = stOk →
      devCheck s (some c) p (dmaSpace j.desc 1) dst n true = stOk →
      anyMark (devRead s (some c) p (dmaSpace j.desc 0) src n).1 = false →
      ∃ t, exec (.dmaComplete c e) s = .next t ∧
        (getCore t c).dmaQ[e].map (fun x => (x.desc, x.slot)) = rest.map (fun x => (x.desc, x.slot)) ∧
        mget (getCore t c).dmaTags (16 * e.val + j.slot) = some (.done stOk) ∧
        t.hbm = (devWrite (devRead s (some c) p (dmaSpace j.desc 0) src n).2 (some c) p (dmaSpace j.desc 1) dst
          (devRead s (some c) p (dmaSpace j.desc 0) src n).1).hbm ∧
        t.cm = (devWrite (devRead s (some c) p (dmaSpace j.desc 0) src n).2 (some c) p (dmaSpace j.desc 1) dst
          (devRead s (some c) p (dmaSpace j.desc 0) src n).1).cm ∧
        (getCore t c).spad = (getCore (devWrite (devRead s (some c) p (dmaSpace j.desc 0) src n).2 (some c) p
          (dmaSpace j.desc 1) dst (devRead s (some c) p (dmaSpace j.desc 0) src n).1) c).spad)

/-- The tile instructions (R197 to R228): a TMMA whose shape, region and operands pass their checks enters the array; a tile
move or TZERO that passes them is queued with its operands; TMMA_COMPLETE takes the oldest TMMA out of the array and, when
it is the last, flushes every run register (R208).  Operands are read at issue (entry 19). -/
def Obligations.TileInstructionsComplete : Prop :=
  ∀ (s : State) (c : Fin 16) (w : DWord) (k : Core) (rd ra rb rc : DWord) (g : Group),
    k = getCore s c → rd = getS k (fRd w) → ra = getS k (fRa w) → rb = getS k (fRb w) → rc = getS k (fRc w) →
    mget k.groups (fld rd 4 0) = some g → rdOk rd = true → fld rd 31 16 + shapeM rc * shapeN rc ≤ groupElems g →
    (mayIssue s c w 0x50 false = true → (dtA w = 3 ∨ dtA w = 4 ∨ (dtA w = 1 ∧ g.double = true)) → fnA w < 2 →
      zeroA w = true → rcOk rc (dtA w = 4) = true →
      (dtA w = 4 → g.double = false → -112 ≤ sgn 8 (fld rc 63 56) ∧ sgn 8 (fld rc 63 56) ≤ 119) →
      spadCheck s c (tmmaStrideA (dtA w)) ra.toNat
        ((shapeK rc - 1) * tmmaStrideA (dtA w) + shapeM rc * tmmaWidthA (dtA w)) = none →
      spadCheck s c 256 rb.toNat ((shapeK rc - 1) * 256 + 2 * shapeN rc) = none →
      exec (.tmma c w) s = .next (finish (runTmma s c ⟨fld rd 4 0, g, fld rd 31 16, ra.toNat, rb.toNat, shapeM rc,
        shapeN rc, shapeK rc, sgn 8 (fld rc 63 56), dtA w, fnA w = 1⟩) c false)) ∧
    (mayIssue s c w 0x51 false = true → dtReal (dtA w) = true → fnA w < 2 → zeroA w = true →
      rcOk rc (dtA w = 4) = true →
      (dtA w = 4 → g.double = false → -112 ≤ sgn 8 (fld rc 63 56) ∧ sgn 8 (fld rc 63 56) ≤ 119) →
      rb.toNat % dtBytes (dtA w) = 0 → shapeN rc * dtBytes (dtA w) ≤ rb.toNat →
      (∀ i < shapeM rc, spadCheck s c (dtBytes (dtA w)) (ra.toNat + i * rb.toNat) (shapeN rc * dtBytes (dtA w)) = none) →
      exec (.tmovIn c w) s = .next (finish (pushD s c w) c false)) ∧
    (mayIssue s c w 0x52 false = true → dtReal (dtA w) = true → fnA w = 0 → zeroA w = true →
      rcOk rc (dtA w = 4) = true →
      rb.toNat % dtBytes (dtA w) = 0 → shapeN rc * dtBytes (dtA w) ≤ rb.toNat →
      (∀ i < shapeM rc, spadCheck s c (dtBytes (dtA w)) (ra.toNat + i * rb.toNat) (shapeN rc * dtBytes (dtA w)) = none) →
      (∀ i < shapeM rc * shapeN rc, (getElem k g (fld rd 31 16 + i)).poison = false) →
      exec (.tmovOut c w) s = .next (finish (pushD s c w) c false)) ∧
    (mayIssue s c w 0x53 false = true → fnA w = 0 → dtA w = 0 → zeroA w = true → rcOk rc false = true →
      exec (.tzero c w) s = .next (finish (pushD s c w) c false)) ∧
    (∀ q rest, k.array = q :: rest → rest ≠ [] →
      exec (.tmmaComplete c) s = .next (macReport (modCore s c (fun k => { k with array := rest })) c {})) ∧
    (∀ q, k.array = [q] →
      exec (.tmmaComplete c) s = .next (macReport (modCore s c (fun _ => { (flushAll k {}).1 with array := [] })) c
        (flushAll k {}).2))

/-- Accumulation groups (R214 to R217, R229 to R238): AG.OPEN takes the blocks with every entry +0 and unpoisoned; AG.CLOSE,
AG.SAVE and AG.LOAD are queued; a send of AG.CHAIN captures the records of its group and an add waits for them;
CHAIN_TRANSFER_COMPLETE joins the two. -/
def Obligations.GroupInstructionsComplete : Prop :=
  ∀ (s : State) (c : Fin 16) (w : DWord),
    (∀ g, mayIssue s c w 0x58 false = true → fnI w < 64 → bitsOf (immU w) 5 0 = 0 → bitsOf (immU w) 31 26 = 0 →
      g = ⟨bitsOf (immU w) 15 6, bitsOf (immU w) 25 16 + 1, (fnI w).testBit 5⟩ →
      mget (getCore s c).groups (fnI w % 32) = none → g.base + g.blocks ≤ 1024 →
      (∀ x ∈ (getCore s c).groups, blocksMeet x.2 g = false) →
      exec (.agOpen c w) s = .next (finish (modCore s c (fun k => { k with
        pool := k.pool.filter (fun x => x.1 < 64 * g.base || 64 * (g.base + g.blocks) ≤ x.1),
        groups := mput k.groups (fnI w % 32) g })) c false)) ∧
    (mayIssue s c w 0x59 false = true → fnI w < 32 → immU w = 0 → (mget (getCore s c).groups (fnI w)).isSome = true →
      exec (.agClose c w) s = .next (finish (pushD s c w) c false)) ∧
    (∀ g, mayIssue s c w 0x5A false = true → dtM w = 0 → fnM w < 2 → mget (getCore s c).groups (fRd w % 32) = some g →
      spadCheck s c 32 (addrM (getCore s c) w) (recLen g + mapLen g) = none →
      exec (.agSave c w) s = .next (finish (pushD s c w) c false)) ∧
    (∀ g, mayIssue s c w 0x5B false = true → dtM w = 0 → fnM w < 2 → mget (getCore s c).groups (fRd w % 32) = some g →
      spadCheck s c 32 (addrM (getCore s c) w) (recLen g + mapLen g) = none →
      exec (.agLoad c w) s = .next (finish (pushD s c w) c false)) ∧
    (∀ d g, mayIssue s c w 0x5C false = true → fnX w = 0 → imm24 w < 32 → peerCore s c (coreX w) = some d →
      mget (getCore s c).groups (imm24 w) = some g → isFenced s d = false →
      exec (.agChain c w) s = .next (finish (withS (bump { s with chains := s.chains ++ [⟨c, d, chanX w, imm24 w, g.double,
        (List.range (64 * g.blocks)).map (fun i => mgetD (getCore s c).pool {} (64 * g.base + i))⟩] } (.core c 1) 10
          (recLen g + mapLen g)) c (fRd w) 0) c false)) ∧
    (∀ d g, mayIssue s c w 0x5C false = true → fnX w = 1 → imm24 w < 32 → peerCore s c (coreX w) = some d →
      mget (getCore s c).groups (imm24 w) = some g → isFenced s d = false →
      exec (.agChain c w) s = .next (finish (withS { s with chainAdds := s.chainAdds ++ [⟨d, c, chanX w, imm24 w⟩] } c
        (fRd w) 0) c false)) ∧
    (∀ (dst chan : Fin 16) (x : Chain) (xs : List Chain) (y : ChainAdd) (ys : List ChainAdd),
      s.chains = x :: xs → s.chainAdds = y :: ys → x.src = c.val → x.dst = dst.val → x.chan = chan.val →
      y.src = c.val → y.dst = dst.val → y.chan = chan.val →
      exec (.chainTransferComplete c dst chan) s = .next (applyChain { s with chains := xs, chainAdds := ys } x dst y.group))

/-- EFN, EROW, EMPLD and IMG_DATA_READ (R250 to R258, R271, R279, R280): a built-in EFN writes each governed element with its
function of the source element; a row operation and a load that pass their checks are queued; the image read answers m16 at
IMG_INDEX, which moves on.  The order of EROW's checks is the model's (entry 39). -/
def Obligations.EgretInstructionsComplete : Prop :=
  ∀ (s : State) (c : Fin 16) (w : DWord) (k : Core),
    k = getCore s c →
    (mayIssue s c w 0x60 false = true → fnA w ≤ 0x0C → dtReal (dtA w) = true → zeroA w = true →
      ∃ t, exec (.efn c w) s = .next t ∧ (getCore t c).vregs = (getCore (withV s c (fRd w)
        (vmap (dtWidth (dtA w)) (laneMask k w) (getV k (fRd w)) (fun j =>
          (builtin (fnA w) (dtA w) (scaleOf k (fRc w)) (elem (dtWidth (dtA w)) (getV k (fRa w)) j)).bits))) c).vregs ∧
        (getCore t c).sregs = k.sregs ∧ (getCore t c).preds = k.preds ∧ (getCore t c).spad = k.spad ∧
        (k.loops = [] → (getCore t c).pc = k.pc + 8)) ∧
    (∀ q, q = rowOf w (getS k (fRd w)) (getS k (fRa w)) (getS k (fRb w)) (getS k (fRc w)) →
      mayIssue s c w 0x61 false = true → dtReal (dtA w) = true → zeroA w = true → q.op ≠ 3 → q.phase = 1 →
      rowShapeOk q (getS k (fRc w)) = true → slotOk k q = true → spadCheck s c 1 q.inp (q.len * dtBytes q.dt) = none →
      exec (.erow c w) s = .next (finish (pushD s c w) c false)) ∧
    (mayIssue s c w 0x62 false = true → fnM w = 0 → dtM w = 0 → spadReadCheck s c 32 (addrM k w) 32 = none →
      spadReadCheck s c 32 (addrM k w) (imageLen k (addrM k w)) = none →
      exec (.empld c w) s = .next (finish (pushD s c w) c false)) ∧
    (∀ (rq : Requester) (n n' : Fin 16), readable s rq (.core n 2) = some (.core n' 2) →
      exec (.imgDataRead rq n) s = .next (emit (.readData (BitVec.ofNat 64 (m16 (regOf s (.core n' 2) 0x040 % 256))))
        (putReg s (.core n' 2) 0x040 ((regOf s (.core n' 2) 0x040 % 256 + 1) % 256))))

/-- Sandpiper and the fold (R290 to R317): a SORT, MERGE, LADDER, DRAIN, THR or FOLD that passes its checks is queued, or for
FOLD runs up to its conservation check; a check that finds the two sides equal ends the fold and writes its status to RD.
The order of the checks is the model's (entry 39). -/
def Obligations.SandpiperInstructionsComplete : Prop :=
  ∀ (s : State) (c : Fin 16) (w : DWord) (k : Core) (q : SelDesc),
    k = getCore s c → q = selDesc (BitVec.ofNat 512 (leNat (spadRead s c (getS k (fRa w)).toNat 64))) →
    (mayIssue s c w 0x68 false = true → dtReal (dtA w) = true → fnA w = 0 → zeroA w = true →
      spadCheck s c 64 (getS k (fRa w)).toNat 64 = none → selCommonOk q = true → fRc w = 0 → q.resIn = 0 → q.resOut = 0 →
      q.gRaw = 0 → (dtA w = 4 ∨ q.sRaw = 0) → isNar (dtA w) (getS k (fRb w)).toNat = false →
      (∀ x ∈ thrIn (dtA w) q ++ thrOut (dtA w) q, x.a % x.al = 0 ∧ spadOk s c x.a x.n = true) →
      overlaps (thrIn (dtA w) q) (thrOut (dtA w) q) (fun _ _ => false) = false →
      exec (.spThr c w) s = .next (finish (pushDesc s c w (BitVec.ofNat 512 (leNat (spadRead s c (getS k (fRa w)).toNat 64)))
        (spadPoison s c (getS k (fRa w)).toNat 64)) c false)) ∧
    (mayIssue s c w 0x69 false = true → sortDt (dtA w) = true → fnA w < 4 → zeroA w = true →
      exec (.spSort c w) s = .next (finish (pushD s c w) c false)) ∧
    (mayIssue s c w 0x6A false = true → sortDt (dtA w) = true → fnA w < 128 → zeroA w = true → mergeRegsOk w = true →
      exec (.spMerge c w) s = .next (finish (pushD s c w) c false)) ∧
    (mayIssue s c w 0x6B false = true → sortDt (dtA w) = true → fnA w < 8 → zeroA w = true → (fnA w).testBit 0 = true →
      1 ≤ fld (getS k (fRd w)) 8 0 → fld (getS k (fRd w)) 8 0 ≤ 256 →
      exec (.spLadder c w) s = .next (finish (pushD s c w) c false)) ∧
    (∀ l, mayIssue s c w 0x6C false = true → fnA w = 0 → dtA w = 0 → zeroA w = true → k.ladder = some l →
      spadCheck s c 32 (getS k (fRa w)).toNat (16 * l.entries.length) = none →
      exec (.spDrain c w) s = .next (finish (pushD s c w) c false)) ∧
    (mayIssue s c w 0x70 false = true → (dtA w = 3 ∨ dtA w = 1) → fnA w = 0 → zeroA w = true →
      spadCheck s c 64 (getS k (fRa w)).toNat 64 = none → selCommonOk q = true → fRc w = 0 → q.g ≤ q.s →
      (∀ x ∈ foldIn (dtA w) q ++ foldOut q, x.a % x.al = 0 ∧ spadOk s c x.a x.n = true) →
      overlaps (foldIn (dtA w) q) (foldOut q) (fun o i => o = ⟨q.resOut, 8 * q.len, 8⟩ && i = ⟨q.resIn, 8 * q.len, 8⟩ &&
        q.resIn = q.resOut) = false →
      exec (.fold c w) s = .next (finish (runFold s c w q (spadPoison s c (getS k (fRa w)).toNat 64)) c false)) ∧
    (∀ f, k.fold = some f → f.inputSide = f.outputSide →
      ∃ t, exec (.conservationCheck c 0) s = .next t ∧ (getCore t c).fold = none ∧
        (getCore t c).sregs = (setS k f.rd (f.status.zeroExtend 64)).sregs ∧
        (getCore t c).st = k.st ∧ (getCore t c).pc = k.pc)

/-- PACK, UNPACK, PACK.HIST and PACK_COMPLETION (R353, R354, R358, R375): an instruction with an aligned descriptor takes the
lowest free flight context of its partition, which its RD names, and joins the packer's queue; the completion runs the
oldest one and records its code, detail and result.  The order of its checks is the model's (entry 43). -/
def Obligations.PackerCompletes : Prop :=
  ∀ (s : State) (c : Fin 16) (w : DWord) (tag : Nat) (q : Nat → State),
    spadCheck s c 64 (addrX (getCore s c) w) 64 = none → freeTag s (partOfCore s c) = some tag →
    (getCore s c).packQ.length < 4 → coreX w = 0 → chanX w = 0 →
    q = (fun op => finish (modCore (takeCtx s tag (coreCtxOf s c .pack (addrX (getCore s c) w))) c (fun k => setS { k with
      packQ := k.packQ ++ [⟨op, addrX (getCore s c) w, tag⟩] } (fRd w) (BitVec.ofNat 64 tag))) c false) →
    (mayIssue s c w 0x74 false = true → fnX w = 0 → exec (.pack c w) s = .next (q 0)) ∧
    (mayIssue s c w 0x74 false = true → fnX w = 1 → exec (.unpack c w) s = .next (q 1)) ∧
    (mayIssue s c w 0x75 false = true → fnX w = 0 → exec (.packHist c w) s = .next (q 2)) ∧
    (∀ (x : PackOp) rest (e : PackEnd), (getCore s c).packQ = x :: rest →
      e = (if x.op = 1 then runUnpack s c (packDesc (spadRead s c x.addr 64)) (spadPoison s c x.addr 64)
        else runPack s c (packDesc (spadRead s c x.addr 64)) (x.op = 2) (spadPoison s c x.addr 64)) →
      ∃ t, exec (.packCompletion c) s = .next t ∧ (getCore t c).packQ = rest ∧
        (getCore t c).lastStatus = e.code.toNat ∧ (getCore t c).lastDetail = e.detail ∧
        t.ctxs = (finishCtx e.s x.tag { code := e.code, detail := e.detail }).ctxs ∧
        t.hbm = e.s.hbm ∧ t.cm = e.s.cm ∧ (getCore t c).spad = (getCore e.s c).spad)

/-- Messages (R174 to R180, R152): SEND with a credit puts the 64 B with their marks on the mesh; MESSAGE_DELIVERY queues the
oldest message of its triple at the receiver; RECV and RECV.ANY take the oldest message that fits into the scratchpad;
MSG.PROBE answers whether one waits. -/
def Obligations.MessagesComplete : Prop :=
  ∀ (s : State) (c d : Fin 16) (w : DWord) (a : Nat),
    a = addrX (getCore s c) w →
    (mayIssue s c w 0x78 false = true → fnX w = 0 → peerCore s c (coreX w) = some d → spadCheck s c 64 a 64 = none →
      isFenced s d = false → creditsUsed s c d (chanX w) < 4 →
      exec (.send c w) s = .next (finish (bump { s with mesh := s.mesh ++ [⟨c, d, chanX w, spadRead s c a 64,
        [(getCore s c).spad.marked (a / 32), (getCore s c).spad.marked (a / 32 + 1)]⟩] } (.core c 0) 3) c false)) ∧
    (∀ (chan : Fin 16) m ms, s.mesh = m :: ms → m.src = c.val → m.dst = d.val → m.chan = chan.val →
      exec (.messageDelivery c d chan) s =
        .next (modCore { s with mesh := ms } d (fun k => { k with msgs := k.msgs ++ [m] }))) ∧
    (∀ m ms, mayIssue s c w 0x79 false = true → fnX w = 0 → peerCore s c (coreX w) = some d → spadCheck s c 64 a 64 = none →
      (getCore s c).msgs = m :: ms → m.src = d.val → m.chan = chanX w →
      exec (.recv c w) s = .next (finish (bump (spadWriteP (modCore s c (fun k => { k with msgs := ms })) c a
        (msgBytes m)) (.core c 0) 4) c false)) ∧
    (∀ m ms, mayIssue s c w 0x7A true = true → fnX w = 0 → spadCheck s c 64 a 64 = none →
      (getCore s c).msgs = m :: ms → m.chan = chanX w →
      ∃ t, exec (.recvAny c w) s = .next t ∧ (getCore t c).msgs = ms ∧
        (getCore t c).spad = (getCore (spadWriteP s c a (msgBytes m)) c).spad ∧
        (getCore t c).sregs = (setS (getCore s c) (fRd w) (BitVec.ofNat 64 (partLogical s m.src))).sregs) ∧
    (mayIssue s c w 0x7B true = true → fnX w = 0 → peerCore s c (coreX w) = some d →
      exec (.msgProbe c w) s = .next (finish (withS s c (fRd w)
        (if (getCore s c).msgs.any (fun m => m.src = d.val && m.chan = chanX w) then 1 else 0)) c true))

/-- RPOST and SPOST (R443, R494, R586, R588): the lowest free flight context of the partition is taken for the descriptor at
RA, and RD names it.  That IMM24 is not added to RA is the model's choice (entry 93). -/
def Obligations.PostsComplete : Prop :=
  ∀ (s : State) (c : Fin 16) (w : DWord) (tag : Nat),
    freeTag s (partOfCore s c) = some tag → spadCheck s c 1 (getS (getCore s c) (fRa w)).toNat 64 = none → fnX w = 0 →
    s.pacer.st ≠ .running →
    (mayIssue s c w 0x7C false = true → exec (.rpost c w) s = .next (finish (withS (takeCtx s tag
      (coreCtxOf s c .relay (getS (getCore s c) (fRa w)).toNat)) c (fRd w) (BitVec.ofNat 64 tag)) c false)) ∧
    (mayIssue s c w 0x7D false = true → exec (.spost c w) s = .next (finish (withS (takeCtx s tag
      (coreCtxOf s c .stork (getS (getCore s c) (fRa w)).toNat)) c (fRd w) (BitVec.ofNat 64 tag)) c false))

/-- FENCE, WAIT, WAIT.FIRST, TEST, BARRIER and GUN.WAIT (R152, R169, R182, R550, R587): each completes when what it waits for
has come about; WAIT answers the status code and frees the tag.  Which complete tag WAIT.FIRST answers is the model's (entry
14). -/
def Obligations.WaitsComplete : Prop :=
  ∀ (s : State) (c : Fin 16) (w : DWord) (a : Nat),
    a = (getS (getCore s c) (fRa w)).toNat →
    (mayIssue s c w 0x80 false = true → fnI w = 0 → (∀ i < 5, (immU w).testBit i = true → scopeDone s c i = true) →
      exec (.fence c w) s = .next (finish (if (immU w).testBit 1 then modCore s c freeDone else s) c false)) ∧
    (∀ code, mayIssue s c w 0x81 false = true → fnI w = 0 → mget (getCore s c).dmaTags (a % 64) = some (.done code) →
      exec (.wait c w) s = .next (finish (withS (modCore s c (fun k => { k with dmaTags := mdel k.dmaTags (a % 64) })) c
        (fRd w) (code.setWidth 64)) c false)) ∧
    (∀ x r, mayIssue s c w 0x81 false = true → fnI w = 1 → coreCtx s c (a % 4096) = some x → x.result = some r →
      exec (.wait c w) s = .next (finish (withS { s with ctxs := mdel s.ctxs (a % 4096) } c (fRd w)
        (r.code.setWidth 64)) c false)) ∧
    (∀ t, mayIssue s c w 0x82 true = true → fnI w = 0 → t < 64 → a.testBit t = true →
      (∃ code, mget (getCore s c).dmaTags t = some (.done code)) →
      (∀ u < t, a.testBit u = true → ∀ code, mget (getCore s c).dmaTags u ≠ some (.done code)) →
      exec (.waitFirst c w) s = .next (finish (withS s c (fRd w) (BitVec.ofNat 64 t)) c true)) ∧
    (mayIssue s c w 0x83 true = true → fnI w = 0 →
      exec (.test c w) s = .next (finish (withS s c (fRd w) (match mget (getCore s c).dmaTags (a % 64) with
        | some (.done code) => code.setWidth 64
        | _ => 0xFF)) c true)) ∧
    (mayIssue s c w 0x84 false = true → immU w % 65536 = 2 ^ partLogical s c →
      partLogical s c < partCount s (partOfCore s c) → peerCore s c (partLogical s c) = some c → isFenced s c = false →
      exec (.barrier c w) s = .next (finish (releaseBarrier s c (fnI w) (immU w % 65536)) c false)) ∧
    (∀ x, mayIssue s c w 0x89 false = true → fnI w = 0 → (getCore s c).waiting = some x →
      x.issued = true → x.fires ≠ ctrOf s .determinism 0 → exec (.gunWait c w) s = .next (finish s c false))

/-- TRAP, BRK and WAIT_TIMEOUT (R152, R181, R184 to R186): the core traps with causes SOFTWARE, BREAK and WAIT_TIMEOUT, the
code, word and cause recorded, its registers, memory, loop stack and queued messages kept. -/
def Obligations.SoftwareTrapsComplete : Prop :=
  ∀ (s : State) (c : Fin 16) (w : DWord) (i : Instr) (cause code : Nat),
    (i = .trap c w ∧ mayIssue s c w 0xF0 false = true ∧ fnI w = 0 ∧ cause = 0x08 ∧ code = immU w % 65536) ∨
    (i = .brk c w ∧ mayIssue s c w 0xF1 false = true ∧ fnI w = 0 ∧ cause = 0x09 ∧ code = 0) ∨
    (i = .waitTimeout c ∧ (getCore s c).st = .running ∧ timeoutApplies s c = true ∧ regOf s (.core c 0) 0x060 ≠ 0 ∧
      (∃ x, (getCore s c).waiting = some x ∧ x.w = w) ∧ cause = 0x07 ∧ code = 0) →
    ∃ t, exec i s = .next t ∧ getCore t c = { getCore s c with
      st := .trapped, halted := false, waiting := none, trapValid := true, trapCause := cause, trapCode := code,
      trapInstr := w, trapAddr := 0 }

/-- CMLD, CMST, CMADD and CMATOM (R154, R155, R638, R643, R649): an aligned access that the partition may make, of a line
with no poison in a slice in service, that no other agent precedes or holds (R646 to R648), completes: CMLD answers the eight bytes, CMST stores RT, CMADD adds RT with wrap, and
CMATOM also answers what stood there.  CMATOM's FN codes and compared register are the model's (entry 16). -/
def Obligations.ControlMemoryAccessesComplete : Prop :=
  ∀ (s : State) (c : Fin 16) (w : DWord) (a line : Nat) (v : DWord) (d : DirLine),
    a = addrM (getCore s c) w → line = a / 64 → a % 8 = 0 → cmFencedIn s a 8 = false → cmDisabledIn s a 8 = false →
    agentFenced s c = false → dtOk (dtM w) = true →
    v = getS (getCore s c) (fRd w) → d = dirLine s line →
    (mayIssue s c w 0x85 false = true → fnM w = 0 → cmMayRange s (partOfCore s c) a 8 false = true →
      cmPoison s line = false → holdsLine s line c = true →
      exec (.cmld c w) s = .next (finish (withS s c (fRd w) (BitVec.ofNat 64 (leNat (cmBytes s a 8)))) c false)) ∧
    (mayIssue s c w 0x85 false = true → fnM w = 0 → cmMayRange s (partOfCore s c) a 8 false = true →
      cmPoison s line = false → holdsLine s line c = false → holdRuns d c = false →
      exec (.cmld c w) s = .next (finish (withS (grantS (cmAsk s line c) line c) c (fRd w)
        (BitVec.ofNat 64 (leNat (cmBytes (grantS (cmAsk s line c) line c) a 8)))) c false)) ∧
    (mayIssue s c w 0x86 false = true → fnM w = 0 → cmMayRange s (partOfCore s c) a 8 true = true →
      (dirLine s line).owner = some c.val → exec (.cmst c w) s = .next (finish (storeOwned s a v) c false)) ∧
    (mayIssue s c w 0x86 false = true → fnM w = 0 → cmMayRange s (partOfCore s c) a 8 true = true →
      (dirLine s line).owner ≠ some c.val → mustRetry d c = false → holdRuns d c = false →
      exec (.cmst c w) s = .next (finish (storeOwned (grantM (cmAsk s line c) line c) a v) c false)) ∧
    (mayIssue s c w 0x87 false = true → fnM w = 0 → cmMayRange s (partOfCore s c) a 8 true = true →
      mustRetry d c = false → holdRuns d c = false → exec (.cmadd c w) s = .next (finish (applyAtomic (cmAsk s line c) a c (.add v)) c false)) ∧
    (mayIssue s c w 0x88 true = true → fnM w < 3 → cmMayRange s (partOfCore s c) a 8 true = true →
      cmPoison s line = false → mustRetry d c = false → holdRuns d c = false →
      exec (.cmatom c w) s = .next (finish (withS (applyAtomic (cmAsk s line c) a c
        (match fnM w with
          | 0 => .add v
          | 1 => .swap v
          | _ => .cas (getS (getCore s c) (fRd w + 1)) v)) c (fRd w) (BitVec.ofNat 64 (leNat (cmBytes s a 8)))) c true))

/-- The directory of control memory (R643 to R651): a request that nothing refuses or holds is served at once, of the
exclusive ones the first of its cycle (entry 137 says which requests share a cycle); PUTM takes the
owner's line home; PUTS, RETRY, RECALL, RESERVATION_EXPIRY, PARITY_ERROR and AGENT_FENCE change the line as the protocol
says. -/
def Obligations.DirectoryCommandsComplete : Prop :=
  ∀ (s : State) (a : Fin 19) (line : Nat) (d : DirLine) (s1 : State),
    d = dirLine s line → s1 = bump s (homePage s line) 0 →
    (lineExists s line = true → sliceShut s (cmHome s line) = false → agentFenced s a = false →
      (mustRetry { d with retried := d.retried &&& ~~~(BitVec.ofNat 19 (2 ^ a.val)) } a = false →
        holdRuns { d with retried := d.retried &&& ~~~(BitVec.ofNat 19 (2 ^ a.val)) } a = false →
        exec (.gets a line) s = .next (grantS (setDir s1 line
          { dirLine s1 line with retried := d.retried &&& ~~~(BitVec.ofNat 19 (2 ^ a.val)) }) line a) ∧
        (s.granted.contains line = false →
          exec (.getm a line) s = .next (noteGrant (grantM (setDir s1 line
            { dirLine s1 line with retried := d.retried &&& ~~~(BitVec.ofNat 19 (2 ^ a.val)) }) line a) line) ∧
          (∀ addr op, addr % 8 = 0 → addr / 64 = line → exec (.atomic a addr op) s = .next (noteGrant (applyAtomic (setDir s1
            line { dirLine s1 line with retried := d.retried &&& ~~~(BitVec.ofNat 19 (2 ^ a.val)) }) addr a op) line)))) ∧
      (∀ v, d.owner = some a.val → exec (.putm a line v) s = .next (bump (cmMerge (setDir s1 line
        { d with cached := some v }) line) (homePage s1 line) 5)) ∧
      exec (.puts a line) s = .next (setDir s1 line { d with sharers := d.sharers &&& ~~~(BitVec.ofNat 19 (2 ^ a.val)) })) ∧
    (a.val ∈ d.resv → exec (.retry a line) s =
      .next (setDir s line { d with retried := d.retried ||| BitVec.ofNat 19 (2 ^ a.val) })) ∧
    (d.held = true → d.wait = none → exec (.recall line) s =
      .next (setDir { s with granted := s.granted.filter (· != line) } line { d with held := false })) ∧
    (∀ x r, d.held = true → d.wait = some (x, r) →
      exec (.recall line) s = .next (grant (setDir { s with granted := s.granted.filter (· != line) } line
        { d with held := false, wait := none }) line x r)) ∧
    (∀ x rest, d.resv = x :: rest → d.retried.toNat.testBit x = true → exec (.reservationExpiry line) s =
      .next (bump (setDir s line { d with resv := rest, retried := d.retried &&& ~~~(BitVec.ofNat 19 (2 ^ x)) })
        (homePage s line) 3)) ∧
    (d.owner = some a.val → d.cached.isSome = true → sliceFenced s (cmHome s line) = false →
      ∃ t, exec (.parityError a line) s = .next t ∧ t.cm.marked line = true ∧
        t.dir = (cmMerge (setDir s line { d with cachedPoison := true }) line).dir) ∧
    (a.val ≠ 16 → agentFenced s a = false → s.dir = [(line, d)] → d.owner = some a.val →
      ∃ t, exec (.agentFence a) s = .next t ∧ agentFenced t a = true ∧ (dirLine t line).owner ≠ some a.val ∧
        t.cm.marked line = true)

/-! ## Register pages -/

/-- The commands of the common header (R97, R98, R100 to R106, R110, R113 to R115, R117, R119, R128): a whole-word write that
reaches its page takes effect there, an error count is read and cleared, a read of a counter's low word or of both words fills the requester's shadow, and a
block that has become idle takes the cleared ENABLE. -/
def Obligations.HeaderCommandsComplete : Prop :=
  ∀ (s : State) (a : Access) (pg p : PageId) (data : Word),
    (reaches s a pg p = true →
      exec (.irqStatusClear a pg data) s = .next (clearIrq s p data) ∧
      exec (.irqForce a pg data) s = .next (updIrq s p (fun x => { x with
        irqStatus := x.irqStatus ||| data })) ∧
      exec (.ctrlEnable a pg data) s = .next (ctrlWrite p data s) ∧
      exec (.ctrlQuiesce a pg data) s = .next (ctrlWrite p data s) ∧
      exec (.ctrlLock a pg data) s = .next (ctrlWrite p data s)) ∧
    (∀ rq : Requester, readable s rq pg = some p →
      exec (.errCountRead rq pg) s = .next (emit (.readData ((getPage s p).errCount.zeroExtend 64))
        (modPage s p (fun x => { x with errCount := 0 }))) ∧
      (∀ pair < counterPairs (pageType p),
        exec (.counterLowRead rq pg { index := pair, wide := false }) s = .next (emit (.readData
          (BitVec.ofNat 64 ((ctrOf s p pair).toNat % 2 ^ 32))) (modPage s p (fun x => { x with
            shadows := mputD x.shadows 0 (shadowIdx rq) (BitVec.ofNat 32 ((ctrOf s p pair).toNat / 2 ^ 32)) }))) ∧
        exec (.counterLowRead rq pg { index := pair, wide := true }) s = .next (emit (.readData (ctrOf s p pair)) (modPage s p (fun x => { x with
          shadows := mputD x.shadows 0 (shadowIdx rq) (BitVec.ofNat 32 ((ctrOf s p pair).toNat / 2 ^ 32)) }))))) ∧
    (∀ rq : Requester, readable s rq .global = some .global →
      exec (.badAccessRead rq) s = .next (emit (.readData (BitVec.ofNat 64 (regOf s .global 0x070)))
        (putReg s .global 0x070 0))) ∧
    ((getPage s pg).disabling = true → pageIdle s pg = true →
      exec (.enableClearOnIdle pg) s = .next (modPage s pg (fun x => { x with enable := false, disabling := false })))

/-- Writes by address (R94, R119, R122, R124): REGISTER_WRITE writes the register at its offset of the page that answers;
IRQ_ROUTE_WRITE through a function that owns both sources of a word stores both entries, reserved bits 0, and neither
source being asserted sends nothing. -/
def Obligations.RegisterWritesComplete : Prop :=
  ∀ (s : State) (a : Access) (data : Word),
    (∀ (addr : BitVec 26) pg p off, pageAt addr.toNat = some pg → off = addr.toNat % 0x1000 / 4 * 4 →
      ¬(pg = .global ∧ 0x200 ≤ off ∧ off < 0x400) → reaches s a pg p = true →
      exec (.registerWrite a addr data) s = .next (writeReg p off data s)) ∧
    (∀ (i : Fin 128) v, resolve s a.fn .global = some .global → a.be = 0xF →
      ownsSrc s a.fn (2 * i.val) = true → ownsSrc s a.fn (2 * i.val + 1) = true →
      srcLevel s (2 * i.val) = false → srcLevel s (2 * i.val + 1) = false → v = data.toNat &&& 0x803F803F →
      exec (.irqRouteWrite a i data) s = .next (putReg s .global (0x200 + 4 * i.val) v))

/-- RUN, STOP, CORE_RESET, CORE_RESET_COMPLETE and IMEM_DATA_HI (R185, R187, R188, R190 to R192): RUN starts an idle or
trapped core at START_PC with its state kept; STOP traps a running one with cause BREAK; CORE_RESET waits for
what its core has outstanding; its completion clears the core; IMEM_DATA_HI stores an instruction and moves IMEM_ADDR on. -/
def Obligations.CoreControlCompletes : Prop :=
  ∀ (s : State) (a : Access) (n c : Fin 16),
    (reaches s a (.core n 0) (.core c 0) = true → (shownSt (getCore s c) = .idle ∨ shownSt (getCore s c) = .trapped) →
      (getPage s (.core c 0)).enable = true → (getPage s (.core c 0)).fenced = false → (getCore s c).resetPending = false →
      quiesced (getPage s (.core c 0)) = false →
      ∃ t, exec (.run a n) s = .next t ∧ getCore t c = { getCore s c with
        st := .running, halted := false, trapValid := false, waiting := none, runPending := false,
        pc := BitVec.ofNat 64 (regOf s (.core c 0) 0x048), runPc := BitVec.ofNat 64 (regOf s (.core c 0) 0x048) }) ∧
    (reaches s a (.core n 0) (.core c 0) = true → (getCore s c).st = .running →
      ∃ t, exec (.stop a n) s = .next t ∧ getCore t c = { getCore s c with
        st := .trapped, halted := false, waiting := none, trapValid := true, trapCause := 0x09, trapCode := 0,
        trapInstr := mgetD (getCore s c).imem 0 ((getCore s c).pc.toNat / 8), trapAddr := 0 }) ∧
    (reaches s a (.core n 0) (.core c 0) = true → exec (.coreReset a n) s = .next (requestReset s c)) ∧
    (resetReady s c = true →
      ∃ t, exec (.coreResetComplete c) s = .next t ∧ getCore t c = clearedCore (getCore s c) ∧
        (∀ x ∈ t.ctxs, ¬(x.2.owner = .core c.val ∧ x.2.result.isSome = true))) ∧
    (∀ data, reaches s a (.core n 0) (.core c 0) = true → coreRuns (getCore s c) = false →
      exec (.imemDataHi a n data) s = .next (putReg (putReg (modCore s c (fun k => { k with
        imem := mputD k.imem 0 (regOf s (.core c 0) 0x074) (data ++ BitVec.ofNat 32 (regOf s (.core c 0) 0x078)) }))
        (.core c 0) 0x07C data.toNat) (.core c 0) 0x074 ((regOf s (.core c 0) 0x074 + 1) % 0x4000)))

/-! ## Power, clocks and reset -/

/-- Power arriving and the boot (R82, R583, R608, R613, R714, R718, R719, R729, R734, R738): standby power-up starts from the
cleared state and moves the return code on; SENSE pins choose the cap and the limit; the rails and PERST# start the boot;
divider release locks ROOT and clears FRAME_COUNT; readiness brings the units into service. -/
def Obligations.PowerUpCompletes : Prop :=
  ∀ (s : State),
    exec .standbyPowerUp s = .next (modMgmt (coldState s) (fun m => { m with
      powerups := m.powerups + 1, prevReturnCode := m.returnCode, returnCode := 0xA5,
      panel := { m.panel with redrawPending := true } })) ∧
    (s.power.aux = true →
      (s.power.main12v = false →
      (∀ s0 s1, (s0 && s1) = false → exec (.mainPowerArrival s0 s1) s = .next (putReg (modPower s (fun p => { p with
        main12v := true, senseCap := (if s0 then 450 else if s1 then 300 else 600),
        maxPowerLimit := (if s0 then 510 else if s1 then 360 else 600), railsOff := false, railFailed := false })) .panel 0x088
          (if s0 then 510 else if s1 then 360 else 600))) ∧
      exec (.mainPowerArrival true true) s = .next (logOpen (modPower s (fun p => { p with
        main12v := true, senseCap := 150, maxPowerLimit := 0, railsOff := true, railFailed := false })) 0x0C 5 0 0 0 1)) ∧
      (∀ low, exec (.headerDetect low) s = .next (modPower s (fun p => { p with headerPresent := low }))) ∧
      (s.power.perst = true → s.power.railsGood = false → s.power.needPerst = 0 →
        exec .perstDeassert s = .next (modPower s (fun p => { p with perst := false, wakePin := false }))) ∧
      (s.power.perst = true → s.power.railsGood = true → s.power.needPerst = 0 →
        exec .perstDeassert s = .next (beginBoot (modPower s (fun p => { p with perst := false, wakePin := false })))) ∧
      (s.power.main12v = true → s.power.railsOff = false → s.power.tripLatch = false → s.power.needPerst = 0 →
        s.power.railsGood = false → s.power.railFailed = false →
        exec .railsGood s = .next (if s.power.perst then modPower s (fun p => { p with railsGood := true })
          else beginBoot (modPower s (fun p => { p with railsGood := true }))))) ∧
    (∀ co rp, (s.power.phase = .booting ∨ s.power.phase = .resetting) → s.power.released = false →
      exec (.dividerRelease co rp) s = .next (modPage (modPower s (fun p => { p with
        rootLocked := true, released := true, mgmtOnSclk := true, spreadActive := (regOf s .clock 0x044).testBit 0,
        refOffset := if co then 0 else 24, phaseValid := true, refExt := rp })) .clock
          (fun p => { p with ctrs := mdel p.ctrs 0 }))) ∧
    (∀ test, (s.power.phase = .booting ∨ s.power.phase = .resetting) → s.power.released = true →
      ∃ t, exec (.statusReady test) s = .next t ∧ t.power.phase = .ready ∧ t.units = serviceUnits s.units test ∧
        (∀ pg ∈ servicePages t, (getPage t pg).enable = true ∧ (getPage t pg).ready = true))

/-- Power leaving and every reset (R136, R608 to R612, R617, R618, R719, R722): what is cleared, what stays, and where the
device stands then. -/
def Obligations.ResetsComplete : Prop :=
  ∀ (s : State),
    exec .standbyPowerLoss s = .next (modPower (coldState s) (fun p => { p with aux := false, phase := .noStandby })) ∧
    (s.power.main12v = true → exec .mainPowerLoss s = .next (wakePinCheck (logOpen (modPower (railsDown s) (fun p =>
      { p with main12v := false })) 0x07 0 0 0 0 0))) ∧
    (s.power.railsGood = true → exec .thermalTrip s = .next (wakePinCheck (logOpen (modPower (railsDown s) (fun p =>
      { p with tripLatch := true })) 0x08 4 0 0 0 (wrap 12 s.mgmt.dieTemp)))) ∧
    (s.power.perst = false → s.power.aux = true →
      exec .perstAssert s = .next (modPower (clearMain s true) (fun p => { p with
        perst := true, tripLatch := false, announce := false,
        phase := if s.power.phase = .noFunction then .noFunction else .held,
        needPerst := if p.needPerst = 2 then 1 else p.needPerst }))) ∧
    (isOn s = true → exec .linkInitiatedReset s =
      .next (modPower (startReset s 3) (fun p => { p with phase := .booting, announce := false }))) ∧
    ((s.power.phase = .ready ∨ s.power.phase = .resetting) → s.power.rootLocked = true →
      exec .rootLockLoss s = .next (resetLinkUp (logOpen (bump s .clock 1) 0x06 0 0x0002 0 0 0) 2)) ∧
    (∀ a, reaches s a .global .global = true → exec (.fullReset a 0x5A5A0001) s = .next (requestFull s 0)) ∧
    (∀ a p, s.power.phase = .ready → reaches s a (.queues p) (.queues p) = true →
      exec (.resetRequest a p 0x5A5A0002) s = .next (requestFull (bump s (.queues p) 7) p) ∧
      (∀ d, s.drain = some d → d.acked ||| BitVec.ofNat 4 (2 ^ p.val) ≠ BitVec.allOnes 4 →
        exec (.drainAck a p 1) s =
          .next { s with drain := some { d with acked := d.acked ||| BitVec.ofNat 4 (2 ^ p.val) } }) ∧
      (∀ d, s.drain = some d → d.acked ||| BitVec.ofNat 4 (2 ^ p.val) = BitVec.allOnes 4 → isOn s = true →
        exec (.drainAck a p 1) s = .next (resetLinkUp { s with drain := none } 1))) ∧
    (s.drain.isSome = true → isOn s = true → exec .drainPeriodEnd s = .next (resetLinkUp { s with drain := none } 1))

/-! ## PCI Express, the mailbox and SMBus -/

/-- Configuration requests, D3hot, D0, MSI-X and bus mastering (R126, R578, R581, R583, R615): what each does in service and
during a reset that keeps the link up; a booting device answers Request Retry Status. -/
def Obligations.PcieCommandsComplete : Prop :=
  ∀ (s : State) (fn : Fin 4),
    (cfgServed s = true →
      (∀ reg, exec (.configRequest fn reg none) s = .next (emit (.configData (BitVec.ofNat 32 (cfgRead s fn reg))) s)) ∧
      (∀ reg w, exec (.configRequest fn reg (some w)) s = .next (cfgWrite s fn reg w)) ∧
      exec (.d3hotEntry fn) s = .next (modFn s fn (fun f => { f with d3hot := true })) ∧
      exec (.d0Return fn) s = .next (flushFn (modFn s fn (fun f => { f with d3hot := false })) fn) ∧
      exec (.busMasterDisable fn) s = .next (dropBusMaster s fn) ∧
      (∀ v : Fin 64, (s.fns[fn]).d3hot = false → (s.fns[fn]).msixEnable = true → (s.fns[fn]).msixFunctionMask = false →
        (s.fns[fn]).busMaster = true → ((s.fns[fn]).vectors[v]).pending = true →
        ∃ t, exec (.msixUnmask fn v) s = .next t ∧ t.out = s.out ++ [.msi fn v] ∧
          (t.fns[fn]).vectors[v] = { masked := false, pending := false })) ∧
    (∀ reg wr, s.power.phase = .booting → exec (.configRequest fn reg wr) s = .next (emit .configRetry s))

/-- The mailbox commands (R129 to R132, R397): MB_GO with no command under way starts the one MB_OP names, and each completes
with its result and response; REMOTE_IDENT sends its request and ends with the answer, or after 1 ms with TIMEOUT and detail
NO_ANSWER; IDENT_REQ is answered. -/
def Obligations.MailboxCommandsComplete : Prop :=
  ∀ (s : State) (a : Access) (b : State),
    b = boxStart s →
    (reaches s a .mailbox .mailbox = true → s.mailbox.busy = false → (getPage s .mailbox).enable = true →
      quiesced (getPage s .mailbox) = false →
      (mbOp s = 0 → exec (.mbNop a) s = .next (boxDone b stOk 0 [])) ∧
      (mbOp s = 1 → exec (.mbLogInfo a) s = .next (boxDone b stOk 0 (logInfo b))) ∧
      (∀ es, mbOp s = 2 → 1 ≤ mbArg1 s → mbArg1 s ≤ 4 → es = (List.range (mbArg1 s)).filterMap (fun i =>
        s.mgmt.log.find? (fun e => e.seq = BitVec.ofNat 32 (mbArg0 s + i))) → es ≠ [] →
        exec (.mbReadLog a) s = .next (boxDone b stOk 0 (es.flatMap logBytes))) ∧
      (∀ x, mbOp s = 3 → mbArg0 s < 2 → committed s = some x →
        exec (.mbReadRecord a) s = .next (boxDone b stOk 0 (sliceB x.bytes (128 * mbArg0 s) 128))) ∧
      (∀ x, mbOp s = 4 → committed s = some x → exec (.mbReadReturnCode a) s = .next (boxDone b stOk 0
        (leBytes 5 s.mgmt.returnCode.toNat ++ leBytes 5 s.mgmt.prevReturnCode.toNat ++ leBytes 4 (copySeq x) ++ [0, 0]))) ∧
      (mbOp s = 5 → mbArg0 s < 256 → s.units.service ≠ 3 → (List.range 8).any (isUp s) = true → mbArg0 s ≠ chipId s →
        ∃ t, exec (.mbRemoteIdent a) s = .next t ∧ t.mgmt.identWait = some s.mgmt.identNext ∧
          t.mgmt.identNext = s.mgmt.identNext + 1 ∧ t.mailbox.busy = true)) ∧
    (∀ id, s.mgmt.identWait = some id → exec .remoteIdentTimeout s =
      .next (boxDone (modMgmt s (fun m => { m with identWait := none })) stTimeout 6 [])) ∧
    (∀ (m : Fin 8) (f : Frame), isMgmtMsg f 2 = true → frDst f = chipId s →
      (takeHead s m 0 f).mgmt.identWait = some (BitVec.ofNat 32 (hb f 20 4)) →
      exec (.identResp m f) s = .next (boxDone (modMgmt (takeHead s m 0 f) (fun x => { x with identWait := none })) stOk 0
        (sliceB f.payload 0 32))) ∧
    (∀ (m : Fin 8) (f : Frame), isMgmtMsg f 1 = true → frDst f = chipId s → (getCls (getPort s m) 0).rxbuf.head? = some f →
      f.payload = [] →
      exec (.identReq m f) s = .next (sendM (takeHead s m 0 f) (mkM s (frSrc f) 1 2
        ([0, 0] ++ leBytes 4 (hb f 20 4)) (identPayload s))))

/-! ## Fencing, links, background services -/

/-- UNIT_FENCE, STACK_PHY_FAIL, HBM_PHY_TRAINING_LOSS and MINIMUM_SERVICE_SET_FAILURE (R88, R89, R92, R633, R634): a unit of
the device in service is fenced; a stack that lost training answers as fenced until a retraining succeeds, and each attempt
is counted; a lost minimum service set leaves no function. -/
def Obligations.UnitFailuresComplete : Prop :=
  ∀ (s : State),
    (s.power.phase = .ready →
      (∀ c, exec (.unitFence (.core c)) s = .next (fenceCore s c)) ∧
      (∀ k, exec (.unitFence (.stack k)) s = .next (fenceStack s k 0)) ∧
      (∀ j, exec (.unitFence (.slice j)) s = .next (fenceSlice s j)) ∧
      (∀ m, exec (.unitFence (.port m)) s = .next (fencePort s m)) ∧
      (∀ k, exec (.stackPhyFail k) s = .next (fenceStack s k 2)) ∧
      (∀ (k : Fin 12) ok, s.units.hbms.toNat.testBit k = true → (getPage s (.hbm k)).fenced = false →
        ∃ t, exec (.hbmPhyTrainingLoss k ok) s = .next t ∧ stackFenced t k.val = !ok ∧
          t = bump { s with units := t.units } (.hbm k) 9)) ∧
    exec (.minimumServiceSetFailure .pcieEndpoint) s = .next (logFault { s with power := { s.power with
      vitalFailed := some .pcieEndpoint, phase := .noFunction } } 0x02 3 0 0 stFenced 0 0) ∧
    exec (.minimumServiceSetFailure .managementCore) s = .next { s with power := { s.power with
      vitalFailed := some .managementCore, phase := .noFunction } } ∧
    exec (.minimumServiceSetFailure .rootPll) s = .next (logFault { s with power := { s.power with
      vitalFailed := some .rootPll, phase := .noFunction } } 0x02 3 0x0002 0 stFenced 0 0) ∧
    exec (.minimumServiceSetFailure .bootFlash) s = .next { s with power := { s.power with
      vitalFailed := some .bootFlash, phase := .noFunction } }

/-- Bring-up of a Baton port (R381 to R388): LINK_ENABLE and RETRAIN write PORT_CTRL; negotiation, training, FEC lock and the
HELLO exchange move the port along, a timeout or a failure takes it back, and an UP port says HELLO again. -/
def Obligations.LinkBringupCompletes : Prop :=
  ∀ (s : State) (m : Fin 8) (p : Port),
    p = getPort s m →
    (∀ a data, reaches s a (.baton m) (.baton m) = true →
      exec (.linkEnable a m data) s = .next (portCtrlWrite m data s) ∧
      exec (.retrain a m data) s = .next (portCtrlWrite m data s)) ∧
    (∀ ts t, p.st = .an → (ownTypes s m).find? (fun t => ts.contains t) = some t → exec (.autonegComplete m ts) s =
      .next (setPortSt (modPort s m (fun p => { p with speed400 := t = .cr4_400 || t = .kr4_400 })) m .training)) ∧
    (p.st = .training → exec (.linkTrainingComplete m) s = .next (setPortSt s m .aligning)) ∧
    (p.st = .aligning → exec (.fecLock m) s = .next (setPortSt (modPort s m (fun p => { p with
      fecLock := true, ownCheck := false, peerOk := false })) m .hello)) ∧
    (p.st ≠ .down → p.st ≠ .up → exec (.bringupTimeout m) s = .next (takeDown (bump s (.baton m) 23) m 4)) ∧
    (∀ f, frameFails s m f = none → frKind f = 4 → p.st = .hello → wiringOk s m f = true → configOk s m f = true →
      (hb f 17 1).testBit 7 = true → exec (.hello m f) s = .next (enterUp (modPort s m (fun p => { p with
        peerChip := BitVec.ofNat 8 (hb f 16 1), peerPort := BitVec.ofNat 3 (hb f 17 1),
        peerMac := if p.ownCheck then p.peerMac else f.src, ownCheck := true, peerOk := true })) m)) ∧
    ((p.st = .hello ∨ p.st = .miswired) → exec (.helloTimer m) s = .next (sendControl s m (helloFrame s m))) ∧
    (p.st = .up →
      exec (.idleHello m) s = .next (sendControl s m (helloFrame s m)) ∧
      exec (.liveness m) s = .next (leaveUp s m 3) ∧
      exec (.pcsLoss m) s = .next (leaveUp s m 1))

/-- Frames received and sent by a port that is UP (R398, R401, R402, R404 to R412): the next DATA frame in sequence is
accepted and counted; ACK, NAK, CREDIT, PFC and the timers do what go-back-N and flow control say; a frame starts when window,
share, pause and credit allow and its class has its turn (entry 132); a foreign frame is discarded and counted. -/
def Obligations.LinkFramesComplete : Prop :=
  ∀ (s : State) (m : Fin 8) (c : Fin 3) (f : Frame),
    isUp s m = true →
    (frameFails s m f = none → clsFin (frClass f) = c →
      (frKind f = 0 → frAckValid f = false → frSeq f = (getCls (getPort s m) c).expected →
        occupancy (getPort s m) c + f.payload.length ≤ rxShare c.val →
        ∃ u, u = acceptData (bump (bump (modCls s m c (fun x => { x with expected := x.expected + 1, nakSent := false }))
            (.baton m) 1) (.baton m) 3 f.payload.length) m f ∧
          exec (.data m f) s = .next (if 64 ≤ unacked u m c then sendAckNak u m c 1 else u)) ∧
      (frKind f = 1 → exec (.ack m f) s = .next (takeAck s m c (frAck f))) ∧
      (∀ n, frKind f = 2 → ackedBy (getCls (getPort s m) c) (frAck f) = some n →
        exec (.nak m f) s = .next (goBack (freeAcked (bump s (.baton m) 12) m c n) m c)) ∧
      (frKind f = 3 → exec (.credit m f) s = .next (relayInput s (frGroup f) m.val f))) ∧
    (∀ i, frameFails s m f = some i → i ≠ 8 → exec (.foreignFrame m f) s = .next (bump s (.baton m) i)) ∧
    (∀ q : PfcFrame, exec (.pfc m q) s = .next ((List.finRange 3).foldl (fun (u : State) (k : Fin 3) =>
      if q.enable.toNat.testBit (pcpOf u m k.val) then setPaused u m k (q.times.getD (pcpOf u m k.val) 0 != 0) else u)
        (bump s (.baton m) 16))) ∧
    exec (.pause m) s = .next (bump s (.baton m) 7) ∧
    (pausedBy s m c = true → exec (.pauseExpiry m c) s = .next (setPaused s m c false)) ∧
    ((getPort s m).localPaused.toNat.testBit c = true → xonOf s m c < occupancy (getPort s m) c →
      exec (.pfcRepeat m c) s = .next (sendPfc s m c 0xFFFF)) ∧
    (unacked s m c ≠ 0 → exec (.ackDelayTimer m c) s = .next (sendAckNak s m c 1)) ∧
    (pausedBy s m c = false → (getCls (getPort s m) c).retx ≠ [] →
      exec (.retransmitTimeout m c) s = .next (goBack (bump s (.baton m) 13) m c)) ∧
    (∀ rest now p, pausedBy s m c = false → (getCls (getPort s m) c).resend = 0 → (getCls (getPort s m) c).txq = f :: rest →
      ((getCls (getPort s m) c).nextSeq - (getCls (getPort s m) c).oldest).toNat < 512 →
      payBytes (getCls (getPort s m) c).retx + f.payload.length ≤ retxShare c.val → creditOk s m f = true →
      arbitrate (getPort s m) c f (nextFrame s m 0) (nextFrame s m (if c.val = 1 then 2 else 1)) = some p →
      exec (.dataFrameStart m c now) s = .next (transmit (modCls (spendCredit (setPort s m p) m (setHb f 2 2
        (getCls (getPort s m) c).nextSeq.toNat)) m c (fun x => { x with
          txq := rest, retx := x.retx ++ [setHb f 2 2 (getCls (getPort s m) c).nextSeq.toNat],
          nextSeq := x.nextSeq + 1 })) m c (setHb f 2 2 (getCls (getPort s m) c).nextSeq.toNat) now))

/-- Frames on their way (R370, R371, R422, R425): a frame for another chip leaves its receive buffer for its egress port when that can
take it, one hop more; a stalled frame of class M or B is dropped and counted; a good chunk with its check passed is handed on. -/
def Obligations.FrameHandlingCompletes : Prop :=
  ∀ (s : State) (m : Fin 8) (c : Fin 3) (f : Frame) (rest : List Frame),
    (getCls (getPort s m) c).rxbuf = f :: rest →
    (∀ r, frDst f ≠ chipId s → isFire f = false → frHops f + 1 < hopLimit (takeHead s m c f) m →
      mayForward s m f = true →
      egress (takeHead s m c f) (frDst f) (frDetour f) = some r →
      exec (.frameForward m c) s = .next (enqueue (takeHead s m c f) r.1 (setHb (setHb f 10 1 (frHops f + 1)) 11 1 r.2))) ∧
    (c ≠ 2 → exec (.stallDrop m c) s = .next (bump (takeHead s m c f) (.baton m) 21)) ∧
    (∀ h hs es next clamped dirty, (getPort s m).held = h :: hs → h.complete = true → h.frames ≠ [] →
      readChunk (h.table.getD {}) h.frames = ⟨.good es next clamped, dirty⟩ →
      (frForm (h.frames.headD {}) ≠ 0 → exec (.chunkCheck m) s = .next (handOn s m h none dirty es next)) ∧
      (frForm (h.frames.headD {}) = 0 → exec (.chunkCheck m) s = .next (handOn (bump (bump (bump (bump s (.expander m) 0)
        (.expander m) 1 (chunkBytes h.frames).length) (.expander m) 2 es.length) (.expander m) 6 clamped) m h none dirty es
          next)))

/-- The background services (R389, R628, R629, R641, R653 to R656, R661, R662): a unit of work of a service that runs is done
and counted, the telemetry updates the readings and the throttle, a pause is written, and a pause of recalibration or
calibration ends by itself.  That a second FLASH_WEAR ends an erase is the model's choice (entry 63). -/
def Obligations.BackgroundServicesComplete : Prop :=
  ∀ (s : State),
    (∀ k : Fin 12, scrubRuns s 0 = true → (scrubStacks s).contains k.val = true → mgetD s.mgmt.scrubPos 0 k < stackLines →
      s.hbm.marked (hbmKey k (64 * mgetD s.mgmt.scrubPos 0 k) / 64) = false →
      mget s.hbmFlaws (hbmKey k (64 * mgetD s.mgmt.scrubPos 0 k) / 64) = none → ueLimit (bump s (.hbm k) 6) k = false →
      exec (.hbmScrub k .clean) s = .next (endPass (modMgmt (bump s (.hbm k) 6) (fun m => { m with
        scrubPos := mputD m.scrubPos 0 k (mgetD s.mgmt.scrubPos 0 k + 1) })))) ∧
    (∀ j : Fin 16, scrubRuns s 1 = true → s.units.slices.toNat.testBit j = true → sliceFenced s j = false →
      s.cm.marked (chipLine s j (mgetD s.mgmt.cmScrubPos 0 j)) = false →
      mget s.cmFlaws (chipLine s j (mgetD s.mgmt.cmScrubPos 0 j)) = none →
      exec (.cmScrub j .correctable) s = .next (modMgmt (bump s (.slice j) 9) (fun m => { m with
        cmScrubPos := mputD m.cmScrubPos 0 j ((mgetD s.mgmt.cmScrubPos 0 j + 1) % sliceLines) }))) ∧
    (∀ (m lane : Fin 8), s.power.phase = .ready → bgPaused s 2 = false → s.units.ports.toNat.testBit m = true →
      (getPage s (.baton m)).fenced = false → exec (.serdesRecalibration m lane) s = .next (bump s .background 1)) ∧
    (s.power.phase = .ready → bgPaused s 3 = false →
      exec (.sensorCalibration true) s = .next (modMgmt s (fun m => { m with calibrating := true }))) ∧
    (s.mgmt.calibrating = true → exec (.sensorCalibration false) s =
      .next (bump (modMgmt s (fun m => { m with calibrating := false })) .background 2)) ∧
    exec (.flashWear .moveSector) s = .next s ∧
    (s.mgmt.erasing = false → s.power.aux = true → bgPaused s 4 = false →
      exec (.flashWear .eraseSpare) s = .next (modMgmt s (fun m => { m with erasing := true }))) ∧
    (s.mgmt.erasing = true → exec (.flashWear .eraseSpare) s =
      .next (bump (modMgmt s (fun m => { m with erasing := false })) .background 3)) ∧
    (∀ x : Telemetry, s.power.aux = true → s.power.railsGood = true → s.mgmt.calibrating = false →
      exec (.telemetrySample x) s = .next (updateThrottle (modMgmt (readPanelTemp (bump s .background 5) x.panel)
        (fun m => { m with
          dieTemp := x.die, hbmTemp := x.hbmTemps.foldl max (x.hbmTemps.headD 0), stackTemps := x.hbmTemps,
          vcoreMv := x.vcoreMv, powers := (m.powers ++ [x.powerW]).drop (m.powers.length - 99) })))) ∧
    (∀ a data, reaches s a .background .background = true →
      exec (.bgPause a data) s = .next (putReg s .background 0x040 (data.toNat % 32))) ∧
    (∀ i : Fin 5, (i = 2 ∨ i = 3) → bgPaused s i = true → exec (.autoResume i) s =
      .next (pulseIrq (bump (putReg s .background 0x040 (regOf s .background 0x040 - 2 ^ i.val)) .background 6)
        .background 1))

/-! ## Stork -/

/-- The window commands (R438 to R442, R460, R485 to R487): a posted command that passes its checks opens, revokes or maps
its window, or binds its queue, is counted, and completes with OK and the window's generation. -/
def Obligations.WindowCommandsComplete : Prop :=
  ∀ (s : State) (tag : BitVec 12) (x : Ctx) (d : SDesc) (u : State) (w : Window),
    u = startCtx s tag.toNat → w = getWin u d.window →
    (storkPosted s tag.toNat 0x10 x d = true → ownsWindow u x.part d.window = true →
      ownsDomain u x.part (cDomain d) = true → winFenced u d.window = false → w.valid = false → openShape x d = true →
      openInside u x d = true →
      ((cMode d).testBit 3 = true → ownsKey u x.part (cKey d) = true ∧ (mget u.stork.keys (cKey d)).isSome = true) →
      exec (.openWindow tag) s = .next (bump (storkEnd (setWin u d.window { w with
        base := BitVec.ofNat 48 d.off, length := BitVec.ofNat 48 d.len, domain := BitVec.ofNat 8 (cDomain d),
        rights := BitVec.ofNat 2 (cRights d), valid := true, paged := (cMode d).testBit 1, resend := (cMode d).testBit 2,
        sealed := (cMode d).testBit 3, keySlot := BitVec.ofNat 8 (cKey d), pageMap := BitVec.ofNat 48 d.value })
          tag.toNat d stOk 0 w.generation.toNat 0) .windows 0)) ∧
    (storkPosted s tag.toNat 0x11 x d = true → windowCheck u x d (winCmdShape x d) false = none →
      exec (.revoke tag) s = .next (bump (storkEnd (revokeWindow u d.window) tag.toNat d stOk 0
        (getWin (revokeWindow u d.window) d.window).generation.toNat 0) .windows 1)) ∧
    (storkPosted s tag.toNat 0x12 x d = true → ownsQueue u x.part d.queue = true → ownsDomain u x.part (cDomain d) = true →
      cmdRest x d = true → d.window = 0 → d.off = 0 → d.len = 0 → d.value = 0 → cRights d = 0 → cMode d = 0 → cKey d = 0 →
      cRest d = 0 → queueFenced u d.queue = false → (∀ o ∈ u.stork.ops, (opDesc o).queue ≠ d.queue) →
      exec (.bindQueue tag) s = .next (bump (storkEnd (modStork u (fun k => { k with
        queues := mputD k.queues 0 d.queue (BitVec.ofNat 9 (256 + cDomain d)) })) tag.toNat d stOk 0 0 0) .windows 2)) ∧
    (storkPosted s tag.toNat 0x13 x d = true → windowCheck u x d (winCmdShape x d) true = none → u.stork.stall = [] →
      exec (.pageReady tag) s = .next (bump (storkEnd (modStork u (fun k => { k with
        trans := k.trans.filter (fun t => !(t.1 = d.window && t.2.1 = d.off)), stall := [] })) tag.toNat d stOk 0
          w.generation.toNat 0) .windows 3)) ∧
    (storkPosted s tag.toNat 0x14 x d = true → windowCheck u x d (winCmdShape x d) true = none →
      exec (.pageUnmap tag) s = .next (bump (storkEnd (modStork u (fun k => { k with
        trans := k.trans.filter (fun t => !(t.1 = d.window && t.2.1 = d.off)) })) tag.toNat d stOk 0
          w.generation.toNat 0) .windows 4))

/-- Operations at the initiator (R443 to R451, R456, R463, R468, R471, R472): a posted operation that passes its checks joins
the engine and sends what its window allows; a FLAG waits until every earlier WRITE and FLAG of its queue is over; a stale
answer is discarded; a timeout replays or ends it. -/
def Obligations.StorkOperationsComplete : Prop :=
  ∀ (s : State) (tag : BitVec 12) (x : Ctx) (d : SDesc) (u : State),
    u = startCtx s tag.toNat →
    (opCheck u x d = none →
      (∀ data v, storkPosted s tag.toNat 1 x d = true → writeSource u x d = (v, .ok data) →
        exec (.storkWrite tag) s = .next (pump (addOp v tag.toNat x d data) tag.toNat)) ∧
      (storkPosted s tag.toNat 2 x d = true → exec (.storkRead tag) s = .next (pump (addOp u tag.toNat x d []) tag.toNat)) ∧
      (storkPosted s tag.toNat 3 x d = true → exec (.storkFlag tag) s = .next (addOp u tag.toNat x d []))) ∧
    (∀ o, findOp s tag.toNat = some o →
      (o.flagWaits = true →
        (∀ y ∈ s.stork.ops, y.order < o.order → (opDesc y).queue = (opDesc o).queue → isRead (opDesc y) = true) →
        (∀ q ∈ s.stork.fails, q.queue ≠ (opDesc o).queue) →
        exec (.flagSend tag) s = .next (pump (setOp s o.tag (fun o => { o with flagWaits := false })) o.tag)) ∧
      (o.flagWaits = false → o.awaitingRoute = false → o.failure = none →
        exec (.progressTimeout tag) s = .next (needReplay (bump s .stork 6 (bit01 (o.attempt != 3))) o)) ∧
      (o.awaitingRoute = true → o.failure = none → hasRoute s (opDesc o).chip = true →
        exec (.replay tag) s = .next (pump (setOp (bump s .stork 5) o.tag (fun o => { o with
          attempt := o.attempt + 1, replayed := true, awaitingRoute := false, counted := 0, covered := 0, sent := 0,
          unanswered := [], missed := [], round := 0 })) o.tag)) ∧
      (o.awaitingRoute = true → hasRoute s (opDesc o).chip = false → exec (.routeWaitExpiry tag) s = .next (failOp s o.tag stLinkDown 0x0D)) ∧
      (∀ r, o.missed = [r] → o.failure = none → o.awaitingRoute = false →
        exec (.resendRound tag) s = .next (resendRange o 2100 (setOp (bump s .stork 13) o.tag (fun o => { o with
          unanswered := o.unanswered ++ [r], missed := [], round := o.round + 1 })) r.start r.len))) ∧
    (∀ a f, isStork f 4 = true → frDst f = chipId s → exec (.response a f) s = .next (takeResponse (takeArrival s a f) f)) ∧
    (∀ a f o, isStork f 3 = true → frDst f = chipId s → answered (takeArrival s a f) f = some o → isSealed (opDesc o) = false →
      isRead (opDesc o) = true → (opDesc o).off ≤ frOffset f → frOffset f - (opDesc o).off + f.payload.length ≤ (opDesc o).len →
      exec (.readData a f) s = .next (takeReadData (takeArrival s a f) f))

/-- Frames at the target (R448, R449, R452, R453, R456, R462, R469): a WRITE, FLAG or READ_REQ frame of an unsealed window is
taken off its path and applied, a READ_REQ in pieces of
8,192 B; a due RESPONSE leaves; an expired held frame is answered PAGE_MISS with STALL_EXPIRED; the
oldest partly received compressed write of a port is discarded. -/
def Obligations.StorkTargetCompletes : Prop :=
  ∀ (s : State) (a : Arrival) (f : Frame) (u : State) (done : State → State),
    u = takeArrival s a f → done = (fun v => if frLastOfOp f then flushArrival v a else v) →
    (frDst f = chipId s → winFenced u (frWindow f) = false → (getWin u (frWindow f)).sealed = false → frSealed f = false →
      (∀ c ∈ u.stork.coal, c.arrival = a → coalKey c f = true) →
      (isStork f 1 = true → frCurlew f = false →
        exec (.writeData a f) s = .next (done (runPiece u a f (frOffset f) f.payload.length f.payload))) ∧
      (isStork f 5 = true →
        exec (.flagFrame a f) s = .next (done (runPiece u a f (frOffset f) 8 (sliceB f.payload 0 8)))) ∧
      (isStork f 2 = true → leField f.payload 0 8 ≤ 0x40000 →
        exec (.readReq a f) s = .next (done ((reqPieces f (leField f.payload 0 8)).foldl
          (fun v g => runPiece v a g.1 (frOffset g.1) g.2 []) u)))) ∧
    (∀ c, s.stork.coal.find? (fun c => c.arrival = a) = some c → exec (.responseCoalesceTimer a) s =
      .next (sendCoalesced (modStork s (fun k => { k with coal := k.coal.filter (fun c => c.arrival != a) })) c)) ∧
    (∀ y rest, s.stork.stall = y :: rest → exec .stallExpiry s = .next (answerFail (bump (modStork s (fun k =>
      { k with stall := rest })) .stork 12) y.arrival y.frame stPageMiss 0x0A y.len
        (stallFrames y.frame y.len))) ∧
    (∀ p, s.stork.parts.find? (fun p => p.arrival = a) = some p →
      exec (.compressedWriteDiscard a) s = .next (modStork s (fun k => { k with parts := k.parts.erase p })))

/-- Sealing keys (R465, R484): a guarded write starts a LOAD or CLEAR while none is in progress; its completion loads the
slot with KEY_DATA and IV counter 0, or empties it, and clears KEY_DATA. -/
def Obligations.KeyCommandsComplete : Prop :=
  ∀ (s : State) (a : Access) (data : Word),
    (reaches s a .keys .keys = true → bitsOf data.toNat 31 24 = 0xA5 → s.stork.keyJob = none →
      (getPage s .keys).enable = true →
      (bitsOf data.toNat 9 8 = 1 → exec (.keyLoad a data) s =
        .next (modStork s (fun k => { k with
          keyJob := some (bitsOf data.toNat 5 0, true), keyHeld := quiesced (getPage s .keys) }))) ∧
      (bitsOf data.toNat 9 8 = 2 → exec (.keyClear a data) s =
        .next (modStork s (fun k => { k with
          keyJob := some (bitsOf data.toNat 5 0, false), keyHeld := quiesced (getPage s .keys) })))) ∧
    (∀ slot, s.stork.keyJob = some (slot, true) → s.stork.keyHeld = false → exec .keyOpComplete s = .next (modStork s (fun k => { k with
      keys := mput k.keys slot k.keyData, keyCtr := mputD k.keyCtr 0 slot 0, keyData := 0, keyJob := none }))) ∧
    (∀ slot, s.stork.keyJob = some (slot, false) → s.stork.keyHeld = false → exec .keyOpComplete s = .next (modStork s (fun k => { k with
      keys := mdel k.keys slot, keyData := 0, keyJob := none })))

/-! ## Relay -/

/-- The Relay commands (R494, R497, R499 to R502, R526): CREATE of a FREE group with everything in order forms it and
announces it, STEP takes the group's next number and its turn, REFORM starts a re-form at the next epoch, DISSOLVE ends an
idle group or waits, and DISSOLVE_RELEASE ends it when it is idle. -/
def Obligations.RelayCommandsComplete : Prop :=
  ∀ (s : State) (tag : BitVec 12) (x : Ctx) (d : RDesc) (u v : State) (set : BitVec 256),
    u = startCtx s tag.toNat →
    (relayPosted s tag.toNat 1 x d = true → (getGrp u d.group).st = .free → complOk x d.compl = true → d.kind = 0 →
      d.flags = 0 → d.scale = 0 → d.cap = 0 → d.count = 0 → d.aux = 0 → d.b54 = 0 → d.src2 < 2 ^ 24 →
      rSpaceOk ((ctxCore x).map (·.val)) d.src = true →
      devCheck u (ctxCore x) x.part (fieldSpace d.src) (fieldAddr d.src) 32 false = stOk →
      v = (devRead u (ctxCore x) x.part (fieldSpace d.src) (fieldAddr d.src) 32).2 →
      anyMark (devRead u (ctxCore x) x.part (fieldSpace d.src) (fieldAddr d.src) 32).1 = false →
      set = BitVec.ofNat 256 (leNat (plain (devRead u (ctxCore x) x.part (fieldSpace d.src) (fieldAddr d.src) 32).1)) →
      inSet set (chipId v) = true → stagingOk v x d = true →
      (getPage v (.core (coreFin (partBase v x.part + d.b5)) 0)).fenced = false →
      exec (.relayCreate tag) s = .next (settle (tryCommit (announce (setGrp v d.group {
        st := .forming, members := set, epoch := BitVec.ofNat 16 d.b67, part := x.part, stageCore := d.b5,
        stageOffset := d.src2, stageSize := stageSizeOf d, lastReleased := 0xFFFFFFFF,
        nextScale := List.replicate 64 0, creating := some tag.toNat, early := (getGrp v d.group).early })
          d.group set) d.group) d.group)) ∧
    (relayPosted s tag.toNat 2 x d = true → groupOver u (d.group % 64) = false →
      exec (.relayStep tag) s = .next (settle (modGrp u (d.group % 64) (fun y => { y with
        posted := y.posted ++ [(tag.toNat, y.nextStep)], nextStep := (y.nextStep + 1) % 2 ^ 32 })) (d.group % 64))) ∧
    (relayPosted s tag.toNat 3 x d = true → bareOk x d = true →
      ((getGrp u d.group).st = .ready ∨ (getGrp u d.group).st = .active) →
      exec (.relayReform tag) s = .next (settle (reformUp (modGrp u d.group (fun y => { y with
        reformTags := y.reformTags ++ [tag.toNat] })) d.group) d.group)) ∧
    (relayPosted s tag.toNat 4 x d = true → bareOk x d = true → (getGrp u d.group).st ≠ .free →
      (getGrp u d.group).dissolving = none →
      exec (.relayDissolve tag) s =
        .next (dissolveNow (modGrp u d.group (fun y => { y with dissolving := some (tag.toNat, y.nextStep) })) d.group)) ∧
    (∀ (g : Fin 64) t, dissolvable (getGrp s g) = true → (getGrp s g).dissolving = some t → (getGrp s g).posted = [] →
      exec (.dissolveRelease g) s = .next (setGrp (completeCmd s g t.1 stOk 0) g {}))

/-- Frames of the Relay (R369, R397, R503, R505, R510, R518, R520, R521, R526, R530): a single frame, a control message or a
checked chunk of its kind leaves its buffer and reaches its group and step. -/
def Obligations.RelayFramesComplete : Prop :=
  ∀ (s : State) (m : Fin 8) (f : Frame),
    (frKind f = 0 → frClass f = 2 →
      (frRelayKind f = 1 → exec (.count m f) s = .next (relayInput (takeHead s m 2 f) (frGroup f) m.val f)) ∧
      (frRelayKind f = 4 → exec (.endFrame m f) s = .next (relayInput (takeHead s m 2 f) (frGroup f) m.val f)) ∧
      (frRelayKind f = 5 → exec (.doneFrame m f) s = .next (relayInput (takeHead s m 2 f) (frGroup f) m.val f)) ∧
      (frRelayKind f = 6 → exec (.release m f) s = .next (relayInput (takeHead s m 2 f) (frGroup f) m.val f))) ∧
    (frKind f = 0 → frClass f = 0 → hb f 16 1 = 3 →
      (hb f 17 1 = 1 → exec (.abort m f) s = .next (relayInput (takeHead s m 0 f) (frMsgGroup f) m.val f)) ∧
      (hb f 17 1 = 2 → exec (.topo m f) s = .next (relayInput (takeHead s m 0 f) (frMsgGroup f) m.val f)) ∧
      (hb f 17 1 = 3 → exec (.commit m f) s = .next (relayInput (takeHead s m 0 f) (frMsgGroup f) m.val f))) ∧
    (∀ g st r u, chunkFits s m 2 g st r u → isChild (getGrp u g) m.val = true → st.phase = .up →
      exec (.up m r.frames) s = .next (settle (applyUp u g m.val st r) g)) ∧
    (∀ g st r u, chunkFits s m 3 g st r u → (getGrp u g).parent = some m.val → st.phase = .down →
      exec (.down m r.frames) s = .next (settle (applyDown u g m.val st r) g))

/-- Timers of the Relay (R500, R516, R517, R523, R526): FORM_WAIT fixes the candidates and, a second time, fails the attempt;
CREATE_WAIT ends a CREATE with TIMEOUT; STEP_WAIT at the root ends a step with counts outstanding; a lease that expires
starts a re-form. -/
def Obligations.RelayTimersComplete : Prop :=
  ∀ (s : State) (g : Fin 64) (x : RGroup),
    x = getGrp s g →
    (x.st = .reforming → x.candidates = none → exec (.formWait g) s = .next (settle (fixCandidates s g) g)) ∧
    (∀ set, x.st = .reforming → x.candidates = some set →
      exec (.formWait g) s = .next (settle (nextAttempt s g (x.epoch + 1)) g)) ∧
    (∀ t, x.st = .forming → x.creating = some t →
      exec (.createWait g) s = .next (setGrp (completeCmd s g t stTimeout 0x09) g {})) ∧
    (∀ st, x.st = .active → x.step = some st → st.phase = .count → x.parent = none →
      exec (.stepWait g) s = .next (settle (failEarly s g stTimeout 0x08) g)) ∧
    (∀ (m : Fin 8) st l, x.st = .active → x.step = some st → st.phase ≠ .count →
      x.links.find? (fun l => l.port = m.val) = some l →
      exec (.leaseExpiry g m) s = .next (settle (reformUp (bump s .relay 8 l.slots) g) g))

/-! ## Determinism -/

/-- Photo-finish, the start gun and link delays (R539, R540, R544 to R549, R553, R572): a request takes effect at a frame edge
unless the gun is ARMED; arming, READY, the fire instant, FIRE and the failures move the gun as the chapter says; a delay
exchange without a retransmission measures half the round trip. -/
def Obligations.GunCommandsComplete : Prop :=
  ∀ (s : State) (a : Access) (m : Fin 8) (f : Frame) (now : Nat) (u : State),
    u = takeHead s m 0 f →
    (∀ data, reaches s a .global .global = true → exec (.photoFinish a data) s =
      .next { putReg s .global 0x068 (bit01 (data.toNat.testBit 0)) with pfRequest := some (data.toNat.testBit 0) }) ∧
    (∀ v, s.pfRequest = some v → s.gun.st ≠ .armed → exec .photoFinishActivation s = .next (setPhotoFinish s v)) ∧
    (reaches s a .determinism .determinism = true →
      (∀ data : Word, data.toNat.testBit 0 = true → data.toNat.testBit 1 = false → exec (.gunArm a data) s =
        .next (setGunSt (modGun s (fun g => { g with ready := false, late := false, fireAt := none })) .armed)) ∧
      (∀ data : Word, data.toNat.testBit 1 = true → isMaster s = false → exec (.gunAbort a data) s = .next (setGunSt (modGun s
        (fun g => { g with ready := false, late := false, fireAt := none, readyFrom := 0 })) .idle))) ∧
    (s.gun.st = .armed →
      (s.gun.ready = false → coresReady s = true → isMaster s = false → exec (.gunReady now) s =
        .next (sendM (modGun s (fun g => { g with ready := true })) (detMsg s (gunMaster s) 1 0 0))) ∧
      (isMaster s = true → s.gun.fireAt = none → exec .gunArmWait s = .next (gunFail (sendAbort s) 1)) ∧
      (s.gun.fireAt = none → exec .gunNoFire s = .next (gunFail s 3)) ∧
      (∀ i, s.gun.fireAt = some i → i ≤ now → ∃ t, exec (.gunFire now) s = .next t ∧ t.gun.st = .fired ∧
        t.gun.fireFrame = BitVec.ofNat 64 (frameCount s) ∧ t.gun.fireAt = none)) ∧
    (frDst f = chipId s →
      (isDetMsg f 1 = true → exec (.ready m f now) s = .next (masterCheck (noteReady u (frSrc f)) now)) ∧
      (∀ d, isDetMsg f 2 = true → u.gun.st = .armed → (getPort s m).delay = some d → d ≤ detValue f →
        exec (.fire m f now) s = .next (modGun u (fun g => { g with fireAt := some (now + detValue f - d) }))) ∧
      (isDetMsg f 3 = true → exec (.gunAbortMessage m f) s = .next (gunFail u 2)) ∧
      (∀ t3, isDetMsg f 4 = true → exec (.delayReq m f now t3) s =
        .next (enqueue u m (detMsg u (frSrc f) 5 (t3 - now) 0))) ∧
      (∀ t1, isDetMsg f 5 = true → (getPort u m).delayT1 = some t1 → (getPort u m).lastRetx = false →
        exec (.delayResp m f now) s = .next (bump (modPort u m (fun p => { p with
          delayT1 := none, delay := some ((now - t1 - detValue f) / 2) })) .determinism 2))) ∧
    (isUp s m = true → exec (.delayMeasurement m now) s = .next (enqueue (modPort s m (fun p =>
      { p with delayT1 := some now, lastRetx := false })) m (detMsg s (getPort s m).peerChip.toNat 4 0 0)))

/-- Pacer (R556 to R563, R572): enabling checks the pair and waits for the gun; doorbells wait for their agreed frame; each
window's digest goes to the partner; a missing response, a different doorbell or a different digest stops every core; the
mode ends when ENABLE is cleared. -/
def Obligations.PacerCommandsComplete : Prop :=
  ∀ (s : State) (a : Access) (m : Fin 8) (f : Frame) (data : Word) (u : State),
    u = takeHead s m 0 f →
    (reaches s a .determinism .determinism = true →
      (∀ x, data.toNat.testBit 0 = true → s.pacer.enable = false →
        exec (.pacerEnable a data x) s = .next (pacerStart (pacerFields data s) x)) ∧
      (data.toNat.testBit 0 = false → s.pacer.enable = true →
        exec (.pacerDisable a data) s = .next (pacerEnd (pacerFields data s)))) ∧
    (s.pacer.st = .running →
      exec (.pacerResponseDelivery false) s = .next (stopPacer s 3) ∧
      exec (.pacerResponseDelivery true) s = .next s ∧
      (∀ trace d, d = BitVec.ofNat 64 (crc64Ecma 0 (trace.flatMap (fun x => leBytes 8 x.toNat))) →
        exec (.pacerWindowEnd trace) s = .next (compareWindow (sendPartner (modPacer s (fun p => { p with
          localDigests := p.localDigests ++ [(s.pacer.window.toNat, d)], window := p.window + 1 })) 6 d.toNat
            (s.pacer.window.toNat % 2 ^ 32)) s.pacer.window.toNat)) ∧
      (∀ (p : Fin 4) (r : Fin 16) b low, s.pacer.bells.find? (fun b => b.part = p.val && b.ring = r.val) = some b →
        b.partner = some (low, b.value) → max b.frame (partnerFrame b.frame low) ≤ frameCount s →
        exec (.pacedDoorbell p r) s = .next (bump (liveInput (modPacer s (fun x => { x with bells := x.bells.erase b }))
          (.doorbell b.part b.ring b.cq b.value)) .determinism 4)) ∧
      (∀ w d rest e, s.pacer.localDigests = (w, d) :: rest → w + 5 ≤ s.pacer.window.toNat →
        s.pacer.peerDigests.find? (fun x => x.1 = w % 2 ^ 32) = some (w % 2 ^ 32, e) →
        exec .pacerStop s = .next (stopPacer (modPacer s (fun p => { p with
          stopWindow := BitVec.ofNat 64 w, localDigest := d, peerDigest := e })) 1))) ∧
    (u.pacer.st = .running → frDst f = chipId s →
      (isDetMsg f 7 = true → u.pacer.bells = [] → exec (.pace m f) s = .next (modPacer u (fun x => { x with
        proposals := x.proposals ++ [(hb f 28 1, hb f 29 1, hb f 30 2, BitVec.ofNat 32 (detValue f))] }))) ∧
      (isDetMsg f 6 = true → u.pacer.localDigests = [] → exec (.digest m f) s = .next (modPacer u (fun p => { p with
        peerDigests := p.peerDigests ++ [(detArg f, BitVec.ofNat 64 (detValue f))] }))))

/-- The Split recorder (R566 to R570, R572, R614): recording writes its header, a replay takes its count from the header, a
stop closes the record, the count is rewritten, and a record is released when its input has arrived or diverges when it has
not. -/
def Obligations.RecorderCommandsComplete : Prop :=
  ∀ (s : State) (a : Access) (data : Word) (r : RecInput),
    r = recAt s s.recorder.count →
    (reaches s a .determinism .determinism = true →
      (bitsOf data.toNat 1 0 = regOf s .determinism 0x0C0 → data.toNat.testBit 5 = false → data.toNat.testBit 4 = true →
        recBusy s = false →
        (regOf s .determinism 0x0C0 = 1 → exec (.recordStart a data) s = .next (recordStart s)) ∧
        (regOf s .determinism 0x0C0 = 2 → exec (.replayStart a data) s = .next (replayStart s))) ∧
      (bitsOf data.toNat 1 0 = regOf s .determinism 0x0C0 → data.toNat.testBit 5 = true →
        exec (.recStop a data) s = .next (recStop s))) ∧
    (s.recorder.st = .recording → exec .recordCountRewrite s = .next (recCountWrite s)) ∧
    (s.recorder.st = .replaying →
      (∀ h, r.kind ≠ 4 → candidate s r = some h → (inputOf h).arg1 = r.arg1 → exec .replayRelease s = .next (consumeRec (deliver
        { s with recorder := { s.recorder with held := s.recorder.held.erase h } } h))) ∧
      (r.kind = 4 → exec .replayRelease s = .next (consumeRec (presentWake s r.arg0.toNat))) ∧
      (r.kind ≠ 4 → candidate s r = none → exec .replayInputTimeout s = .next (diverge s)))

/-! ## Host queues and host commands -/

/-- Rings (R589 to R593, R595 to R600, R616): doorbells reach the page; enabling a ring with its fields in range resets its
pointers, disabling stops its fetching; a fetched descriptor takes the lowest free tag; a finished context of a ring with room
writes its entry; the coalescing timer sends the ring's message. -/
def Obligations.RingCommandsComplete : Prop :=
  ∀ (s : State) (a : Access) (p : Fin 4) (r : Fin 16) (data : Word),
    (reaches s a (.queues p) (.queues p) = true →
      exec (.sqDb a p r data) s = .next (bellWrite s p r false data) ∧
      exec (.cqDb a p r data) s = .next (bellWrite s p r true data) ∧
      (data.toNat.testBit 0 = true → data.toNat &&& 0x13F0FF6 = ringCfg s p r → (getRing s p r).enable = false →
        (getRing s p r).fault = false → ringRunning s p r = false → ringCfgOk data.toNat = true →
        exec (.ringCfgEnable a p r data) s = .next (modRing s p r (fun k => { k with
          enable := true, sqHead := 0, sqTail := 0, cqHead := 0, cqTail := 0, phase := true, unreported := 0 }))) ∧
      (data.toNat.testBit 0 = false → data.toNat &&& 0x13F0FF6 = ringCfg s p r →
        exec (.ringCfgDisable a p r data) s = .next (modRing s p r (fun k => { k with enable := false })))) ∧
    (∀ q tag bytes, s.power.phase = .ready → s.repart = none → (getPage s (.queues p)).enable = true →
      quiesced (getPage s (.queues p)) = false → busMaster s p = true → nextRing s p = some q → freeTag s p = some tag →
      exec (.descriptorFetch p (.bytes bytes false)) s = .next (takeDescriptor s p q tag bytes)) ∧
    (∀ (tag : BitVec 12) x res slot, mget s.ctxs tag.toNat = some x → x.owner = .ring p r slot → x.result = some res →
      (getRing s p r).fault = false → busMaster s p = true → cqFree s p r = true →
      exec (.completionWrite tag) s = .next (writeEntry s tag.toNat x res p r slot)) ∧
    ((ringCfg s p r).testBit 24 = true → bitsOf (regOf s (.queues p) (ringReg r 0x14)) 19 8 ≠ 0 →
      (getRing s p r).unreported ≠ 0 → exec (.coalesceTimer p r) s = .next (ringMessage s p r))

/-- Host commands (R601 to R607): NOP, a COPY in either direction, LAUNCH of idle cores and REPARTITION each complete with OK
or start their work; a repartition in progress ends with its completion entry. -/
def Obligations.HostCommandsComplete : Prop :=
  ∀ (s : State) (tag : BitVec 12) (x : Ctx) (d : BitVec 512),
    (hostCtx s tag.toNat = some (x, d) →
      (hostOp d = 0 → unusedZero d [] = true → exec (.hostNop tag) s = .next (hostEnd s tag.toNat stOk 0 0)) ∧
      (hostOp d = 1 → copyShapeOk d = true → busMaster s x.part = true → copyDevice s x.part d = stOk →
        (∀ bytes p, copySpace d 8 = 0 → exec (.copy tag (.bytes bytes p)) s =
          .next (copyIn s tag.toNat x.part d stOk (.bytes bytes p))) ∧
        (∀ ans, copySpace d 8 ≠ 0 → exec (.copy tag ans) s = .next (copyOut s tag.toNat x.part d stOk))) ∧
      (∀ u, hostOp d = 2 → x.started = false → unusedZero d [(8, 9), (12, 13)] = true → fld d 111 96 < 0x4000 →
        fld d 79 64 < 2 ^ partCount s x.part →
        (∀ c ∈ launchCores s x.part d, shownSt (getCore s c) = .idle ∧ (getCore s c).resetPending = false ∧
          (getPage s (.core c 0)).enable = true) →
        u = launchAll (startCtx s tag.toNat) (launchCores s x.part d) (fld d 111 96) →
        launched u (launchCores s x.part d) = true → exec (.launch tag) s = .next (hostEnd u tag.toNat stOk 0 0)) ∧
      (hostOp d = 3 → s.repart = none → repartRefusal s x tag.toNat d = none → exec (.repartition tag) s =
        .next { startCtx s tag.toNat with repart := some (tag.toNat, fld d 71 64 = 1, d.toNat.testBit 72) })) ∧
    (∀ n day zero p r slot, s.repart = some (n, day, zero) → mget s.ctxs n = some x → x.owner = .ring p r slot →
      (getRing s p r).fault = false → busMaster s p = true → cqFree s p r = true →
      exec .repartitionComplete s = .next (endRepartition s n day zero x p r slot))

/-! ## Bittern, the panel and SMBus -/

/-- Samples and detectors (R665, R668 to R677, R680 to R684, R690, R692, R693, R695, R707): a sample of an enabled channel with
nothing out of range goes through its decimation chain and its filter and is counted; a full frame or block of valid samples runs the detectors; the
levels, the ring's blocks, the end of a post-fill and the faults of the inputs do what the chapter says. -/
def Obligations.BitternSamplesComplete : Prop :=
  ∀ (s : State),
    (∀ (c : Fin 4) inputs k v f u t, s.power.aux = true → chanEnabled s c = true → k = chainStep (getChan s c).chain inputs →
      v = modChan s c (fun ch => { ch with chain := k }) → f = formSample v c (chainOut (hpfEn s) k) → f.2.2 = 0 →
      bitReg s 0x068 ≠ 4 → bitReg s 0x068 ≠ 5 →
      u = bump (bump (bump (modChan v c (fun ch => { ch with
        n := ch.n + 1, hist := f.2.1, ovrLeft := ch.ovrLeft - 1, settleLeft := ch.settleLeft - 1,
        out := (if ch.n % 16 = 0 then [] else ch.out) ++ [f.1], past := (f.1.x :: ch.past).take 64,
        second := ch.second ++ f.1.x.toList })) .bittern 0) .bittern 3 (bit01 f.1.settling)) .bittern 4 (bit01 f.1.x.isNone) →
      t = (if bitReg s 0x068 = c.val then detect u f.1.x else u) →
      exec (.sample c inputs 0) s = .next (endInstant c t)) ∧
    (256 ≤ s.bittern.frame.length → (∀ x ∈ s.bittern.frame.take 256, x.isSome = true) →
      exec .bandFrame s = .next ((List.range 8).foldl (bandStep ((s.bittern.frame.take 256).map (·.getD 0)))
        (modBit s (fun b => { b with frame := b.frame.drop 256 })))) ∧
    (∀ u, u = endFrame s → 1024 ≤ u.bittern.block.length → (∀ x ∈ u.bittern.block.take 1024, x.isSome = true) →
      exec .toneBlock s = .next ((List.range 4).foldl (toneStep ((u.bittern.block.take 1024).map (·.getD 0)))
        (modBit u (fun b => { b with block := b.block.drop 1024 })))) ∧
    (s.power.aux = true → exec .levelUpdate s = .next (modBit s (fun b => { b with chans := b.chans.map levelOf }))) ∧
    exec .ringBlockWrite s = .next ((List.finRange 4).foldl ringStep s) ∧
    (s.bittern.ringState = .postfill →
      exec .postfillEnd s = .next (bitLevels (modBit s (fun b => { b with ringState := .frozen })))) ∧
    (∀ (i : Fin 2) (c : Fin 4), c.val = 2 + i.val → (bitReg s 0x044).testBit (4 + i.val) = true →
      exec (.biasFault i) s = .next (captureOpen1 (modChan (settleBoth (putReg s .bittern 0x044
        (bitReg s 0x044 - 2 ^ (4 + i.val)))) c (fun ch => { ch with biasFault := true })) .bittern stUnsupported 2 c.val)) ∧
    (pdmClockRuns s = true → s.bittern.pdmStuck = false →
      exec .pdmStuck s = .next (captureOpen1 (modBit s (fun b => { b with pdmStuck := true })) .bittern stTimeout 1
        (if chanEnabled s 0 then 0 else 1))) ∧
    exec .pdmTransitionsResume s = .next (modBit s (fun b => { b with pdmStuck := false }))

/-- Register commands of Bittern (R668, R688, R690, R696 to R701): each write or read that reaches the page takes its effect;
RING_DATA answers a frozen, readable ring at RING_ADDR, which moves on. -/
def Obligations.BitternCommandsComplete : Prop :=
  ∀ (s : State) (a : Access) (data : Word),
    (reaches s a .bittern .bittern = true →
      exec (.biasChange a data) s = .next (biasWrite data s) ∧
      (data.toNat.testBit 0 = true → data.toNat.testBit 1 = false → exec (.wakeAck a data) s =
        .next (levelIrq (modBit s (fun b => { b with wakePending := false, wakeCode := 0 })) .bittern 1 false)) ∧
      (data.toNat.testBit 0 = false → data.toNat.testBit 1 = true → exec (.testWake a data) s = .next (wake s 0x01)) ∧
      exec (.ovrClear a data) s =
        .next (bitLevels (modBit s (fun b => { b with ovr := b.ovr &&& ~~~(data.setWidth 4) }))) ∧
      (data.toNat.testBit 0 = true → exec (.ringEn a data) s = .next (ringCtrlWrite data s)) ∧
      (data.toNat.testBit 0 = false → exec (.ringEnClear a data) s = .next (ringCtrlWrite data s)) ∧
      (data.toNat.testBit 0 = true → exec (.ringRelease a data) s =
        .next (bump (clearRing s (if (bitReg s 0x098).testBit 0 then .recording else .off)) .bittern 6))) ∧
    (∀ (rq : Requester) i, readable s rq .bittern = some .bittern → s.bittern.ringState = .frozen → (bitReg s 0x098).testBit 31 = true →
      i = bitReg s 0x0A8 % 786432 → exec (.ringDataRead rq) s = .next (emit (.readData (BitVec.ofNat 64 (leNat
        ((List.range 4).map (fun j => ringByte s (i + j)))))) (putReg s .bittern 0x0A8 ((i + 4) % 786432))))

/-- The status panel (R724 to R732, R738, R739): a record that would change is committed to the other sector, a due draw
starts, each fall of BUSY moves it on until the copy is marked drawn, a failure ends it, and the text and record registers
act. -/
def Obligations.PanelCommandsComplete : Prop :=
  ∀ (s : State) (a : Access) (new : List Byte),
    (new = panelBytes s ((committedSeq s + 1) % 2 ^ 32) → mgmtRuns s = true → s.power.vitalFailed ≠ some .bootFlash →
      recordChanged s new = true → s.mgmt.erasing = false →
      exec .panelCommit s = .next (bump (modPanel (modMgmt s (fun m => if committedInA s then { m with sectorB := some ⟨new⟩ }
        else { m with sectorA := some ⟨new⟩ })) (fun p => { p with tempHold := false, drawDue := true })) .panel 0)) ∧
    (panelDraws s = true → s.mgmt.panel.drawDue = true → exec .panelDraw s = .next (beginDraw s)) ∧
    (∀ n, s.mgmt.panel.drawing = some n → n < 3 →
      exec .busyFall s = .next (modPanel s (fun p => { p with
        drawing := some (n + 1), shownLines := if n = 2 then p.drawLines else p.shownLines }))) ∧
    (s.mgmt.panel.drawing = some 3 → exec .busyFall s = .next (pulseIrq (bump (modPanel (modMgmt s (fun m => { m with
      sectorA := markDrawn m.panel.drawSeq m.sectorA, sectorB := markDrawn m.panel.drawSeq m.sectorB }))
        (fun p => { p with drawing := none, barDrawn := true, shownSeq := p.drawSeq })) .panel 1) .panel 1)) ∧
    (∀ n, s.mgmt.panel.drawing = some n → exec .panelFail s = .next (captureOpen (modPanel s (fun p => { p with
      drawing := none, failed := true })) .panel stFenced 1)) ∧
    (∀ c, panelDraws s = true → s.mgmt.panel.redrawPending = true → committed s = some c → leField c.bytes 252 1 = 0 →
      exec .panelRedraw s = .next (beginDraw (modPanel s (fun p => { p with redrawPending := false })))) ∧
    (∀ data : Word, reaches s a .panel .panel = true → data.toNat.testBit 0 = true → exec (.panelUpdate a data) s =
      .next (modPanel s (fun p => { p with
        userText := (List.range 8).flatMap (fun i => leBytes 4 (regOf s .panel (0x060 + 4 * i))) }))) ∧
    (∀ rq : Requester, readable s rq .panel = some .panel → exec (.recordDataRead rq) s = .next (emit (.readData (BitVec.ofNat 64
      (recordWord s))) (putReg s .panel 0x048 ((regOf s .panel 0x048 + 1) % 64))))

/-- SMBus (R716, R736, R737): with the management core running and no wrong PEC each read answers its bytes, a power limit
within its range is taken, and an unlisted code is not acknowledged.  The PEC's polynomial is the model's (entry 76). -/
def Obligations.SmbusCommandsComplete : Prop :=
  ∀ (s : State) (r : SmbusRead),
    mgmtRuns s = true →
    (r.wrongPec = false →
      exec (.getIdent r) s = .next (smbusAnswer s 0x01 r true (identBytes s)) ∧
      exec (.getState r) s = .next (smbusAnswer s 0x02 r false (leBytes 2 (stateWord s))) ∧
      exec (.getDieTemp r) s = .next (smbusAnswer s 0x03 r false (tempWord s s.mgmt.dieTemp)) ∧
      exec (.getHbmTemp r) s = .next (smbusAnswer s 0x04 r false (tempWord s s.mgmt.hbmTemp)) ∧
      exec (.getPower r) s = .next (smbusAnswer s 0x05 r false (leBytes 2 (if s.power.railsGood then cardPower s else 0))) ∧
      exec (.getReturnCode r) s = .next (smbusAnswer s 0x06 r true
        (leBytes 5 s.mgmt.returnCode.toNat ++ leBytes 5 s.mgmt.prevReturnCode.toNat)) ∧
      (∀ c, committed s = some c →
        exec (.getRecordLo r) s = .next (smbusAnswer s 0x08 r true (sliceB c.bytes 0 128)) ∧
        exec (.getRecordHi r) s = .next (smbusAnswer s 0x09 r true (sliceB c.bytes 128 128))) ∧
      exec (.getFaultSummary r) s = .next (smbusAnswer s 0x0A r true (faultSummary s))) ∧
    (∀ w : BitVec 16, (getPage s .panel).lock = false → 300 ≤ w.toNat → w.toNat ≤ s.power.maxPowerLimit →
      exec (.setPowerLimit w none) s = .next (putReg s .panel 0x088 w.toNat)) ∧
    (∀ code, smbusListed code = false → exec (.smbusUnknownCommand code false) s = .next (emit .smbusNack s))

/-! ## Rules of the specification -/

/-- R157: while PHOTO_FINISH_ACTIVE is 1 a V-marked instruction that reaches issue traps with FORBIDDEN_VARIABLE and has no
effect: the core's registers, scratchpad and queues, the other cores and every memory stand. -/
def Obligations.VariableInstructionsTrap : Prop :=
  ∀ (s : State) (c : Fin 16) (w : DWord) (i : Instr) (op : Nat),
    (i = .rdcyc c w ∧ op = 0x0B ∧ fnI w = 0) ∨ (i = .recvAny c w ∧ op = 0x7A ∧ fnX w = 0) ∨
    (i = .msgProbe c w ∧ op = 0x7B ∧ fnX w = 0) ∨ (i = .waitFirst c w ∧ op = 0x82 ∧ fnI w = 0) ∨
    (i = .test c w ∧ op = 0x83 ∧ fnI w = 0) ∨ (i = .cmatom c w ∧ op = 0x88 ∧ fnM w < 3 ∧ dtOk (dtM w) = true) →
    s.pfActive = true → (getCore s c).st = .running → withheld s = false → (getCore s c).waiting = none →
    (getCore s c).pc.toNat < 0x20000 → (getCore s c).pc.toNat % 8 = 0 → (getCore s c).pendingTrap = none →
    fOp w = op → regsOk w = true →
    ∃ t, exec i s = .next t ∧ getCore t c = trapped (getCore s c) w 0x05 0 0 ∧ keepsRest s t c

/-- R140: a scalar-kind instruction whose predicate does not hold has no effect: every register, the scratchpad, the other
cores and every memory keep their value, whatever instruction it is. -/
def Obligations.PredicatedOffHasNoEffect : Prop :=
  ∀ (s : State) (i : Instr) (c : Fin 16) (w : DWord),
    i.issued = some (c, w) → laneWise (fOp w) = false → predHolds (getCore s c) w = false →
    ∃ t, exec i s = .next t ∧ keepsRest s t c ∧ (getCore t c).sregs = (getCore s c).sregs ∧
      (getCore t c).vregs = (getCore s c).vregs ∧ (getCore t c).preds = (getCore s c).preds ∧
      (getCore t c).spad = (getCore s c).spad

/-- R119: a register write that does not enable all four bytes is dropped, counted in BAD_ACCESS, which saturates, and its
offset recorded in BAD_ACCESS_ADDR; of a page that answers. -/
def Obligations.PartialWritesAreDropped : Prop :=
  ∀ (s : State) (a : Access) (addr : BitVec 26) (data : Word) (pg p : PageId) (t : State),
    a.be ≠ 0xF → pageAt addr.toNat = some pg → resolve s a.fn pg = some p → t = badAccess s (addr.toNat / 4 * 4) →
    exec (.registerWrite a addr data) s = .next t ∧
      regOf t .global 0x070 = min (regOf s .global 0x070 + 1) 0xFFFFFFFF ∧
      (addr.toNat / 4 * 4 ≠ 0 → regOf t .global 0x074 = addr.toNat / 4 * 4) ∧
      t.cores = s.cores ∧ (∀ q off, q ≠ .global → regOf t q off = regOf s q off)

/-- R110: writing 1 to IRQ_STATUS bit 0 clears ERR_CODE, ERR_INFO0, ERR_INFO1 and STATUS.ERROR and re-arms capture: the
next failure is captured again. -/
def Obligations.ErrorAcknowledgeRearms : Prop :=
  ∀ (s : State) (a : Access) (pg p : PageId) (data : Word),
    reaches s a pg p = true → data.toNat.testBit 0 = true →
    ∃ t, exec (.irqStatusClear a pg data) s = .next t ∧
      (getPage t p).error = false ∧ (getPage t p).errCode = 0 ∧ (getPage t p).errInfo0 = 0 ∧ (getPage t p).errInfo1 = 0 ∧
      (∀ code detail i0 i1, isFailure code = true →
        (getPage (captureError t p code detail i0 i1) p).error = true ∧
        (getPage (captureError t p code detail i0 i1) p).errCode =
          BitVec.ofNat 32 (code.toNat + (detail % 65536) * 256))

/-- R721: at level L no core issues in a frame whose FRAME_COUNT mod 8 is below L, so none at level 8; each withheld frame of
a core that runs counts in THROTTLE_FRAMES; a stack at its limit of errors is fenced after that (R633). -/
def Obligations.ThrottleWithholdsIssue : Prop :=
  ∀ (s : State),
    (∀ i c w, i.issued = some (c, w) → frameCount s % 8 < s.mgmt.throttle → exec i s = .next s) ∧
    (∀ i c w, i.issued = some (c, w) → s.mgmt.throttle = 8 → exec i s = .next s) ∧
    (∀ c, s.pending = [] → s.power.released = true → coreRuns (getCore s c) = true →
      withheld (bump s .clock 0) = true → ctrOf s (.core c 0) 5 ≠ BitVec.allOnes 64 →
      ∃ u, step s = .next ((List.finRange 12).foldl ueFence u) ∧
        ctrOf u (.core c 0) 5 = ctrOf s (.core c 0) 5 + 1)

/-- R177: a triple has 4 credits: a SEND takes one and, with none left, waits at issue with nothing sent; RECV returns the
credit of the message it takes. -/
def Obligations.MessageCredits : Prop :=
  ∀ (s : State) (c d : Fin 16) (w : DWord),
    fnX w = 0 → peerCore s c (coreX w) = some d → spadCheck s c 64 (addrX (getCore s c) w) 64 = none →
    (mayIssue s c w 0x78 false = true → isFenced s d = false →
      (creditsUsed s c d (chanX w) < 4 → ∃ t, exec (.send c w) s = .next t ∧
        creditsUsed t c d (chanX w) = creditsUsed s c d (chanX w) + 1) ∧
      (4 ≤ creditsUsed s c d (chanX w) → ∃ t, exec (.send c w) s = .next t ∧ t.mesh = s.mesh ∧
        ∃ x, x.w = w ∧ getCore t c = { getCore s c with waiting := some x })) ∧
    (∀ m ms, mayIssue s c w 0x79 false = true → (getCore s c).msgs = m :: ms → m.src = d.val → m.dst = c.val →
      m.chan = chanX w → ∃ t, exec (.recv c w) s = .next t ∧
        creditsUsed t d c (chanX w) + 1 = creditsUsed s d c (chanX w))

/-! ## Frames -/

/-- The frame of the register instructions and the loads: whatever next state they reach, only their destination register
may change; the scratchpad, every other memory, the other cores and the registers of every page stand. -/
def Obligations.RegisterInstructionsFrame : Prop :=
  ∀ (s t : State) (c : Fin 16) (w : DWord) (i : Instr),
    (i ∈ [Instr.add c w, .sub c w, .mul c w, .logic c w, .shift c w, .addi c w, .select c w, .movi c w, .rdsr c w,
        .rdcyc c w, .vred c w, .ld c w] → exec i s = .next t →
      keepsRest s t c ∧ (getCore t c).spad = (getCore s c).spad ∧ (getCore t c).vregs = (getCore s c).vregs ∧
        (getCore t c).preds = (getCore s c).preds ∧
        (∀ r, r ≠ fRd w → getS (getCore t c) r = getS (getCore s c) r)) ∧
    (i ∈ [Instr.vadd c w, .vsub c w, .vmul c w, .vfma c w, .vminmax c w, .vunary c w, .vsel c w, .vcvt c w, .vbcast c w,
        .vperm c w, .vbits c w, .vidx c w, .vld c w, .vlds c w] → exec i s = .next t →
      keepsRest s t c ∧ (getCore t c).spad = (getCore s c).spad ∧ (getCore t c).sregs = (getCore s c).sregs ∧
        (getCore t c).preds = (getCore s c).preds ∧
        (∀ r, r ≠ fRd w → getV (getCore t c) r = getV (getCore s c) r)) ∧
    (i ∈ [Instr.cmp c w, .vcmp c w] → exec i s = .next t →
      keepsRest s t c ∧ (getCore t c).spad = (getCore s c).spad ∧ (getCore t c).sregs = (getCore s c).sregs ∧
        (getCore t c).vregs = (getCore s c).vregs ∧
        (∀ r, r ≠ fRd w → getP (getCore t c) r = getP (getCore s c) r)) ∧
    (i ∈ [Instr.br c w, .jr c w, .loop c w, .loopPop c w, .trap c w, .brk c w] → exec i s = .next t →
      keepsRest s t c ∧ (getCore t c).spad = (getCore s c).spad ∧ (getCore t c).sregs = (getCore s c).sregs ∧
        (getCore t c).vregs = (getCore s c).vregs ∧ (getCore t c).preds = (getCore s c).preds)

/-- The frame of the stores to the scratchpad, in canonical memories: whatever next state ST, VST and VSTS reach, every byte
outside those stored keeps its value, as do the registers, the other memories and the other cores.  The stored bytes lie at
RA + OFF, and at the address of each governed element. -/
def Obligations.StoresFrame : Prop :=
  ∀ (s t : State) (c : Fin 16) (w : DWord) (k : Core) (b : Nat) (js : List Nat),
    k = getCore s c → b = dtBytes (dtM w) → js = active (8 * b) (laneMask k w) → k.spad.wf = true →
    (exec (.st c w) s = .next t → ∀ a, (a < addrM k w ∨ addrM k w + b ≤ a) →
      (getCore t c).spad.byte a = k.spad.byte a) ∧
    (exec (.vst c w) s = .next t → ∀ a, (∀ j ∈ js, a < unitAddr k w j ∨ unitAddr k w j + b ≤ a) →
      (getCore t c).spad.byte a = k.spad.byte a) ∧
    (exec (.vsts c w) s = .next t → ∀ a, (∀ j ∈ js, a < strideAddr k w j ∨ strideAddr k w j + b ≤ a) →
      (getCore t c).spad.byte a = k.spad.byte a) ∧
    (∀ i, i ∈ [Instr.st c w, .vst c w, .vsts c w] → exec i s = .next t →
      keepsRest s t c ∧ (getCore t c).sregs = k.sregs ∧ (getCore t c).vregs = k.vregs ∧ (getCore t c).preds = k.preds)

/-! ## The machine as a whole -/

/-- State.reset is the device right after standby power-up (R608 to R610): standby power alone, PERST# asserted, the device
held, no page enabled, ready or locked and no interrupt, error or counter set, no command waiting, no core running, no flight
context, group, window, key or queue bound, nothing in any memory, the ring OFF.  That PERST# is asserted, and the values of
core registers, which the specification does not give, are the model's (entries 2 and 4). -/
def Obligations.ResetState : Prop :=
  State.reset.power.aux = true ∧ State.reset.power.main12v = false ∧ State.reset.power.railsGood = false ∧
    State.reset.power.perst = true ∧ State.reset.power.phase = .held ∧
    (∀ pg, getPage State.reset pg = {}) ∧ (∀ c, getCore State.reset c = {}) ∧ State.reset.pending = [] ∧
    State.reset.ctxs = [] ∧ State.reset.relay = [] ∧ State.reset.stork.windows = [] ∧ State.reset.stork.queues = [] ∧
    State.reset.stork.keys = [] ∧ State.reset.hbm = {} ∧ State.reset.cm = {} ∧ State.reset.dir = [] ∧
    State.reset.bittern.ringState = .off ∧ State.reset.bittern.ring = [] ∧ State.reset.pfActive = false ∧
    State.reset.gun.st = .idle ∧ State.reset.pacer.st = .off ∧ State.reset.recorder.st = .idle

/-- A step takes the command at the front of the queue and runs it on the state with the rest of the queue.  The queue of
commands is the model's (entry 1). -/
def Obligations.StepRunsTheFront : Prop :=
  ∀ (s : State) (i : Instr) (rest : List Instr),
    step { s with pending := i :: rest } = exec i { s with pending := rest }

/-- On an empty queue one alignment frame passes: once the dividers are released FRAME_COUNT advances by one, a core that
runs counts 6 cycles, every core keeps its registers, and only then a stack at its limit of errors is fenced; before the
release only a rail that is coming up may fail, which is logged as a main power fault.  That an empty queue lets a frame pass,
and that a frame may upset a bit of memory or a rail, are the model's choices (entries 1, 105 and 109). -/
def Obligations.IdleStepPassesAFrame : Prop :=
  ∀ (s : State), s.pending = [] →
    (s.power.released = false → railsDue s.power = false → step s = .next s) ∧
    (s.power.released = false → railsDue s.power = true → step s = .next (drawFree s).2 ∨
      step s = .next (logOpen (modPower (drawFree s).2 (fun p => { p with railFailed := true })) 0x0C 5 0 0 0 2)) ∧
    (s.power.released = true → ∃ u, step s = .next ((List.finRange 12).foldl ueFence u) ∧
      ((∀ k, ueLimit s k = false) → step s = .next u) ∧ u.power = s.power ∧ u.mgmt = s.mgmt ∧ u.ctxs = s.ctxs ∧
      (∀ c, (getCore u c).sregs = (getCore s c).sregs ∧ (getCore u c).vregs = (getCore s c).vregs ∧
        (getCore u c).preds = (getCore s c).preds ∧ (getCore u c).pc = (getCore s c).pc ∧
        (getCore u c).st = (getCore s c).st ∧
        (getCore u c).cycles = (if coreRuns (getCore s c) then (getCore s c).cycles + 6 else (getCore s c).cycles)) ∧
      (ctrOf s .clock 0 ≠ BitVec.allOnes 64 → ctrOf u .clock 0 = ctrOf s .clock 0 + 1))

/-- No command touches the queue: whatever next state a command reaches, the commands that wait stay as they are.
The queue is the model's (entry 1). -/
def Obligations.CommandsLeaveTheQueue : Prop :=
  ∀ (i : Instr) (s t : State), exec i s = .next t → t.pending = s.pending

/-- Every step keeps the power state legal (R82 to R84, R583, R608, R714, R715, R718, R719, R722): no command, in any order,
leaves a device on without its rails or with PERST# asserted, ready without its dividers released, its rails good without
12 V, or a power cap outside the SENSE table. -/
def Obligations.PowerStaysLegal : Prop :=
  ∀ (s t : State), powerLegal s.power = true → step s = .next t → powerLegal t.power = true

/-- Every step keeps the memories, the directory and the register and counter maps of every page in canonical form: keys
strictly rising, and no listed byte equal to what an unlisted one reads as. -/
def Obligations.StoresStayCanonical : Prop :=
  ∀ (s t : State), storesCanonical s = true → step s = .next t → storesCanonical t = true

/-- The state after reset meets both invariants. -/
def Obligations.ResetMeetsTheInvariants : Prop :=
  powerLegal State.reset.power = true ∧ storesCanonical State.reset = true
end

