-- ==== Sys2Proof/Laws/Memory.lean ====
section
/-! SUPPORT. Sparse maps and byte memories: the canonical form and what every operation on them keeps and changes. -/

namespace Sys2Proof.Machine

open Sys2Proof

variable {α : Type}

/-! ## Rising keys -/

theorem mwf_iff (m : SMap α) : mwf m = true ↔ m.Pairwise (fun a b => a.1 < b.1) := by
  induction m with
  | nil => simp [mwf]
  | cons a t ih =>
    cases t with
    | nil => simp [mwf]
    | cons b l =>
      rw [mwf, Bool.and_eq_true, ih, decide_eq_true_eq]
      refine ⟨fun h => List.pairwise_cons.2 ⟨fun c hc => ?_, h.2⟩, fun h =>
        ⟨(List.pairwise_cons.1 h).1 b (by simp), (List.pairwise_cons.1 h).2⟩⟩
      rcases List.mem_cons.1 hc with rfl | hc
      · exact h.1
      · exact Nat.lt_trans h.1 ((List.pairwise_cons.1 h.2).1 c hc)

theorem nwf_iff (l : List Nat) : nwf l = true ↔ l.Pairwise (· < ·) := by
  induction l with
  | nil => simp [nwf]
  | cons a t ih =>
    cases t with
    | nil => simp [nwf]
    | cons b l =>
      rw [nwf, Bool.and_eq_true, ih, decide_eq_true_eq]
      refine ⟨fun h => List.pairwise_cons.2 ⟨fun c hc => ?_, h.2⟩, fun h =>
        ⟨(List.pairwise_cons.1 h).1 b (by simp), (List.pairwise_cons.1 h).2⟩⟩
      rcases List.mem_cons.1 hc with rfl | hc
      · exact h.1
      · exact Nat.lt_trans h.1 ((List.pairwise_cons.1 h.2).1 c hc)

theorem mem_mput {m : SMap α} {i : Nat} {x : α} {y : Nat × α} (h : y ∈ mput m i x) : y = (i, x) ∨ y ∈ m := by
  induction m with
  | nil => simpa [mput] using h
  | cons a t ih =>
    simp only [mput] at h
    split at h
    · rcases List.mem_cons.1 h with h | h
      · exact .inl h
      · exact .inr (List.mem_cons_of_mem _ h)
    · split at h
      · rcases List.mem_cons.1 h with h | h
        · exact .inl h
        · exact .inr h
      · rcases List.mem_cons.1 h with h | h
        · exact .inr (by simp [h])
        · rcases ih h with h | h
          · exact .inl h
          · exact .inr (List.mem_cons_of_mem _ h)

theorem mem_mdel {m : SMap α} {i : Nat} {y : Nat × α} (h : y ∈ mdel m i) : y ∈ m := by
  induction m with
  | nil => simp [mdel] at h
  | cons a t ih =>
    simp only [mdel] at h
    split at h
    · exact List.mem_cons_of_mem _ h
    · split at h
      · exact h
      · rcases List.mem_cons.1 h with h | h
        · simp [h]
        · exact List.mem_cons_of_mem _ (ih h)

theorem mwf_mput {m : SMap α} (i : Nat) (x : α) (h : mwf m = true) : mwf (mput m i x) = true := by
  rw [mwf_iff] at *
  induction m with
  | nil => simp [mput]
  | cons a t ih =>
    have ht := List.pairwise_cons.1 h
    simp only [mput]
    split
    · subst i; exact List.pairwise_cons.2 ⟨ht.1, ht.2⟩
    · split
      · refine List.pairwise_cons.2 ⟨?_, h⟩
        intro y hy
        rcases List.mem_cons.1 hy with rfl | hy
        · assumption
        · exact Nat.lt_trans (by assumption) (ht.1 y hy)
      · refine List.pairwise_cons.2 ⟨?_, ih ht.2⟩
        intro y hy
        rcases mem_mput hy with rfl | hy
        · show a.1 < i; omega
        · exact ht.1 y hy

theorem mwf_mdel {m : SMap α} (i : Nat) (h : mwf m = true) : mwf (mdel m i) = true := by
  rw [mwf_iff] at *
  induction m with
  | nil => simp [mdel]
  | cons a t ih =>
    have ht := List.pairwise_cons.1 h
    simp only [mdel]
    split
    · exact ht.2
    · split
      · exact h
      · exact List.pairwise_cons.2 ⟨fun y hy => ht.1 y (mem_mdel hy), ih ht.2⟩

@[simp] theorem mwf_mputD [DecidableEq α] {m : SMap α} (d : α) (i : Nat) (x : α) (h : mwf m = true) :
    mwf (mputD m d i x) = true := by
  unfold mputD; split
  · exact mwf_mdel i h
  · exact mwf_mput i x h

@[simp] theorem mwf_mmodD [DecidableEq α] {m : SMap α} (d : α) (i : Nat) (f : α → α) (h : mwf m = true) :
    mwf (mmodD m d i f) = true := mwf_mputD d i _ h

@[simp] theorem mwf_filter {m : SMap α} (p : Nat × α → Bool) (h : mwf m = true) : mwf (m.filter p) = true := by
  rw [mwf_iff] at *; exact h.filter p

@[simp] theorem mwf_nil : mwf ([] : SMap α) = true := rfl

/-! ## Look-up -/

/-- What a key reads as after another key or the same one has been set, in any list. -/
theorem mget_mput_self (m : SMap α) (i : Nat) (x : α) : mget (mput m i x) i = some x := by
  induction m with
  | nil => simp [mput, mget]
  | cons a t ih =>
    simp only [mput]
    split
    · simp [mget]
    · split
      · simp [mget]
      · simp only [mget]
        rw [if_neg (by assumption), if_neg (by assumption)]; exact ih

theorem mget_of_lt {m : SMap α} {j : Nat} (h : ∀ y ∈ m, j < y.1) : mget m j = none := by
  cases m with
  | nil => rfl
  | cons a t =>
    have := h a (by simp)
    simp only [mget]; rw [if_neg (by omega), if_pos this]

theorem mget_mput_of_ne {m : SMap α} {i j : Nat} (x : α) (hij : j ≠ i) (h : mwf m = true) :
    mget (mput m i x) j = mget m j := by
  rw [mwf_iff] at h
  induction m with
  | nil =>
    simp only [mput, mget]
    rw [if_neg hij]; split <;> rfl
  | cons a t ih =>
    have ht := List.pairwise_cons.1 h
    simp only [mput]
    split
    · subst i; simp only [mget]; rw [if_neg hij]; rw [if_neg hij]
    · split
      · simp only [mget]
        rw [if_neg hij]
        split
        · rw [if_neg (by omega), if_pos (by omega)]
        · rfl
      · simp only [mget]; split
        · rfl
        · split
          · rfl
          · exact ih ht.2

theorem mget_mdel_self {m : SMap α} (i : Nat) (h : mwf m = true) : mget (mdel m i) i = none := by
  rw [mwf_iff] at h
  induction m with
  | nil => rfl
  | cons a t ih =>
    have ht := List.pairwise_cons.1 h
    simp only [mdel]
    split
    · subst i; exact mget_of_lt ht.1
    · split
      · simp only [mget]; rw [if_neg (by assumption), if_pos (by assumption)]
      · simp only [mget]; rw [if_neg (by assumption), if_neg (by assumption)]; exact ih ht.2

theorem mget_mdel_of_ne {m : SMap α} {i j : Nat} (hij : j ≠ i) (h : mwf m = true) :
    mget (mdel m i) j = mget m j := by
  rw [mwf_iff] at h
  induction m with
  | nil => rfl
  | cons a t ih =>
    have ht := List.pairwise_cons.1 h
    simp only [mdel]
    split
    · subst i
      simp only [mget]; rw [if_neg hij]
      split
      · exact mget_of_lt (fun y hy => Nat.lt_trans (by assumption) (ht.1 y hy))
      · rfl
    · split
      · rfl
      · simp only [mget]; split
        · rfl
        · split
          · rfl
          · exact ih ht.2

theorem mgetD_mputD_self [DecidableEq α] {m : SMap α} (d : α) (i : Nat) (x : α) (h : mwf m = true) :
    mgetD (mputD m d i x) d i = x := by
  unfold mputD mgetD; split
  · rw [mget_mdel_self i h]; simp_all
  · rw [mget_mput_self]; rfl

theorem mgetD_mputD_of_ne [DecidableEq α] {m : SMap α} (d : α) {i j : Nat} (x : α) (hij : j ≠ i) (h : mwf m = true) :
    mgetD (mputD m d i x) d j = mgetD m d j := by
  unfold mputD mgetD; split
  · rw [mget_mdel_of_ne hij h]
  · rw [mget_mput_of_ne x hij h]

/-! ## Marks -/

theorem mem_nInsert {l : List Nat} {i y : Nat} (h : y ∈ nInsert l i) : y = i ∨ y ∈ l := by
  induction l with
  | nil => simpa [nInsert] using h
  | cons a t ih =>
    simp only [nInsert] at h
    split at h
    · exact .inr h
    · split at h
      · simpa using h
      · rcases List.mem_cons.1 h with h | h
        · exact .inr (by simp [h])
        · rcases ih h with h | h
          · exact .inl h
          · exact .inr (List.mem_cons_of_mem _ h)

theorem mem_nErase {l : List Nat} {i y : Nat} (h : y ∈ nErase l i) : y ∈ l := by
  induction l with
  | nil => simp [nErase] at h
  | cons a t ih =>
    simp only [nErase] at h
    split at h
    · exact List.mem_cons_of_mem _ h
    · split at h
      · exact h
      · rcases List.mem_cons.1 h with h | h
        · simp [h]
        · exact List.mem_cons_of_mem _ (ih h)

theorem nwf_nInsert {l : List Nat} (i : Nat) (h : nwf l = true) : nwf (nInsert l i) = true := by
  rw [nwf_iff] at *
  induction l with
  | nil => simp [nInsert]
  | cons a t ih =>
    have ht := List.pairwise_cons.1 h
    simp only [nInsert]
    split
    · exact h
    · split
      · refine List.pairwise_cons.2 ⟨?_, h⟩
        intro y hy
        rcases List.mem_cons.1 hy with rfl | hy
        · assumption
        · exact Nat.lt_trans (by assumption) (ht.1 y hy)
      · refine List.pairwise_cons.2 ⟨?_, ih ht.2⟩
        intro y hy
        rcases mem_nInsert hy with rfl | hy
        · omega
        · exact ht.1 y hy

theorem nwf_nErase {l : List Nat} (i : Nat) (h : nwf l = true) : nwf (nErase l i) = true := by
  rw [nwf_iff] at *
  induction l with
  | nil => simp [nErase]
  | cons a t ih =>
    have ht := List.pairwise_cons.1 h
    simp only [nErase]
    split
    · exact ht.2
    · split
      · exact h
      · exact List.pairwise_cons.2 ⟨fun y hy => ht.1 y (mem_nErase hy), ih ht.2⟩

theorem nwf_filter {l : List Nat} (p : Nat → Bool) (h : nwf l = true) : nwf (l.filter p) = true := by
  rw [nwf_iff] at *; exact h.filter p

/-! ## Memories -/

theorem Memory.wf_iff (m : Memory) :
    m.wf = true ↔ mwf m.cells = true ∧ (∀ c ∈ m.cells, c.2 ≠ Memory.empty) ∧ nwf m.marks = true := by
  simp [Memory.wf, Bool.and_eq_true, and_assoc]

@[simp] theorem Memory.wf_empty : ({} : Memory).wf = true := rfl

@[simp] theorem Memory.wf_setByte {m : Memory} (a : Nat) (b : Byte) (h : m.wf = true) : (m.setByte a b).wf = true := by
  rw [Memory.wf_iff] at *
  refine ⟨mwf_mputD _ _ _ h.1, ?_, h.2.2⟩
  intro c hc
  simp only [Memory.setByte, mputD] at hc
  split at hc
  · exact h.2.1 c (mem_mdel hc)
  · rcases mem_mput hc with rfl | hc
    · assumption
    · exact h.2.1 c hc

@[simp] theorem Memory.wf_write {m : Memory} (a : Nat) (bs : List Byte) (h : m.wf = true) : (m.write a bs).wf = true := by
  induction bs generalizing m a with
  | nil => exact h
  | cons b t ih => exact ih _ (Memory.wf_setByte a b h)

@[simp] theorem Memory.wf_writeLE {m : Memory} (a n v : Nat) (h : m.wf = true) : (m.writeLE a n v).wf = true :=
  Memory.wf_write a _ h

@[simp] theorem Memory.wf_setMark {m : Memory} (g : Nat) (b : Bool) (h : m.wf = true) : (m.setMark g b).wf = true := by
  rw [Memory.wf_iff] at *
  refine ⟨h.1, h.2.1, ?_⟩
  simp only [Memory.setMark]; split
  · exact nwf_nInsert g h.2.2
  · exact nwf_nErase g h.2.2

/-- A fold keeps what each of its steps keeps. -/
theorem foldl_keeps {β γ : Type} {P : β → Prop} {f : β → γ → β} {l : List γ} {b : β} (h : P b)
    (hf : ∀ b x, P b → P (f b x)) : P (l.foldl f b) := by
  induction l generalizing b with
  | nil => exact h
  | cons a t ih => exact ih (hf b a h)

@[simp] theorem Memory.wf_store {m : Memory} (sz a : Nat) (bs : List Byte) (p : Bool) (h : m.wf = true) :
    (m.store sz a bs p).wf = true := by
  unfold Memory.store
  dsimp only
  split
  · exact h
  · refine foldl_keeps (P := fun (m : Memory) => m.wf = true) (Memory.wf_write a bs h) (fun m i hm => ?_)
    split
    · exact Memory.wf_setMark _ _ hm
    · split
      · exact Memory.wf_setMark _ _ hm
      · exact hm

@[simp] theorem Memory.wf_storeP {m : Memory} (sz a : Nat) (bs : List PByte) (h : m.wf = true) :
    (m.storeP sz a bs).wf = true :=
  foldl_keeps (P := fun (m : Memory) => m.wf = true) h (fun _ _ hm => Memory.wf_store _ _ _ _ hm)

@[simp] theorem wf_scatterV {m : Memory} (n : Nat) (mask : DWord) (v : BitVec 2048) (addr : Nat → Nat) (h : m.wf = true) :
    (scatterV m n mask v addr).wf = true := by
  have h1 := foldl_keeps (P := fun (m : Memory) => m.wf = true) (l := active (8 * n) mask)
    (f := fun (m : Memory) (j : Nat) => m.writeLE (addr j) n (elem (8 * n) v j)) h (fun _ _ hm => Memory.wf_writeLE _ _ _ hm)
  rw [Memory.wf_iff] at h1 ⊢
  exact ⟨h1.1, h1.2.1, nwf_filter _ h1.2.2⟩

/-! ## Bytes -/

theorem Memory.byte_setByte_self {m : Memory} (a : Nat) (b : Byte) (h : m.wf = true) : (m.setByte a b).byte a = b :=
  mgetD_mputD_self _ _ _ ((Memory.wf_iff m).1 h).1

theorem Memory.byte_setByte_of_ne {m : Memory} {a j : Nat} (b : Byte) (hj : j ≠ a) (h : m.wf = true) :
    (m.setByte a b).byte j = m.byte j := mgetD_mputD_of_ne _ _ hj ((Memory.wf_iff m).1 h).1

@[simp] theorem Memory.byte_setMark (m : Memory) (g : Nat) (b : Bool) (j : Nat) : (m.setMark g b).byte j = m.byte j := rfl

/-- A write leaves every byte outside it alone. -/
theorem Memory.byte_write_outside {m : Memory} {a j : Nat} {bs : List Byte} (hj : j < a ∨ a + bs.length ≤ j)
    (h : m.wf = true) : (m.write a bs).byte j = m.byte j := by
  induction bs generalizing m a with
  | nil => rfl
  | cons b t ih =>
    simp only [List.length_cons] at hj
    rw [Memory.write, ih (by omega) (Memory.wf_setByte a b h), Memory.byte_setByte_of_ne b (by omega) h]

/-- A write gives each of its bytes. -/
theorem Memory.byte_write_inside {m : Memory} {a i : Nat} {bs : List Byte} (hi : i < bs.length) (h : m.wf = true) :
    (m.write a bs).byte (a + i) = bs[i] := by
  induction bs generalizing m a i with
  | nil => simp at hi
  | cons b t ih =>
    cases i with
    | zero =>
      rw [Memory.write, Memory.byte_write_outside (by omega) (Memory.wf_setByte a b h)]
      exact Memory.byte_setByte_self a b h
    | succ i =>
      rw [Memory.write, show a + (i + 1) = a + 1 + i by omega, ih (by simpa using hi) (Memory.wf_setByte a b h)]
      rfl

/-- The marks settled by a store change no byte. -/
theorem Memory.byte_store (m : Memory) (sz a : Nat) (bs : List Byte) (p : Bool) (j : Nat) :
    (m.store sz a bs p).byte j = (m.write a bs).byte j := by
  unfold Memory.store
  dsimp only
  split
  · next h => rw [List.length_eq_zero_iff.1 h]; rfl
  · refine foldl_keeps (P := fun (x : Memory) => x.byte j = (m.write a bs).byte j) rfl (fun x i hx => ?_)
    split
    · exact hx
    · split
      · exact hx
      · exact hx

theorem leBytes_length (n v : Nat) : (leBytes n v).length = n := by
  induction n generalizing v with
  | zero => rfl
  | succ n ih => simp [leBytes, ih]

/-- A vector store leaves every byte outside its governed elements alone. -/
theorem byte_scatterV_outside {m : Memory} {n : Nat} {mask : DWord} {v : BitVec 2048} {addr : Nat → Nat} {a : Nat}
    (ha : ∀ j ∈ active (8 * n) mask, a < addr j ∨ addr j + n ≤ a) (h : m.wf = true) :
    (scatterV m n mask v addr).byte a = m.byte a := by
  show (((active (8 * n) mask).foldl (fun (m : Memory) j => m.writeLE (addr j) n (elem (8 * n) v j)) m)).byte a = m.byte a
  generalize active (8 * n) mask = l at ha
  induction l generalizing m with
  | nil => rfl
  | cons j t ih =>
    rw [List.foldl_cons, ih (Memory.wf_writeLE _ _ _ h) (fun k hk => ha k (List.mem_cons_of_mem _ hk))]
    exact Memory.byte_write_outside (by rw [leBytes_length]; exact ha j (by simp)) h

end Sys2Proof.Machine
end

