-- ==== Sys2Proof/Laws/State.lean ====
section
/-! SUPPORT. One lemma per field of the state and per update of it: what the update makes of the field. -/

namespace Sys2Proof.Machine

open Sys2Proof

/-! ## emit -/

@[simp] theorem emit_pending (o : Output) (s : State) : (emit o s).pending = s.pending := rfl
@[simp] theorem emit_power (o : Output) (s : State) : (emit o s).power = s.power := rfl
@[simp] theorem emit_units (o : Output) (s : State) : (emit o s).units = s.units := rfl
@[simp] theorem emit_pages (o : Output) (s : State) : (emit o s).pages = s.pages := rfl
@[simp] theorem emit_fns (o : Output) (s : State) : (emit o s).fns = s.fns := rfl
@[simp] theorem emit_mode (o : Output) (s : State) : (emit o s).mode = s.mode := rfl
@[simp] theorem emit_pfRequest (o : Output) (s : State) : (emit o s).pfRequest = s.pfRequest := rfl
@[simp] theorem emit_pfActive (o : Output) (s : State) : (emit o s).pfActive = s.pfActive := rfl
@[simp] theorem emit_cores (o : Output) (s : State) : (emit o s).cores = s.cores := rfl
@[simp] theorem emit_mesh (o : Output) (s : State) : (emit o s).mesh = s.mesh := rfl
@[simp] theorem emit_chains (o : Output) (s : State) : (emit o s).chains = s.chains := rfl
@[simp] theorem emit_chainAdds (o : Output) (s : State) : (emit o s).chainAdds = s.chainAdds := rfl
@[simp] theorem emit_ctxs (o : Output) (s : State) : (emit o s).ctxs = s.ctxs := rfl
@[simp] theorem emit_rings (o : Output) (s : State) : (emit o s).rings = s.rings := rfl
@[simp] theorem emit_rrNext (o : Output) (s : State) : (emit o s).rrNext = s.rrNext := rfl
@[simp] theorem emit_drain (o : Output) (s : State) : (emit o s).drain = s.drain := rfl
@[simp] theorem emit_queuedReset (o : Output) (s : State) : (emit o s).queuedReset = s.queuedReset := rfl
@[simp] theorem emit_repart (o : Output) (s : State) : (emit o s).repart = s.repart := rfl
@[simp] theorem emit_hbm (o : Output) (s : State) : (emit o s).hbm = s.hbm := rfl
@[simp] theorem emit_hbmFlaws (o : Output) (s : State) : (emit o s).hbmFlaws = s.hbmFlaws := rfl
@[simp] theorem emit_cmFlaws (o : Output) (s : State) : (emit o s).cmFlaws = s.cmFlaws := rfl
@[simp] theorem emit_cm (o : Output) (s : State) : (emit o s).cm = s.cm := rfl
@[simp] theorem emit_dir (o : Output) (s : State) : (emit o s).dir = s.dir := rfl
@[simp] theorem emit_fencedAgents (o : Output) (s : State) : (emit o s).fencedAgents = s.fencedAgents := rfl
@[simp] theorem emit_ports (o : Output) (s : State) : (emit o s).ports = s.ports := rfl
@[simp] theorem emit_stork (o : Output) (s : State) : (emit o s).stork = s.stork := rfl
@[simp] theorem emit_relay (o : Output) (s : State) : (emit o s).relay = s.relay := rfl
@[simp] theorem emit_gun (o : Output) (s : State) : (emit o s).gun = s.gun := rfl
@[simp] theorem emit_pacer (o : Output) (s : State) : (emit o s).pacer = s.pacer := rfl
@[simp] theorem emit_recorder (o : Output) (s : State) : (emit o s).recorder = s.recorder := rfl
@[simp] theorem emit_mgmt (o : Output) (s : State) : (emit o s).mgmt = s.mgmt := rfl
@[simp] theorem emit_mailbox (o : Output) (s : State) : (emit o s).mailbox = s.mailbox := rfl
@[simp] theorem emit_bittern (o : Output) (s : State) : (emit o s).bittern = s.bittern := rfl
@[simp] theorem emit_out (o : Output) (s : State) : (emit o s).out = s.out ++ [o] := rfl
@[simp] theorem emit_edges (o : Output) (s : State) : (emit o s).edges = s.edges := rfl
@[simp] theorem emit_granted (o : Output) (s : State) : (emit o s).granted = s.granted := rfl
@[simp] theorem emit_freeIdx (o : Output) (s : State) : (emit o s).freeIdx = s.freeIdx := rfl

/-! ## drawFree -/

@[simp] theorem drawFree_pending (s : State) : (drawFree s).2.pending = s.pending := rfl
@[simp] theorem drawFree_power (s : State) : (drawFree s).2.power = s.power := rfl
@[simp] theorem drawFree_units (s : State) : (drawFree s).2.units = s.units := rfl
@[simp] theorem drawFree_pages (s : State) : (drawFree s).2.pages = s.pages := rfl
@[simp] theorem drawFree_fns (s : State) : (drawFree s).2.fns = s.fns := rfl
@[simp] theorem drawFree_mode (s : State) : (drawFree s).2.mode = s.mode := rfl
@[simp] theorem drawFree_pfRequest (s : State) : (drawFree s).2.pfRequest = s.pfRequest := rfl
@[simp] theorem drawFree_pfActive (s : State) : (drawFree s).2.pfActive = s.pfActive := rfl
@[simp] theorem drawFree_cores (s : State) : (drawFree s).2.cores = s.cores := rfl
@[simp] theorem drawFree_mesh (s : State) : (drawFree s).2.mesh = s.mesh := rfl
@[simp] theorem drawFree_chains (s : State) : (drawFree s).2.chains = s.chains := rfl
@[simp] theorem drawFree_chainAdds (s : State) : (drawFree s).2.chainAdds = s.chainAdds := rfl
@[simp] theorem drawFree_ctxs (s : State) : (drawFree s).2.ctxs = s.ctxs := rfl
@[simp] theorem drawFree_rings (s : State) : (drawFree s).2.rings = s.rings := rfl
@[simp] theorem drawFree_rrNext (s : State) : (drawFree s).2.rrNext = s.rrNext := rfl
@[simp] theorem drawFree_drain (s : State) : (drawFree s).2.drain = s.drain := rfl
@[simp] theorem drawFree_queuedReset (s : State) : (drawFree s).2.queuedReset = s.queuedReset := rfl
@[simp] theorem drawFree_repart (s : State) : (drawFree s).2.repart = s.repart := rfl
@[simp] theorem drawFree_hbm (s : State) : (drawFree s).2.hbm = s.hbm := rfl
@[simp] theorem drawFree_hbmFlaws (s : State) : (drawFree s).2.hbmFlaws = s.hbmFlaws := rfl
@[simp] theorem drawFree_cmFlaws (s : State) : (drawFree s).2.cmFlaws = s.cmFlaws := rfl
@[simp] theorem drawFree_cm (s : State) : (drawFree s).2.cm = s.cm := rfl
@[simp] theorem drawFree_dir (s : State) : (drawFree s).2.dir = s.dir := rfl
@[simp] theorem drawFree_fencedAgents (s : State) : (drawFree s).2.fencedAgents = s.fencedAgents := rfl
@[simp] theorem drawFree_ports (s : State) : (drawFree s).2.ports = s.ports := rfl
@[simp] theorem drawFree_stork (s : State) : (drawFree s).2.stork = s.stork := rfl
@[simp] theorem drawFree_relay (s : State) : (drawFree s).2.relay = s.relay := rfl
@[simp] theorem drawFree_gun (s : State) : (drawFree s).2.gun = s.gun := rfl
@[simp] theorem drawFree_pacer (s : State) : (drawFree s).2.pacer = s.pacer := rfl
@[simp] theorem drawFree_recorder (s : State) : (drawFree s).2.recorder = s.recorder := rfl
@[simp] theorem drawFree_mgmt (s : State) : (drawFree s).2.mgmt = s.mgmt := rfl
@[simp] theorem drawFree_mailbox (s : State) : (drawFree s).2.mailbox = s.mailbox := rfl
@[simp] theorem drawFree_bittern (s : State) : (drawFree s).2.bittern = s.bittern := rfl
@[simp] theorem drawFree_out (s : State) : (drawFree s).2.out = s.out := rfl
@[simp] theorem drawFree_edges (s : State) : (drawFree s).2.edges = s.edges := rfl
@[simp] theorem drawFree_granted (s : State) : (drawFree s).2.granted = s.granted := rfl
@[simp] theorem drawFree_freeIdx (s : State) : (drawFree s).2.freeIdx = s.freeIdx + 1 := rfl

/-! ## setPage -/

@[simp] theorem setPage_pending (s : State) (pg : PageId) (p : Page) : (setPage s pg p).pending = s.pending := rfl
@[simp] theorem setPage_power (s : State) (pg : PageId) (p : Page) : (setPage s pg p).power = s.power := rfl
@[simp] theorem setPage_units (s : State) (pg : PageId) (p : Page) : (setPage s pg p).units = s.units := rfl
@[simp] theorem setPage_pages (s : State) (pg : PageId) (p : Page) :
    (setPage s pg p).pages = s.pages.set (pageIdx pg) p := rfl
@[simp] theorem setPage_fns (s : State) (pg : PageId) (p : Page) : (setPage s pg p).fns = s.fns := rfl
@[simp] theorem setPage_mode (s : State) (pg : PageId) (p : Page) : (setPage s pg p).mode = s.mode := rfl
@[simp] theorem setPage_pfRequest (s : State) (pg : PageId) (p : Page) :
    (setPage s pg p).pfRequest = s.pfRequest := rfl
@[simp] theorem setPage_pfActive (s : State) (pg : PageId) (p : Page) : (setPage s pg p).pfActive = s.pfActive := rfl
@[simp] theorem setPage_cores (s : State) (pg : PageId) (p : Page) : (setPage s pg p).cores = s.cores := rfl
@[simp] theorem setPage_mesh (s : State) (pg : PageId) (p : Page) : (setPage s pg p).mesh = s.mesh := rfl
@[simp] theorem setPage_chains (s : State) (pg : PageId) (p : Page) : (setPage s pg p).chains = s.chains := rfl
@[simp] theorem setPage_chainAdds (s : State) (pg : PageId) (p : Page) :
    (setPage s pg p).chainAdds = s.chainAdds := rfl
@[simp] theorem setPage_ctxs (s : State) (pg : PageId) (p : Page) : (setPage s pg p).ctxs = s.ctxs := rfl
@[simp] theorem setPage_rings (s : State) (pg : PageId) (p : Page) : (setPage s pg p).rings = s.rings := rfl
@[simp] theorem setPage_rrNext (s : State) (pg : PageId) (p : Page) : (setPage s pg p).rrNext = s.rrNext := rfl
@[simp] theorem setPage_drain (s : State) (pg : PageId) (p : Page) : (setPage s pg p).drain = s.drain := rfl
@[simp] theorem setPage_queuedReset (s : State) (pg : PageId) (p : Page) :
    (setPage s pg p).queuedReset = s.queuedReset := rfl
@[simp] theorem setPage_repart (s : State) (pg : PageId) (p : Page) : (setPage s pg p).repart = s.repart := rfl
@[simp] theorem setPage_hbm (s : State) (pg : PageId) (p : Page) : (setPage s pg p).hbm = s.hbm := rfl
@[simp] theorem setPage_hbmFlaws (s : State) (pg : PageId) (p : Page) : (setPage s pg p).hbmFlaws = s.hbmFlaws := rfl
@[simp] theorem setPage_cmFlaws (s : State) (pg : PageId) (p : Page) : (setPage s pg p).cmFlaws = s.cmFlaws := rfl
@[simp] theorem setPage_cm (s : State) (pg : PageId) (p : Page) : (setPage s pg p).cm = s.cm := rfl
@[simp] theorem setPage_dir (s : State) (pg : PageId) (p : Page) : (setPage s pg p).dir = s.dir := rfl
@[simp] theorem setPage_fencedAgents (s : State) (pg : PageId) (p : Page) :
    (setPage s pg p).fencedAgents = s.fencedAgents := rfl
@[simp] theorem setPage_ports (s : State) (pg : PageId) (p : Page) : (setPage s pg p).ports = s.ports := rfl
@[simp] theorem setPage_stork (s : State) (pg : PageId) (p : Page) : (setPage s pg p).stork = s.stork := rfl
@[simp] theorem setPage_relay (s : State) (pg : PageId) (p : Page) : (setPage s pg p).relay = s.relay := rfl
@[simp] theorem setPage_gun (s : State) (pg : PageId) (p : Page) : (setPage s pg p).gun = s.gun := rfl
@[simp] theorem setPage_pacer (s : State) (pg : PageId) (p : Page) : (setPage s pg p).pacer = s.pacer := rfl
@[simp] theorem setPage_recorder (s : State) (pg : PageId) (p : Page) : (setPage s pg p).recorder = s.recorder := rfl
@[simp] theorem setPage_mgmt (s : State) (pg : PageId) (p : Page) : (setPage s pg p).mgmt = s.mgmt := rfl
@[simp] theorem setPage_mailbox (s : State) (pg : PageId) (p : Page) : (setPage s pg p).mailbox = s.mailbox := rfl
@[simp] theorem setPage_bittern (s : State) (pg : PageId) (p : Page) : (setPage s pg p).bittern = s.bittern := rfl
@[simp] theorem setPage_out (s : State) (pg : PageId) (p : Page) : (setPage s pg p).out = s.out := rfl
@[simp] theorem setPage_edges (s : State) (pg : PageId) (p : Page) : (setPage s pg p).edges = s.edges := rfl
@[simp] theorem setPage_granted (s : State) (pg : PageId) (p : Page) : (setPage s pg p).granted = s.granted := rfl
@[simp] theorem setPage_freeIdx (s : State) (pg : PageId) (p : Page) : (setPage s pg p).freeIdx = s.freeIdx := rfl

/-! ## modPage -/

@[simp] theorem modPage_pending (s : State) (pg : PageId) (f : Page → Page) :
    (modPage s pg f).pending = s.pending := rfl
@[simp] theorem modPage_power (s : State) (pg : PageId) (f : Page → Page) : (modPage s pg f).power = s.power := rfl
@[simp] theorem modPage_units (s : State) (pg : PageId) (f : Page → Page) : (modPage s pg f).units = s.units := rfl
@[simp] theorem modPage_pages (s : State) (pg : PageId) (f : Page → Page) :
    (modPage s pg f).pages = s.pages.set (pageIdx pg) (f (getPage s pg)) := rfl
@[simp] theorem modPage_fns (s : State) (pg : PageId) (f : Page → Page) : (modPage s pg f).fns = s.fns := rfl
@[simp] theorem modPage_mode (s : State) (pg : PageId) (f : Page → Page) : (modPage s pg f).mode = s.mode := rfl
@[simp] theorem modPage_pfRequest (s : State) (pg : PageId) (f : Page → Page) :
    (modPage s pg f).pfRequest = s.pfRequest := rfl
@[simp] theorem modPage_pfActive (s : State) (pg : PageId) (f : Page → Page) :
    (modPage s pg f).pfActive = s.pfActive := rfl
@[simp] theorem modPage_cores (s : State) (pg : PageId) (f : Page → Page) : (modPage s pg f).cores = s.cores := rfl
@[simp] theorem modPage_mesh (s : State) (pg : PageId) (f : Page → Page) : (modPage s pg f).mesh = s.mesh := rfl
@[simp] theorem modPage_chains (s : State) (pg : PageId) (f : Page → Page) : (modPage s pg f).chains = s.chains := rfl
@[simp] theorem modPage_chainAdds (s : State) (pg : PageId) (f : Page → Page) :
    (modPage s pg f).chainAdds = s.chainAdds := rfl
@[simp] theorem modPage_ctxs (s : State) (pg : PageId) (f : Page → Page) : (modPage s pg f).ctxs = s.ctxs := rfl
@[simp] theorem modPage_rings (s : State) (pg : PageId) (f : Page → Page) : (modPage s pg f).rings = s.rings := rfl
@[simp] theorem modPage_rrNext (s : State) (pg : PageId) (f : Page → Page) : (modPage s pg f).rrNext = s.rrNext := rfl
@[simp] theorem modPage_drain (s : State) (pg : PageId) (f : Page → Page) : (modPage s pg f).drain = s.drain := rfl
@[simp] theorem modPage_queuedReset (s : State) (pg : PageId) (f : Page → Page) :
    (modPage s pg f).queuedReset = s.queuedReset := rfl
@[simp] theorem modPage_repart (s : State) (pg : PageId) (f : Page → Page) : (modPage s pg f).repart = s.repart := rfl
@[simp] theorem modPage_hbm (s : State) (pg : PageId) (f : Page → Page) : (modPage s pg f).hbm = s.hbm := rfl
@[simp] theorem modPage_hbmFlaws (s : State) (pg : PageId) (f : Page → Page) :
    (modPage s pg f).hbmFlaws = s.hbmFlaws := rfl
@[simp] theorem modPage_cmFlaws (s : State) (pg : PageId) (f : Page → Page) :
    (modPage s pg f).cmFlaws = s.cmFlaws := rfl
@[simp] theorem modPage_cm (s : State) (pg : PageId) (f : Page → Page) : (modPage s pg f).cm = s.cm := rfl
@[simp] theorem modPage_dir (s : State) (pg : PageId) (f : Page → Page) : (modPage s pg f).dir = s.dir := rfl
@[simp] theorem modPage_fencedAgents (s : State) (pg : PageId) (f : Page → Page) :
    (modPage s pg f).fencedAgents = s.fencedAgents := rfl
@[simp] theorem modPage_ports (s : State) (pg : PageId) (f : Page → Page) : (modPage s pg f).ports = s.ports := rfl
@[simp] theorem modPage_stork (s : State) (pg : PageId) (f : Page → Page) : (modPage s pg f).stork = s.stork := rfl
@[simp] theorem modPage_relay (s : State) (pg : PageId) (f : Page → Page) : (modPage s pg f).relay = s.relay := rfl
@[simp] theorem modPage_gun (s : State) (pg : PageId) (f : Page → Page) : (modPage s pg f).gun = s.gun := rfl
@[simp] theorem modPage_pacer (s : State) (pg : PageId) (f : Page → Page) : (modPage s pg f).pacer = s.pacer := rfl
@[simp] theorem modPage_recorder (s : State) (pg : PageId) (f : Page → Page) :
    (modPage s pg f).recorder = s.recorder := rfl
@[simp] theorem modPage_mgmt (s : State) (pg : PageId) (f : Page → Page) : (modPage s pg f).mgmt = s.mgmt := rfl
@[simp] theorem modPage_mailbox (s : State) (pg : PageId) (f : Page → Page) :
    (modPage s pg f).mailbox = s.mailbox := rfl
@[simp] theorem modPage_bittern (s : State) (pg : PageId) (f : Page → Page) :
    (modPage s pg f).bittern = s.bittern := rfl
@[simp] theorem modPage_out (s : State) (pg : PageId) (f : Page → Page) : (modPage s pg f).out = s.out := rfl
@[simp] theorem modPage_edges (s : State) (pg : PageId) (f : Page → Page) : (modPage s pg f).edges = s.edges := rfl
@[simp] theorem modPage_granted (s : State) (pg : PageId) (f : Page → Page) :
    (modPage s pg f).granted = s.granted := rfl
@[simp] theorem modPage_freeIdx (s : State) (pg : PageId) (f : Page → Page) :
    (modPage s pg f).freeIdx = s.freeIdx := rfl

/-! ## putReg -/

@[simp] theorem putReg_pending (s : State) (pg : PageId) (off v : Nat) :
    (putReg s pg off v).pending = s.pending := rfl
@[simp] theorem putReg_power (s : State) (pg : PageId) (off v : Nat) : (putReg s pg off v).power = s.power := rfl
@[simp] theorem putReg_units (s : State) (pg : PageId) (off v : Nat) : (putReg s pg off v).units = s.units := rfl
@[simp] theorem putReg_fns (s : State) (pg : PageId) (off v : Nat) : (putReg s pg off v).fns = s.fns := rfl
@[simp] theorem putReg_mode (s : State) (pg : PageId) (off v : Nat) : (putReg s pg off v).mode = s.mode := rfl
@[simp] theorem putReg_pfRequest (s : State) (pg : PageId) (off v : Nat) :
    (putReg s pg off v).pfRequest = s.pfRequest := rfl
@[simp] theorem putReg_pfActive (s : State) (pg : PageId) (off v : Nat) :
    (putReg s pg off v).pfActive = s.pfActive := rfl
@[simp] theorem putReg_cores (s : State) (pg : PageId) (off v : Nat) : (putReg s pg off v).cores = s.cores := rfl
@[simp] theorem putReg_mesh (s : State) (pg : PageId) (off v : Nat) : (putReg s pg off v).mesh = s.mesh := rfl
@[simp] theorem putReg_chains (s : State) (pg : PageId) (off v : Nat) : (putReg s pg off v).chains = s.chains := rfl
@[simp] theorem putReg_chainAdds (s : State) (pg : PageId) (off v : Nat) :
    (putReg s pg off v).chainAdds = s.chainAdds := rfl
@[simp] theorem putReg_ctxs (s : State) (pg : PageId) (off v : Nat) : (putReg s pg off v).ctxs = s.ctxs := rfl
@[simp] theorem putReg_rings (s : State) (pg : PageId) (off v : Nat) : (putReg s pg off v).rings = s.rings := rfl
@[simp] theorem putReg_rrNext (s : State) (pg : PageId) (off v : Nat) : (putReg s pg off v).rrNext = s.rrNext := rfl
@[simp] theorem putReg_drain (s : State) (pg : PageId) (off v : Nat) : (putReg s pg off v).drain = s.drain := rfl
@[simp] theorem putReg_queuedReset (s : State) (pg : PageId) (off v : Nat) :
    (putReg s pg off v).queuedReset = s.queuedReset := rfl
@[simp] theorem putReg_repart (s : State) (pg : PageId) (off v : Nat) : (putReg s pg off v).repart = s.repart := rfl
@[simp] theorem putReg_hbm (s : State) (pg : PageId) (off v : Nat) : (putReg s pg off v).hbm = s.hbm := rfl
@[simp] theorem putReg_hbmFlaws (s : State) (pg : PageId) (off v : Nat) :
    (putReg s pg off v).hbmFlaws = s.hbmFlaws := rfl
@[simp] theorem putReg_cmFlaws (s : State) (pg : PageId) (off v : Nat) :
    (putReg s pg off v).cmFlaws = s.cmFlaws := rfl
@[simp] theorem putReg_cm (s : State) (pg : PageId) (off v : Nat) : (putReg s pg off v).cm = s.cm := rfl
@[simp] theorem putReg_dir (s : State) (pg : PageId) (off v : Nat) : (putReg s pg off v).dir = s.dir := rfl
@[simp] theorem putReg_fencedAgents (s : State) (pg : PageId) (off v : Nat) :
    (putReg s pg off v).fencedAgents = s.fencedAgents := rfl
@[simp] theorem putReg_ports (s : State) (pg : PageId) (off v : Nat) : (putReg s pg off v).ports = s.ports := rfl
@[simp] theorem putReg_stork (s : State) (pg : PageId) (off v : Nat) : (putReg s pg off v).stork = s.stork := rfl
@[simp] theorem putReg_relay (s : State) (pg : PageId) (off v : Nat) : (putReg s pg off v).relay = s.relay := rfl
@[simp] theorem putReg_gun (s : State) (pg : PageId) (off v : Nat) : (putReg s pg off v).gun = s.gun := rfl
@[simp] theorem putReg_pacer (s : State) (pg : PageId) (off v : Nat) : (putReg s pg off v).pacer = s.pacer := rfl
@[simp] theorem putReg_recorder (s : State) (pg : PageId) (off v : Nat) :
    (putReg s pg off v).recorder = s.recorder := rfl
@[simp] theorem putReg_mgmt (s : State) (pg : PageId) (off v : Nat) : (putReg s pg off v).mgmt = s.mgmt := rfl
@[simp] theorem putReg_mailbox (s : State) (pg : PageId) (off v : Nat) :
    (putReg s pg off v).mailbox = s.mailbox := rfl
@[simp] theorem putReg_bittern (s : State) (pg : PageId) (off v : Nat) :
    (putReg s pg off v).bittern = s.bittern := rfl
@[simp] theorem putReg_out (s : State) (pg : PageId) (off v : Nat) : (putReg s pg off v).out = s.out := rfl
@[simp] theorem putReg_edges (s : State) (pg : PageId) (off v : Nat) : (putReg s pg off v).edges = s.edges := rfl
@[simp] theorem putReg_granted (s : State) (pg : PageId) (off v : Nat) :
    (putReg s pg off v).granted = s.granted := rfl
@[simp] theorem putReg_freeIdx (s : State) (pg : PageId) (off v : Nat) :
    (putReg s pg off v).freeIdx = s.freeIdx := rfl

/-! ## bump -/

@[simp] theorem bump_pending (s : State) (pg : PageId) (i n : Nat) :
    (bump s pg i n).pending = s.pending := by unfold bump; split <;> rfl
@[simp] theorem bump_power (s : State) (pg : PageId) (i n : Nat) :
    (bump s pg i n).power = s.power := by unfold bump; split <;> rfl
@[simp] theorem bump_units (s : State) (pg : PageId) (i n : Nat) :
    (bump s pg i n).units = s.units := by unfold bump; split <;> rfl
@[simp] theorem bump_fns (s : State) (pg : PageId) (i n : Nat) :
    (bump s pg i n).fns = s.fns := by unfold bump; split <;> rfl
@[simp] theorem bump_mode (s : State) (pg : PageId) (i n : Nat) :
    (bump s pg i n).mode = s.mode := by unfold bump; split <;> rfl
@[simp] theorem bump_pfRequest (s : State) (pg : PageId) (i n : Nat) :
    (bump s pg i n).pfRequest = s.pfRequest := by unfold bump; split <;> rfl
@[simp] theorem bump_pfActive (s : State) (pg : PageId) (i n : Nat) :
    (bump s pg i n).pfActive = s.pfActive := by unfold bump; split <;> rfl
@[simp] theorem bump_cores (s : State) (pg : PageId) (i n : Nat) :
    (bump s pg i n).cores = s.cores := by unfold bump; split <;> rfl
@[simp] theorem bump_mesh (s : State) (pg : PageId) (i n : Nat) :
    (bump s pg i n).mesh = s.mesh := by unfold bump; split <;> rfl
@[simp] theorem bump_chains (s : State) (pg : PageId) (i n : Nat) :
    (bump s pg i n).chains = s.chains := by unfold bump; split <;> rfl
@[simp] theorem bump_chainAdds (s : State) (pg : PageId) (i n : Nat) :
    (bump s pg i n).chainAdds = s.chainAdds := by unfold bump; split <;> rfl
@[simp] theorem bump_ctxs (s : State) (pg : PageId) (i n : Nat) :
    (bump s pg i n).ctxs = s.ctxs := by unfold bump; split <;> rfl
@[simp] theorem bump_rings (s : State) (pg : PageId) (i n : Nat) :
    (bump s pg i n).rings = s.rings := by unfold bump; split <;> rfl
@[simp] theorem bump_rrNext (s : State) (pg : PageId) (i n : Nat) :
    (bump s pg i n).rrNext = s.rrNext := by unfold bump; split <;> rfl
@[simp] theorem bump_drain (s : State) (pg : PageId) (i n : Nat) :
    (bump s pg i n).drain = s.drain := by unfold bump; split <;> rfl
@[simp] theorem bump_queuedReset (s : State) (pg : PageId) (i n : Nat) :
    (bump s pg i n).queuedReset = s.queuedReset := by unfold bump; split <;> rfl
@[simp] theorem bump_repart (s : State) (pg : PageId) (i n : Nat) :
    (bump s pg i n).repart = s.repart := by unfold bump; split <;> rfl
@[simp] theorem bump_hbm (s : State) (pg : PageId) (i n : Nat) :
    (bump s pg i n).hbm = s.hbm := by unfold bump; split <;> rfl
@[simp] theorem bump_hbmFlaws (s : State) (pg : PageId) (i n : Nat) :
    (bump s pg i n).hbmFlaws = s.hbmFlaws := by unfold bump; split <;> rfl
@[simp] theorem bump_cmFlaws (s : State) (pg : PageId) (i n : Nat) :
    (bump s pg i n).cmFlaws = s.cmFlaws := by unfold bump; split <;> rfl
@[simp] theorem bump_cm (s : State) (pg : PageId) (i n : Nat) :
    (bump s pg i n).cm = s.cm := by unfold bump; split <;> rfl
@[simp] theorem bump_dir (s : State) (pg : PageId) (i n : Nat) :
    (bump s pg i n).dir = s.dir := by unfold bump; split <;> rfl
@[simp] theorem bump_fencedAgents (s : State) (pg : PageId) (i n : Nat) :
    (bump s pg i n).fencedAgents = s.fencedAgents := by unfold bump; split <;> rfl
@[simp] theorem bump_ports (s : State) (pg : PageId) (i n : Nat) :
    (bump s pg i n).ports = s.ports := by unfold bump; split <;> rfl
@[simp] theorem bump_stork (s : State) (pg : PageId) (i n : Nat) :
    (bump s pg i n).stork = s.stork := by unfold bump; split <;> rfl
@[simp] theorem bump_relay (s : State) (pg : PageId) (i n : Nat) :
    (bump s pg i n).relay = s.relay := by unfold bump; split <;> rfl
@[simp] theorem bump_gun (s : State) (pg : PageId) (i n : Nat) :
    (bump s pg i n).gun = s.gun := by unfold bump; split <;> rfl
@[simp] theorem bump_pacer (s : State) (pg : PageId) (i n : Nat) :
    (bump s pg i n).pacer = s.pacer := by unfold bump; split <;> rfl
@[simp] theorem bump_recorder (s : State) (pg : PageId) (i n : Nat) :
    (bump s pg i n).recorder = s.recorder := by unfold bump; split <;> rfl
@[simp] theorem bump_mgmt (s : State) (pg : PageId) (i n : Nat) :
    (bump s pg i n).mgmt = s.mgmt := by unfold bump; split <;> rfl
@[simp] theorem bump_mailbox (s : State) (pg : PageId) (i n : Nat) :
    (bump s pg i n).mailbox = s.mailbox := by unfold bump; split <;> rfl
@[simp] theorem bump_bittern (s : State) (pg : PageId) (i n : Nat) :
    (bump s pg i n).bittern = s.bittern := by unfold bump; split <;> rfl
@[simp] theorem bump_out (s : State) (pg : PageId) (i n : Nat) :
    (bump s pg i n).out = s.out := by unfold bump; split <;> rfl
@[simp] theorem bump_edges (s : State) (pg : PageId) (i n : Nat) :
    (bump s pg i n).edges = s.edges := by unfold bump; split <;> rfl
@[simp] theorem bump_granted (s : State) (pg : PageId) (i n : Nat) :
    (bump s pg i n).granted = s.granted := by unfold bump; split <;> rfl
@[simp] theorem bump_freeIdx (s : State) (pg : PageId) (i n : Nat) :
    (bump s pg i n).freeIdx = s.freeIdx := by unfold bump; split <;> rfl

/-! ## modCore -/

@[simp] theorem modCore_pending (s : State) (c : Fin 16) (f : Core → Core) :
    (modCore s c f).pending = s.pending := rfl
@[simp] theorem modCore_power (s : State) (c : Fin 16) (f : Core → Core) : (modCore s c f).power = s.power := rfl
@[simp] theorem modCore_units (s : State) (c : Fin 16) (f : Core → Core) : (modCore s c f).units = s.units := rfl
@[simp] theorem modCore_pages (s : State) (c : Fin 16) (f : Core → Core) : (modCore s c f).pages = s.pages := rfl
@[simp] theorem modCore_fns (s : State) (c : Fin 16) (f : Core → Core) : (modCore s c f).fns = s.fns := rfl
@[simp] theorem modCore_mode (s : State) (c : Fin 16) (f : Core → Core) : (modCore s c f).mode = s.mode := rfl
@[simp] theorem modCore_pfRequest (s : State) (c : Fin 16) (f : Core → Core) :
    (modCore s c f).pfRequest = s.pfRequest := rfl
@[simp] theorem modCore_pfActive (s : State) (c : Fin 16) (f : Core → Core) :
    (modCore s c f).pfActive = s.pfActive := rfl
@[simp] theorem modCore_cores (s : State) (c : Fin 16) (f : Core → Core) :
    (modCore s c f).cores = s.cores.set c (f s.cores[c]) := rfl
@[simp] theorem modCore_mesh (s : State) (c : Fin 16) (f : Core → Core) : (modCore s c f).mesh = s.mesh := rfl
@[simp] theorem modCore_chains (s : State) (c : Fin 16) (f : Core → Core) : (modCore s c f).chains = s.chains := rfl
@[simp] theorem modCore_chainAdds (s : State) (c : Fin 16) (f : Core → Core) :
    (modCore s c f).chainAdds = s.chainAdds := rfl
@[simp] theorem modCore_ctxs (s : State) (c : Fin 16) (f : Core → Core) : (modCore s c f).ctxs = s.ctxs := rfl
@[simp] theorem modCore_rings (s : State) (c : Fin 16) (f : Core → Core) : (modCore s c f).rings = s.rings := rfl
@[simp] theorem modCore_rrNext (s : State) (c : Fin 16) (f : Core → Core) : (modCore s c f).rrNext = s.rrNext := rfl
@[simp] theorem modCore_drain (s : State) (c : Fin 16) (f : Core → Core) : (modCore s c f).drain = s.drain := rfl
@[simp] theorem modCore_queuedReset (s : State) (c : Fin 16) (f : Core → Core) :
    (modCore s c f).queuedReset = s.queuedReset := rfl
@[simp] theorem modCore_repart (s : State) (c : Fin 16) (f : Core → Core) : (modCore s c f).repart = s.repart := rfl
@[simp] theorem modCore_hbm (s : State) (c : Fin 16) (f : Core → Core) : (modCore s c f).hbm = s.hbm := rfl
@[simp] theorem modCore_hbmFlaws (s : State) (c : Fin 16) (f : Core → Core) :
    (modCore s c f).hbmFlaws = s.hbmFlaws := rfl
@[simp] theorem modCore_cmFlaws (s : State) (c : Fin 16) (f : Core → Core) :
    (modCore s c f).cmFlaws = s.cmFlaws := rfl
@[simp] theorem modCore_cm (s : State) (c : Fin 16) (f : Core → Core) : (modCore s c f).cm = s.cm := rfl
@[simp] theorem modCore_dir (s : State) (c : Fin 16) (f : Core → Core) : (modCore s c f).dir = s.dir := rfl
@[simp] theorem modCore_fencedAgents (s : State) (c : Fin 16) (f : Core → Core) :
    (modCore s c f).fencedAgents = s.fencedAgents := rfl
@[simp] theorem modCore_ports (s : State) (c : Fin 16) (f : Core → Core) : (modCore s c f).ports = s.ports := rfl
@[simp] theorem modCore_stork (s : State) (c : Fin 16) (f : Core → Core) : (modCore s c f).stork = s.stork := rfl
@[simp] theorem modCore_relay (s : State) (c : Fin 16) (f : Core → Core) : (modCore s c f).relay = s.relay := rfl
@[simp] theorem modCore_gun (s : State) (c : Fin 16) (f : Core → Core) : (modCore s c f).gun = s.gun := rfl
@[simp] theorem modCore_pacer (s : State) (c : Fin 16) (f : Core → Core) : (modCore s c f).pacer = s.pacer := rfl
@[simp] theorem modCore_recorder (s : State) (c : Fin 16) (f : Core → Core) :
    (modCore s c f).recorder = s.recorder := rfl
@[simp] theorem modCore_mgmt (s : State) (c : Fin 16) (f : Core → Core) : (modCore s c f).mgmt = s.mgmt := rfl
@[simp] theorem modCore_mailbox (s : State) (c : Fin 16) (f : Core → Core) :
    (modCore s c f).mailbox = s.mailbox := rfl
@[simp] theorem modCore_bittern (s : State) (c : Fin 16) (f : Core → Core) :
    (modCore s c f).bittern = s.bittern := rfl
@[simp] theorem modCore_out (s : State) (c : Fin 16) (f : Core → Core) : (modCore s c f).out = s.out := rfl
@[simp] theorem modCore_edges (s : State) (c : Fin 16) (f : Core → Core) : (modCore s c f).edges = s.edges := rfl
@[simp] theorem modCore_granted (s : State) (c : Fin 16) (f : Core → Core) :
    (modCore s c f).granted = s.granted := rfl
@[simp] theorem modCore_freeIdx (s : State) (c : Fin 16) (f : Core → Core) :
    (modCore s c f).freeIdx = s.freeIdx := rfl

/-! ## modPower -/

@[simp] theorem modPower_pending (s : State) (f : Power → Power) : (modPower s f).pending = s.pending := rfl
@[simp] theorem modPower_power (s : State) (f : Power → Power) : (modPower s f).power = f s.power := rfl
@[simp] theorem modPower_units (s : State) (f : Power → Power) : (modPower s f).units = s.units := rfl
@[simp] theorem modPower_pages (s : State) (f : Power → Power) : (modPower s f).pages = s.pages := rfl
@[simp] theorem modPower_fns (s : State) (f : Power → Power) : (modPower s f).fns = s.fns := rfl
@[simp] theorem modPower_mode (s : State) (f : Power → Power) : (modPower s f).mode = s.mode := rfl
@[simp] theorem modPower_pfRequest (s : State) (f : Power → Power) : (modPower s f).pfRequest = s.pfRequest := rfl
@[simp] theorem modPower_pfActive (s : State) (f : Power → Power) : (modPower s f).pfActive = s.pfActive := rfl
@[simp] theorem modPower_cores (s : State) (f : Power → Power) : (modPower s f).cores = s.cores := rfl
@[simp] theorem modPower_mesh (s : State) (f : Power → Power) : (modPower s f).mesh = s.mesh := rfl
@[simp] theorem modPower_chains (s : State) (f : Power → Power) : (modPower s f).chains = s.chains := rfl
@[simp] theorem modPower_chainAdds (s : State) (f : Power → Power) : (modPower s f).chainAdds = s.chainAdds := rfl
@[simp] theorem modPower_ctxs (s : State) (f : Power → Power) : (modPower s f).ctxs = s.ctxs := rfl
@[simp] theorem modPower_rings (s : State) (f : Power → Power) : (modPower s f).rings = s.rings := rfl
@[simp] theorem modPower_rrNext (s : State) (f : Power → Power) : (modPower s f).rrNext = s.rrNext := rfl
@[simp] theorem modPower_drain (s : State) (f : Power → Power) : (modPower s f).drain = s.drain := rfl
@[simp] theorem modPower_queuedReset (s : State) (f : Power → Power) :
    (modPower s f).queuedReset = s.queuedReset := rfl
@[simp] theorem modPower_repart (s : State) (f : Power → Power) : (modPower s f).repart = s.repart := rfl
@[simp] theorem modPower_hbm (s : State) (f : Power → Power) : (modPower s f).hbm = s.hbm := rfl
@[simp] theorem modPower_hbmFlaws (s : State) (f : Power → Power) : (modPower s f).hbmFlaws = s.hbmFlaws := rfl
@[simp] theorem modPower_cmFlaws (s : State) (f : Power → Power) : (modPower s f).cmFlaws = s.cmFlaws := rfl
@[simp] theorem modPower_cm (s : State) (f : Power → Power) : (modPower s f).cm = s.cm := rfl
@[simp] theorem modPower_dir (s : State) (f : Power → Power) : (modPower s f).dir = s.dir := rfl
@[simp] theorem modPower_fencedAgents (s : State) (f : Power → Power) :
    (modPower s f).fencedAgents = s.fencedAgents := rfl
@[simp] theorem modPower_ports (s : State) (f : Power → Power) : (modPower s f).ports = s.ports := rfl
@[simp] theorem modPower_stork (s : State) (f : Power → Power) : (modPower s f).stork = s.stork := rfl
@[simp] theorem modPower_relay (s : State) (f : Power → Power) : (modPower s f).relay = s.relay := rfl
@[simp] theorem modPower_gun (s : State) (f : Power → Power) : (modPower s f).gun = s.gun := rfl
@[simp] theorem modPower_pacer (s : State) (f : Power → Power) : (modPower s f).pacer = s.pacer := rfl
@[simp] theorem modPower_recorder (s : State) (f : Power → Power) : (modPower s f).recorder = s.recorder := rfl
@[simp] theorem modPower_mgmt (s : State) (f : Power → Power) : (modPower s f).mgmt = s.mgmt := rfl
@[simp] theorem modPower_mailbox (s : State) (f : Power → Power) : (modPower s f).mailbox = s.mailbox := rfl
@[simp] theorem modPower_bittern (s : State) (f : Power → Power) : (modPower s f).bittern = s.bittern := rfl
@[simp] theorem modPower_out (s : State) (f : Power → Power) : (modPower s f).out = s.out := rfl
@[simp] theorem modPower_edges (s : State) (f : Power → Power) : (modPower s f).edges = s.edges := rfl
@[simp] theorem modPower_granted (s : State) (f : Power → Power) : (modPower s f).granted = s.granted := rfl
@[simp] theorem modPower_freeIdx (s : State) (f : Power → Power) : (modPower s f).freeIdx = s.freeIdx := rfl

/-! ## modMgmt -/

@[simp] theorem modMgmt_pending (s : State) (f : Mgmt → Mgmt) : (modMgmt s f).pending = s.pending := rfl
@[simp] theorem modMgmt_power (s : State) (f : Mgmt → Mgmt) : (modMgmt s f).power = s.power := rfl
@[simp] theorem modMgmt_units (s : State) (f : Mgmt → Mgmt) : (modMgmt s f).units = s.units := rfl
@[simp] theorem modMgmt_pages (s : State) (f : Mgmt → Mgmt) : (modMgmt s f).pages = s.pages := rfl
@[simp] theorem modMgmt_fns (s : State) (f : Mgmt → Mgmt) : (modMgmt s f).fns = s.fns := rfl
@[simp] theorem modMgmt_mode (s : State) (f : Mgmt → Mgmt) : (modMgmt s f).mode = s.mode := rfl
@[simp] theorem modMgmt_pfRequest (s : State) (f : Mgmt → Mgmt) : (modMgmt s f).pfRequest = s.pfRequest := rfl
@[simp] theorem modMgmt_pfActive (s : State) (f : Mgmt → Mgmt) : (modMgmt s f).pfActive = s.pfActive := rfl
@[simp] theorem modMgmt_cores (s : State) (f : Mgmt → Mgmt) : (modMgmt s f).cores = s.cores := rfl
@[simp] theorem modMgmt_mesh (s : State) (f : Mgmt → Mgmt) : (modMgmt s f).mesh = s.mesh := rfl
@[simp] theorem modMgmt_chains (s : State) (f : Mgmt → Mgmt) : (modMgmt s f).chains = s.chains := rfl
@[simp] theorem modMgmt_chainAdds (s : State) (f : Mgmt → Mgmt) : (modMgmt s f).chainAdds = s.chainAdds := rfl
@[simp] theorem modMgmt_ctxs (s : State) (f : Mgmt → Mgmt) : (modMgmt s f).ctxs = s.ctxs := rfl
@[simp] theorem modMgmt_rings (s : State) (f : Mgmt → Mgmt) : (modMgmt s f).rings = s.rings := rfl
@[simp] theorem modMgmt_rrNext (s : State) (f : Mgmt → Mgmt) : (modMgmt s f).rrNext = s.rrNext := rfl
@[simp] theorem modMgmt_drain (s : State) (f : Mgmt → Mgmt) : (modMgmt s f).drain = s.drain := rfl
@[simp] theorem modMgmt_queuedReset (s : State) (f : Mgmt → Mgmt) : (modMgmt s f).queuedReset = s.queuedReset := rfl
@[simp] theorem modMgmt_repart (s : State) (f : Mgmt → Mgmt) : (modMgmt s f).repart = s.repart := rfl
@[simp] theorem modMgmt_hbm (s : State) (f : Mgmt → Mgmt) : (modMgmt s f).hbm = s.hbm := rfl
@[simp] theorem modMgmt_hbmFlaws (s : State) (f : Mgmt → Mgmt) : (modMgmt s f).hbmFlaws = s.hbmFlaws := rfl
@[simp] theorem modMgmt_cmFlaws (s : State) (f : Mgmt → Mgmt) : (modMgmt s f).cmFlaws = s.cmFlaws := rfl
@[simp] theorem modMgmt_cm (s : State) (f : Mgmt → Mgmt) : (modMgmt s f).cm = s.cm := rfl
@[simp] theorem modMgmt_dir (s : State) (f : Mgmt → Mgmt) : (modMgmt s f).dir = s.dir := rfl
@[simp] theorem modMgmt_fencedAgents (s : State) (f : Mgmt → Mgmt) :
    (modMgmt s f).fencedAgents = s.fencedAgents := rfl
@[simp] theorem modMgmt_ports (s : State) (f : Mgmt → Mgmt) : (modMgmt s f).ports = s.ports := rfl
@[simp] theorem modMgmt_stork (s : State) (f : Mgmt → Mgmt) : (modMgmt s f).stork = s.stork := rfl
@[simp] theorem modMgmt_relay (s : State) (f : Mgmt → Mgmt) : (modMgmt s f).relay = s.relay := rfl
@[simp] theorem modMgmt_gun (s : State) (f : Mgmt → Mgmt) : (modMgmt s f).gun = s.gun := rfl
@[simp] theorem modMgmt_pacer (s : State) (f : Mgmt → Mgmt) : (modMgmt s f).pacer = s.pacer := rfl
@[simp] theorem modMgmt_recorder (s : State) (f : Mgmt → Mgmt) : (modMgmt s f).recorder = s.recorder := rfl
@[simp] theorem modMgmt_mgmt (s : State) (f : Mgmt → Mgmt) : (modMgmt s f).mgmt = f s.mgmt := rfl
@[simp] theorem modMgmt_mailbox (s : State) (f : Mgmt → Mgmt) : (modMgmt s f).mailbox = s.mailbox := rfl
@[simp] theorem modMgmt_bittern (s : State) (f : Mgmt → Mgmt) : (modMgmt s f).bittern = s.bittern := rfl
@[simp] theorem modMgmt_out (s : State) (f : Mgmt → Mgmt) : (modMgmt s f).out = s.out := rfl
@[simp] theorem modMgmt_edges (s : State) (f : Mgmt → Mgmt) : (modMgmt s f).edges = s.edges := rfl
@[simp] theorem modMgmt_granted (s : State) (f : Mgmt → Mgmt) : (modMgmt s f).granted = s.granted := rfl
@[simp] theorem modMgmt_freeIdx (s : State) (f : Mgmt → Mgmt) : (modMgmt s f).freeIdx = s.freeIdx := rfl

/-! ## modStork -/

@[simp] theorem modStork_pending (s : State) (f : Stork → Stork) : (modStork s f).pending = s.pending := rfl
@[simp] theorem modStork_power (s : State) (f : Stork → Stork) : (modStork s f).power = s.power := rfl
@[simp] theorem modStork_units (s : State) (f : Stork → Stork) : (modStork s f).units = s.units := rfl
@[simp] theorem modStork_pages (s : State) (f : Stork → Stork) : (modStork s f).pages = s.pages := rfl
@[simp] theorem modStork_fns (s : State) (f : Stork → Stork) : (modStork s f).fns = s.fns := rfl
@[simp] theorem modStork_mode (s : State) (f : Stork → Stork) : (modStork s f).mode = s.mode := rfl
@[simp] theorem modStork_pfRequest (s : State) (f : Stork → Stork) : (modStork s f).pfRequest = s.pfRequest := rfl
@[simp] theorem modStork_pfActive (s : State) (f : Stork → Stork) : (modStork s f).pfActive = s.pfActive := rfl
@[simp] theorem modStork_cores (s : State) (f : Stork → Stork) : (modStork s f).cores = s.cores := rfl
@[simp] theorem modStork_mesh (s : State) (f : Stork → Stork) : (modStork s f).mesh = s.mesh := rfl
@[simp] theorem modStork_chains (s : State) (f : Stork → Stork) : (modStork s f).chains = s.chains := rfl
@[simp] theorem modStork_chainAdds (s : State) (f : Stork → Stork) : (modStork s f).chainAdds = s.chainAdds := rfl
@[simp] theorem modStork_ctxs (s : State) (f : Stork → Stork) : (modStork s f).ctxs = s.ctxs := rfl
@[simp] theorem modStork_rings (s : State) (f : Stork → Stork) : (modStork s f).rings = s.rings := rfl
@[simp] theorem modStork_rrNext (s : State) (f : Stork → Stork) : (modStork s f).rrNext = s.rrNext := rfl
@[simp] theorem modStork_drain (s : State) (f : Stork → Stork) : (modStork s f).drain = s.drain := rfl
@[simp] theorem modStork_queuedReset (s : State) (f : Stork → Stork) :
    (modStork s f).queuedReset = s.queuedReset := rfl
@[simp] theorem modStork_repart (s : State) (f : Stork → Stork) : (modStork s f).repart = s.repart := rfl
@[simp] theorem modStork_hbm (s : State) (f : Stork → Stork) : (modStork s f).hbm = s.hbm := rfl
@[simp] theorem modStork_hbmFlaws (s : State) (f : Stork → Stork) : (modStork s f).hbmFlaws = s.hbmFlaws := rfl
@[simp] theorem modStork_cmFlaws (s : State) (f : Stork → Stork) : (modStork s f).cmFlaws = s.cmFlaws := rfl
@[simp] theorem modStork_cm (s : State) (f : Stork → Stork) : (modStork s f).cm = s.cm := rfl
@[simp] theorem modStork_dir (s : State) (f : Stork → Stork) : (modStork s f).dir = s.dir := rfl
@[simp] theorem modStork_fencedAgents (s : State) (f : Stork → Stork) :
    (modStork s f).fencedAgents = s.fencedAgents := rfl
@[simp] theorem modStork_ports (s : State) (f : Stork → Stork) : (modStork s f).ports = s.ports := rfl
@[simp] theorem modStork_stork (s : State) (f : Stork → Stork) : (modStork s f).stork = f s.stork := rfl
@[simp] theorem modStork_relay (s : State) (f : Stork → Stork) : (modStork s f).relay = s.relay := rfl
@[simp] theorem modStork_gun (s : State) (f : Stork → Stork) : (modStork s f).gun = s.gun := rfl
@[simp] theorem modStork_pacer (s : State) (f : Stork → Stork) : (modStork s f).pacer = s.pacer := rfl
@[simp] theorem modStork_recorder (s : State) (f : Stork → Stork) : (modStork s f).recorder = s.recorder := rfl
@[simp] theorem modStork_mgmt (s : State) (f : Stork → Stork) : (modStork s f).mgmt = s.mgmt := rfl
@[simp] theorem modStork_mailbox (s : State) (f : Stork → Stork) : (modStork s f).mailbox = s.mailbox := rfl
@[simp] theorem modStork_bittern (s : State) (f : Stork → Stork) : (modStork s f).bittern = s.bittern := rfl
@[simp] theorem modStork_out (s : State) (f : Stork → Stork) : (modStork s f).out = s.out := rfl
@[simp] theorem modStork_edges (s : State) (f : Stork → Stork) : (modStork s f).edges = s.edges := rfl
@[simp] theorem modStork_granted (s : State) (f : Stork → Stork) : (modStork s f).granted = s.granted := rfl
@[simp] theorem modStork_freeIdx (s : State) (f : Stork → Stork) : (modStork s f).freeIdx = s.freeIdx := rfl

/-! ## setWin -/

@[simp] theorem setWin_pending (s : State) (w : Nat) (x : Window) : (setWin s w x).pending = s.pending := rfl
@[simp] theorem setWin_power (s : State) (w : Nat) (x : Window) : (setWin s w x).power = s.power := rfl
@[simp] theorem setWin_units (s : State) (w : Nat) (x : Window) : (setWin s w x).units = s.units := rfl
@[simp] theorem setWin_pages (s : State) (w : Nat) (x : Window) : (setWin s w x).pages = s.pages := rfl
@[simp] theorem setWin_fns (s : State) (w : Nat) (x : Window) : (setWin s w x).fns = s.fns := rfl
@[simp] theorem setWin_mode (s : State) (w : Nat) (x : Window) : (setWin s w x).mode = s.mode := rfl
@[simp] theorem setWin_pfRequest (s : State) (w : Nat) (x : Window) : (setWin s w x).pfRequest = s.pfRequest := rfl
@[simp] theorem setWin_pfActive (s : State) (w : Nat) (x : Window) : (setWin s w x).pfActive = s.pfActive := rfl
@[simp] theorem setWin_cores (s : State) (w : Nat) (x : Window) : (setWin s w x).cores = s.cores := rfl
@[simp] theorem setWin_mesh (s : State) (w : Nat) (x : Window) : (setWin s w x).mesh = s.mesh := rfl
@[simp] theorem setWin_chains (s : State) (w : Nat) (x : Window) : (setWin s w x).chains = s.chains := rfl
@[simp] theorem setWin_chainAdds (s : State) (w : Nat) (x : Window) : (setWin s w x).chainAdds = s.chainAdds := rfl
@[simp] theorem setWin_ctxs (s : State) (w : Nat) (x : Window) : (setWin s w x).ctxs = s.ctxs := rfl
@[simp] theorem setWin_rings (s : State) (w : Nat) (x : Window) : (setWin s w x).rings = s.rings := rfl
@[simp] theorem setWin_rrNext (s : State) (w : Nat) (x : Window) : (setWin s w x).rrNext = s.rrNext := rfl
@[simp] theorem setWin_drain (s : State) (w : Nat) (x : Window) : (setWin s w x).drain = s.drain := rfl
@[simp] theorem setWin_queuedReset (s : State) (w : Nat) (x : Window) :
    (setWin s w x).queuedReset = s.queuedReset := rfl
@[simp] theorem setWin_repart (s : State) (w : Nat) (x : Window) : (setWin s w x).repart = s.repart := rfl
@[simp] theorem setWin_hbm (s : State) (w : Nat) (x : Window) : (setWin s w x).hbm = s.hbm := rfl
@[simp] theorem setWin_hbmFlaws (s : State) (w : Nat) (x : Window) : (setWin s w x).hbmFlaws = s.hbmFlaws := rfl
@[simp] theorem setWin_cmFlaws (s : State) (w : Nat) (x : Window) : (setWin s w x).cmFlaws = s.cmFlaws := rfl
@[simp] theorem setWin_cm (s : State) (w : Nat) (x : Window) : (setWin s w x).cm = s.cm := rfl
@[simp] theorem setWin_dir (s : State) (w : Nat) (x : Window) : (setWin s w x).dir = s.dir := rfl
@[simp] theorem setWin_fencedAgents (s : State) (w : Nat) (x : Window) :
    (setWin s w x).fencedAgents = s.fencedAgents := rfl
@[simp] theorem setWin_ports (s : State) (w : Nat) (x : Window) : (setWin s w x).ports = s.ports := rfl
@[simp] theorem setWin_relay (s : State) (w : Nat) (x : Window) : (setWin s w x).relay = s.relay := rfl
@[simp] theorem setWin_gun (s : State) (w : Nat) (x : Window) : (setWin s w x).gun = s.gun := rfl
@[simp] theorem setWin_pacer (s : State) (w : Nat) (x : Window) : (setWin s w x).pacer = s.pacer := rfl
@[simp] theorem setWin_recorder (s : State) (w : Nat) (x : Window) : (setWin s w x).recorder = s.recorder := rfl
@[simp] theorem setWin_mgmt (s : State) (w : Nat) (x : Window) : (setWin s w x).mgmt = s.mgmt := rfl
@[simp] theorem setWin_mailbox (s : State) (w : Nat) (x : Window) : (setWin s w x).mailbox = s.mailbox := rfl
@[simp] theorem setWin_bittern (s : State) (w : Nat) (x : Window) : (setWin s w x).bittern = s.bittern := rfl
@[simp] theorem setWin_out (s : State) (w : Nat) (x : Window) : (setWin s w x).out = s.out := rfl
@[simp] theorem setWin_edges (s : State) (w : Nat) (x : Window) : (setWin s w x).edges = s.edges := rfl
@[simp] theorem setWin_granted (s : State) (w : Nat) (x : Window) : (setWin s w x).granted = s.granted := rfl
@[simp] theorem setWin_freeIdx (s : State) (w : Nat) (x : Window) : (setWin s w x).freeIdx = s.freeIdx := rfl

/-! ## modBox -/

@[simp] theorem modBox_pending (s : State) (f : Mailbox → Mailbox) : (modBox s f).pending = s.pending := rfl
@[simp] theorem modBox_power (s : State) (f : Mailbox → Mailbox) : (modBox s f).power = s.power := rfl
@[simp] theorem modBox_units (s : State) (f : Mailbox → Mailbox) : (modBox s f).units = s.units := rfl
@[simp] theorem modBox_pages (s : State) (f : Mailbox → Mailbox) : (modBox s f).pages = s.pages := rfl
@[simp] theorem modBox_fns (s : State) (f : Mailbox → Mailbox) : (modBox s f).fns = s.fns := rfl
@[simp] theorem modBox_mode (s : State) (f : Mailbox → Mailbox) : (modBox s f).mode = s.mode := rfl
@[simp] theorem modBox_pfRequest (s : State) (f : Mailbox → Mailbox) : (modBox s f).pfRequest = s.pfRequest := rfl
@[simp] theorem modBox_pfActive (s : State) (f : Mailbox → Mailbox) : (modBox s f).pfActive = s.pfActive := rfl
@[simp] theorem modBox_cores (s : State) (f : Mailbox → Mailbox) : (modBox s f).cores = s.cores := rfl
@[simp] theorem modBox_mesh (s : State) (f : Mailbox → Mailbox) : (modBox s f).mesh = s.mesh := rfl
@[simp] theorem modBox_chains (s : State) (f : Mailbox → Mailbox) : (modBox s f).chains = s.chains := rfl
@[simp] theorem modBox_chainAdds (s : State) (f : Mailbox → Mailbox) : (modBox s f).chainAdds = s.chainAdds := rfl
@[simp] theorem modBox_ctxs (s : State) (f : Mailbox → Mailbox) : (modBox s f).ctxs = s.ctxs := rfl
@[simp] theorem modBox_rings (s : State) (f : Mailbox → Mailbox) : (modBox s f).rings = s.rings := rfl
@[simp] theorem modBox_rrNext (s : State) (f : Mailbox → Mailbox) : (modBox s f).rrNext = s.rrNext := rfl
@[simp] theorem modBox_drain (s : State) (f : Mailbox → Mailbox) : (modBox s f).drain = s.drain := rfl
@[simp] theorem modBox_queuedReset (s : State) (f : Mailbox → Mailbox) :
    (modBox s f).queuedReset = s.queuedReset := rfl
@[simp] theorem modBox_repart (s : State) (f : Mailbox → Mailbox) : (modBox s f).repart = s.repart := rfl
@[simp] theorem modBox_hbm (s : State) (f : Mailbox → Mailbox) : (modBox s f).hbm = s.hbm := rfl
@[simp] theorem modBox_hbmFlaws (s : State) (f : Mailbox → Mailbox) : (modBox s f).hbmFlaws = s.hbmFlaws := rfl
@[simp] theorem modBox_cmFlaws (s : State) (f : Mailbox → Mailbox) : (modBox s f).cmFlaws = s.cmFlaws := rfl
@[simp] theorem modBox_cm (s : State) (f : Mailbox → Mailbox) : (modBox s f).cm = s.cm := rfl
@[simp] theorem modBox_dir (s : State) (f : Mailbox → Mailbox) : (modBox s f).dir = s.dir := rfl
@[simp] theorem modBox_fencedAgents (s : State) (f : Mailbox → Mailbox) :
    (modBox s f).fencedAgents = s.fencedAgents := rfl
@[simp] theorem modBox_ports (s : State) (f : Mailbox → Mailbox) : (modBox s f).ports = s.ports := rfl
@[simp] theorem modBox_stork (s : State) (f : Mailbox → Mailbox) : (modBox s f).stork = s.stork := rfl
@[simp] theorem modBox_relay (s : State) (f : Mailbox → Mailbox) : (modBox s f).relay = s.relay := rfl
@[simp] theorem modBox_gun (s : State) (f : Mailbox → Mailbox) : (modBox s f).gun = s.gun := rfl
@[simp] theorem modBox_pacer (s : State) (f : Mailbox → Mailbox) : (modBox s f).pacer = s.pacer := rfl
@[simp] theorem modBox_recorder (s : State) (f : Mailbox → Mailbox) : (modBox s f).recorder = s.recorder := rfl
@[simp] theorem modBox_mgmt (s : State) (f : Mailbox → Mailbox) : (modBox s f).mgmt = s.mgmt := rfl
@[simp] theorem modBox_mailbox (s : State) (f : Mailbox → Mailbox) : (modBox s f).mailbox = f s.mailbox := rfl
@[simp] theorem modBox_bittern (s : State) (f : Mailbox → Mailbox) : (modBox s f).bittern = s.bittern := rfl
@[simp] theorem modBox_out (s : State) (f : Mailbox → Mailbox) : (modBox s f).out = s.out := rfl
@[simp] theorem modBox_edges (s : State) (f : Mailbox → Mailbox) : (modBox s f).edges = s.edges := rfl
@[simp] theorem modBox_granted (s : State) (f : Mailbox → Mailbox) : (modBox s f).granted = s.granted := rfl
@[simp] theorem modBox_freeIdx (s : State) (f : Mailbox → Mailbox) : (modBox s f).freeIdx = s.freeIdx := rfl

/-! ## modBit -/

@[simp] theorem modBit_pending (s : State) (f : Bittern → Bittern) : (modBit s f).pending = s.pending := rfl
@[simp] theorem modBit_power (s : State) (f : Bittern → Bittern) : (modBit s f).power = s.power := rfl
@[simp] theorem modBit_units (s : State) (f : Bittern → Bittern) : (modBit s f).units = s.units := rfl
@[simp] theorem modBit_pages (s : State) (f : Bittern → Bittern) : (modBit s f).pages = s.pages := rfl
@[simp] theorem modBit_fns (s : State) (f : Bittern → Bittern) : (modBit s f).fns = s.fns := rfl
@[simp] theorem modBit_mode (s : State) (f : Bittern → Bittern) : (modBit s f).mode = s.mode := rfl
@[simp] theorem modBit_pfRequest (s : State) (f : Bittern → Bittern) : (modBit s f).pfRequest = s.pfRequest := rfl
@[simp] theorem modBit_pfActive (s : State) (f : Bittern → Bittern) : (modBit s f).pfActive = s.pfActive := rfl
@[simp] theorem modBit_cores (s : State) (f : Bittern → Bittern) : (modBit s f).cores = s.cores := rfl
@[simp] theorem modBit_mesh (s : State) (f : Bittern → Bittern) : (modBit s f).mesh = s.mesh := rfl
@[simp] theorem modBit_chains (s : State) (f : Bittern → Bittern) : (modBit s f).chains = s.chains := rfl
@[simp] theorem modBit_chainAdds (s : State) (f : Bittern → Bittern) : (modBit s f).chainAdds = s.chainAdds := rfl
@[simp] theorem modBit_ctxs (s : State) (f : Bittern → Bittern) : (modBit s f).ctxs = s.ctxs := rfl
@[simp] theorem modBit_rings (s : State) (f : Bittern → Bittern) : (modBit s f).rings = s.rings := rfl
@[simp] theorem modBit_rrNext (s : State) (f : Bittern → Bittern) : (modBit s f).rrNext = s.rrNext := rfl
@[simp] theorem modBit_drain (s : State) (f : Bittern → Bittern) : (modBit s f).drain = s.drain := rfl
@[simp] theorem modBit_queuedReset (s : State) (f : Bittern → Bittern) :
    (modBit s f).queuedReset = s.queuedReset := rfl
@[simp] theorem modBit_repart (s : State) (f : Bittern → Bittern) : (modBit s f).repart = s.repart := rfl
@[simp] theorem modBit_hbm (s : State) (f : Bittern → Bittern) : (modBit s f).hbm = s.hbm := rfl
@[simp] theorem modBit_hbmFlaws (s : State) (f : Bittern → Bittern) : (modBit s f).hbmFlaws = s.hbmFlaws := rfl
@[simp] theorem modBit_cmFlaws (s : State) (f : Bittern → Bittern) : (modBit s f).cmFlaws = s.cmFlaws := rfl
@[simp] theorem modBit_cm (s : State) (f : Bittern → Bittern) : (modBit s f).cm = s.cm := rfl
@[simp] theorem modBit_dir (s : State) (f : Bittern → Bittern) : (modBit s f).dir = s.dir := rfl
@[simp] theorem modBit_fencedAgents (s : State) (f : Bittern → Bittern) :
    (modBit s f).fencedAgents = s.fencedAgents := rfl
@[simp] theorem modBit_ports (s : State) (f : Bittern → Bittern) : (modBit s f).ports = s.ports := rfl
@[simp] theorem modBit_stork (s : State) (f : Bittern → Bittern) : (modBit s f).stork = s.stork := rfl
@[simp] theorem modBit_relay (s : State) (f : Bittern → Bittern) : (modBit s f).relay = s.relay := rfl
@[simp] theorem modBit_gun (s : State) (f : Bittern → Bittern) : (modBit s f).gun = s.gun := rfl
@[simp] theorem modBit_pacer (s : State) (f : Bittern → Bittern) : (modBit s f).pacer = s.pacer := rfl
@[simp] theorem modBit_recorder (s : State) (f : Bittern → Bittern) : (modBit s f).recorder = s.recorder := rfl
@[simp] theorem modBit_mgmt (s : State) (f : Bittern → Bittern) : (modBit s f).mgmt = s.mgmt := rfl
@[simp] theorem modBit_mailbox (s : State) (f : Bittern → Bittern) : (modBit s f).mailbox = s.mailbox := rfl
@[simp] theorem modBit_bittern (s : State) (f : Bittern → Bittern) : (modBit s f).bittern = f s.bittern := rfl
@[simp] theorem modBit_out (s : State) (f : Bittern → Bittern) : (modBit s f).out = s.out := rfl
@[simp] theorem modBit_edges (s : State) (f : Bittern → Bittern) : (modBit s f).edges = s.edges := rfl
@[simp] theorem modBit_granted (s : State) (f : Bittern → Bittern) : (modBit s f).granted = s.granted := rfl
@[simp] theorem modBit_freeIdx (s : State) (f : Bittern → Bittern) : (modBit s f).freeIdx = s.freeIdx := rfl

/-! ## modFn -/

@[simp] theorem modFn_pending (s : State) (fn : Fin 4) (f : PcieFn → PcieFn) :
    (modFn s fn f).pending = s.pending := rfl
@[simp] theorem modFn_power (s : State) (fn : Fin 4) (f : PcieFn → PcieFn) : (modFn s fn f).power = s.power := rfl
@[simp] theorem modFn_units (s : State) (fn : Fin 4) (f : PcieFn → PcieFn) : (modFn s fn f).units = s.units := rfl
@[simp] theorem modFn_pages (s : State) (fn : Fin 4) (f : PcieFn → PcieFn) : (modFn s fn f).pages = s.pages := rfl
@[simp] theorem modFn_fns (s : State) (fn : Fin 4) (f : PcieFn → PcieFn) :
    (modFn s fn f).fns = s.fns.set fn (f s.fns[fn]) := rfl
@[simp] theorem modFn_mode (s : State) (fn : Fin 4) (f : PcieFn → PcieFn) : (modFn s fn f).mode = s.mode := rfl
@[simp] theorem modFn_pfRequest (s : State) (fn : Fin 4) (f : PcieFn → PcieFn) :
    (modFn s fn f).pfRequest = s.pfRequest := rfl
@[simp] theorem modFn_pfActive (s : State) (fn : Fin 4) (f : PcieFn → PcieFn) :
    (modFn s fn f).pfActive = s.pfActive := rfl
@[simp] theorem modFn_cores (s : State) (fn : Fin 4) (f : PcieFn → PcieFn) : (modFn s fn f).cores = s.cores := rfl
@[simp] theorem modFn_mesh (s : State) (fn : Fin 4) (f : PcieFn → PcieFn) : (modFn s fn f).mesh = s.mesh := rfl
@[simp] theorem modFn_chains (s : State) (fn : Fin 4) (f : PcieFn → PcieFn) : (modFn s fn f).chains = s.chains := rfl
@[simp] theorem modFn_chainAdds (s : State) (fn : Fin 4) (f : PcieFn → PcieFn) :
    (modFn s fn f).chainAdds = s.chainAdds := rfl
@[simp] theorem modFn_ctxs (s : State) (fn : Fin 4) (f : PcieFn → PcieFn) : (modFn s fn f).ctxs = s.ctxs := rfl
@[simp] theorem modFn_rings (s : State) (fn : Fin 4) (f : PcieFn → PcieFn) : (modFn s fn f).rings = s.rings := rfl
@[simp] theorem modFn_rrNext (s : State) (fn : Fin 4) (f : PcieFn → PcieFn) : (modFn s fn f).rrNext = s.rrNext := rfl
@[simp] theorem modFn_drain (s : State) (fn : Fin 4) (f : PcieFn → PcieFn) : (modFn s fn f).drain = s.drain := rfl
@[simp] theorem modFn_queuedReset (s : State) (fn : Fin 4) (f : PcieFn → PcieFn) :
    (modFn s fn f).queuedReset = s.queuedReset := rfl
@[simp] theorem modFn_repart (s : State) (fn : Fin 4) (f : PcieFn → PcieFn) : (modFn s fn f).repart = s.repart := rfl
@[simp] theorem modFn_hbm (s : State) (fn : Fin 4) (f : PcieFn → PcieFn) : (modFn s fn f).hbm = s.hbm := rfl
@[simp] theorem modFn_hbmFlaws (s : State) (fn : Fin 4) (f : PcieFn → PcieFn) :
    (modFn s fn f).hbmFlaws = s.hbmFlaws := rfl
@[simp] theorem modFn_cmFlaws (s : State) (fn : Fin 4) (f : PcieFn → PcieFn) :
    (modFn s fn f).cmFlaws = s.cmFlaws := rfl
@[simp] theorem modFn_cm (s : State) (fn : Fin 4) (f : PcieFn → PcieFn) : (modFn s fn f).cm = s.cm := rfl
@[simp] theorem modFn_dir (s : State) (fn : Fin 4) (f : PcieFn → PcieFn) : (modFn s fn f).dir = s.dir := rfl
@[simp] theorem modFn_fencedAgents (s : State) (fn : Fin 4) (f : PcieFn → PcieFn) :
    (modFn s fn f).fencedAgents = s.fencedAgents := rfl
@[simp] theorem modFn_ports (s : State) (fn : Fin 4) (f : PcieFn → PcieFn) : (modFn s fn f).ports = s.ports := rfl
@[simp] theorem modFn_stork (s : State) (fn : Fin 4) (f : PcieFn → PcieFn) : (modFn s fn f).stork = s.stork := rfl
@[simp] theorem modFn_relay (s : State) (fn : Fin 4) (f : PcieFn → PcieFn) : (modFn s fn f).relay = s.relay := rfl
@[simp] theorem modFn_gun (s : State) (fn : Fin 4) (f : PcieFn → PcieFn) : (modFn s fn f).gun = s.gun := rfl
@[simp] theorem modFn_pacer (s : State) (fn : Fin 4) (f : PcieFn → PcieFn) : (modFn s fn f).pacer = s.pacer := rfl
@[simp] theorem modFn_recorder (s : State) (fn : Fin 4) (f : PcieFn → PcieFn) :
    (modFn s fn f).recorder = s.recorder := rfl
@[simp] theorem modFn_mgmt (s : State) (fn : Fin 4) (f : PcieFn → PcieFn) : (modFn s fn f).mgmt = s.mgmt := rfl
@[simp] theorem modFn_mailbox (s : State) (fn : Fin 4) (f : PcieFn → PcieFn) :
    (modFn s fn f).mailbox = s.mailbox := rfl
@[simp] theorem modFn_bittern (s : State) (fn : Fin 4) (f : PcieFn → PcieFn) :
    (modFn s fn f).bittern = s.bittern := rfl
@[simp] theorem modFn_out (s : State) (fn : Fin 4) (f : PcieFn → PcieFn) : (modFn s fn f).out = s.out := rfl
@[simp] theorem modFn_edges (s : State) (fn : Fin 4) (f : PcieFn → PcieFn) : (modFn s fn f).edges = s.edges := rfl
@[simp] theorem modFn_granted (s : State) (fn : Fin 4) (f : PcieFn → PcieFn) :
    (modFn s fn f).granted = s.granted := rfl
@[simp] theorem modFn_freeIdx (s : State) (fn : Fin 4) (f : PcieFn → PcieFn) :
    (modFn s fn f).freeIdx = s.freeIdx := rfl

/-! ## modRing -/

@[simp] theorem modRing_pending (s : State) (p r : Nat) (f : Ring → Ring) :
    (modRing s p r f).pending = s.pending := rfl
@[simp] theorem modRing_power (s : State) (p r : Nat) (f : Ring → Ring) : (modRing s p r f).power = s.power := rfl
@[simp] theorem modRing_units (s : State) (p r : Nat) (f : Ring → Ring) : (modRing s p r f).units = s.units := rfl
@[simp] theorem modRing_pages (s : State) (p r : Nat) (f : Ring → Ring) : (modRing s p r f).pages = s.pages := rfl
@[simp] theorem modRing_fns (s : State) (p r : Nat) (f : Ring → Ring) : (modRing s p r f).fns = s.fns := rfl
@[simp] theorem modRing_mode (s : State) (p r : Nat) (f : Ring → Ring) : (modRing s p r f).mode = s.mode := rfl
@[simp] theorem modRing_pfRequest (s : State) (p r : Nat) (f : Ring → Ring) :
    (modRing s p r f).pfRequest = s.pfRequest := rfl
@[simp] theorem modRing_pfActive (s : State) (p r : Nat) (f : Ring → Ring) :
    (modRing s p r f).pfActive = s.pfActive := rfl
@[simp] theorem modRing_cores (s : State) (p r : Nat) (f : Ring → Ring) : (modRing s p r f).cores = s.cores := rfl
@[simp] theorem modRing_mesh (s : State) (p r : Nat) (f : Ring → Ring) : (modRing s p r f).mesh = s.mesh := rfl
@[simp] theorem modRing_chains (s : State) (p r : Nat) (f : Ring → Ring) : (modRing s p r f).chains = s.chains := rfl
@[simp] theorem modRing_chainAdds (s : State) (p r : Nat) (f : Ring → Ring) :
    (modRing s p r f).chainAdds = s.chainAdds := rfl
@[simp] theorem modRing_ctxs (s : State) (p r : Nat) (f : Ring → Ring) : (modRing s p r f).ctxs = s.ctxs := rfl
@[simp] theorem modRing_rings (s : State) (p r : Nat) (f : Ring → Ring) :
    (modRing s p r f).rings = s.rings.set (ringFin p r) (f (getRing s p r)) := rfl
@[simp] theorem modRing_rrNext (s : State) (p r : Nat) (f : Ring → Ring) : (modRing s p r f).rrNext = s.rrNext := rfl
@[simp] theorem modRing_drain (s : State) (p r : Nat) (f : Ring → Ring) : (modRing s p r f).drain = s.drain := rfl
@[simp] theorem modRing_queuedReset (s : State) (p r : Nat) (f : Ring → Ring) :
    (modRing s p r f).queuedReset = s.queuedReset := rfl
@[simp] theorem modRing_repart (s : State) (p r : Nat) (f : Ring → Ring) : (modRing s p r f).repart = s.repart := rfl
@[simp] theorem modRing_hbm (s : State) (p r : Nat) (f : Ring → Ring) : (modRing s p r f).hbm = s.hbm := rfl
@[simp] theorem modRing_hbmFlaws (s : State) (p r : Nat) (f : Ring → Ring) :
    (modRing s p r f).hbmFlaws = s.hbmFlaws := rfl
@[simp] theorem modRing_cmFlaws (s : State) (p r : Nat) (f : Ring → Ring) :
    (modRing s p r f).cmFlaws = s.cmFlaws := rfl
@[simp] theorem modRing_cm (s : State) (p r : Nat) (f : Ring → Ring) : (modRing s p r f).cm = s.cm := rfl
@[simp] theorem modRing_dir (s : State) (p r : Nat) (f : Ring → Ring) : (modRing s p r f).dir = s.dir := rfl
@[simp] theorem modRing_fencedAgents (s : State) (p r : Nat) (f : Ring → Ring) :
    (modRing s p r f).fencedAgents = s.fencedAgents := rfl
@[simp] theorem modRing_ports (s : State) (p r : Nat) (f : Ring → Ring) : (modRing s p r f).ports = s.ports := rfl
@[simp] theorem modRing_stork (s : State) (p r : Nat) (f : Ring → Ring) : (modRing s p r f).stork = s.stork := rfl
@[simp] theorem modRing_relay (s : State) (p r : Nat) (f : Ring → Ring) : (modRing s p r f).relay = s.relay := rfl
@[simp] theorem modRing_gun (s : State) (p r : Nat) (f : Ring → Ring) : (modRing s p r f).gun = s.gun := rfl
@[simp] theorem modRing_pacer (s : State) (p r : Nat) (f : Ring → Ring) : (modRing s p r f).pacer = s.pacer := rfl
@[simp] theorem modRing_recorder (s : State) (p r : Nat) (f : Ring → Ring) :
    (modRing s p r f).recorder = s.recorder := rfl
@[simp] theorem modRing_mgmt (s : State) (p r : Nat) (f : Ring → Ring) : (modRing s p r f).mgmt = s.mgmt := rfl
@[simp] theorem modRing_mailbox (s : State) (p r : Nat) (f : Ring → Ring) :
    (modRing s p r f).mailbox = s.mailbox := rfl
@[simp] theorem modRing_bittern (s : State) (p r : Nat) (f : Ring → Ring) :
    (modRing s p r f).bittern = s.bittern := rfl
@[simp] theorem modRing_out (s : State) (p r : Nat) (f : Ring → Ring) : (modRing s p r f).out = s.out := rfl
@[simp] theorem modRing_edges (s : State) (p r : Nat) (f : Ring → Ring) : (modRing s p r f).edges = s.edges := rfl
@[simp] theorem modRing_granted (s : State) (p r : Nat) (f : Ring → Ring) :
    (modRing s p r f).granted = s.granted := rfl
@[simp] theorem modRing_freeIdx (s : State) (p r : Nat) (f : Ring → Ring) :
    (modRing s p r f).freeIdx = s.freeIdx := rfl

/-! ## setPort -/

@[simp] theorem setPort_pending (s : State) (m : Fin 8) (p : Port) : (setPort s m p).pending = s.pending := rfl
@[simp] theorem setPort_power (s : State) (m : Fin 8) (p : Port) : (setPort s m p).power = s.power := rfl
@[simp] theorem setPort_units (s : State) (m : Fin 8) (p : Port) : (setPort s m p).units = s.units := rfl
@[simp] theorem setPort_pages (s : State) (m : Fin 8) (p : Port) : (setPort s m p).pages = s.pages := rfl
@[simp] theorem setPort_fns (s : State) (m : Fin 8) (p : Port) : (setPort s m p).fns = s.fns := rfl
@[simp] theorem setPort_mode (s : State) (m : Fin 8) (p : Port) : (setPort s m p).mode = s.mode := rfl
@[simp] theorem setPort_pfRequest (s : State) (m : Fin 8) (p : Port) : (setPort s m p).pfRequest = s.pfRequest := rfl
@[simp] theorem setPort_pfActive (s : State) (m : Fin 8) (p : Port) : (setPort s m p).pfActive = s.pfActive := rfl
@[simp] theorem setPort_cores (s : State) (m : Fin 8) (p : Port) : (setPort s m p).cores = s.cores := rfl
@[simp] theorem setPort_mesh (s : State) (m : Fin 8) (p : Port) : (setPort s m p).mesh = s.mesh := rfl
@[simp] theorem setPort_chains (s : State) (m : Fin 8) (p : Port) : (setPort s m p).chains = s.chains := rfl
@[simp] theorem setPort_chainAdds (s : State) (m : Fin 8) (p : Port) : (setPort s m p).chainAdds = s.chainAdds := rfl
@[simp] theorem setPort_ctxs (s : State) (m : Fin 8) (p : Port) : (setPort s m p).ctxs = s.ctxs := rfl
@[simp] theorem setPort_rings (s : State) (m : Fin 8) (p : Port) : (setPort s m p).rings = s.rings := rfl
@[simp] theorem setPort_rrNext (s : State) (m : Fin 8) (p : Port) : (setPort s m p).rrNext = s.rrNext := rfl
@[simp] theorem setPort_drain (s : State) (m : Fin 8) (p : Port) : (setPort s m p).drain = s.drain := rfl
@[simp] theorem setPort_queuedReset (s : State) (m : Fin 8) (p : Port) :
    (setPort s m p).queuedReset = s.queuedReset := rfl
@[simp] theorem setPort_repart (s : State) (m : Fin 8) (p : Port) : (setPort s m p).repart = s.repart := rfl
@[simp] theorem setPort_hbm (s : State) (m : Fin 8) (p : Port) : (setPort s m p).hbm = s.hbm := rfl
@[simp] theorem setPort_hbmFlaws (s : State) (m : Fin 8) (p : Port) : (setPort s m p).hbmFlaws = s.hbmFlaws := rfl
@[simp] theorem setPort_cmFlaws (s : State) (m : Fin 8) (p : Port) : (setPort s m p).cmFlaws = s.cmFlaws := rfl
@[simp] theorem setPort_cm (s : State) (m : Fin 8) (p : Port) : (setPort s m p).cm = s.cm := rfl
@[simp] theorem setPort_dir (s : State) (m : Fin 8) (p : Port) : (setPort s m p).dir = s.dir := rfl
@[simp] theorem setPort_fencedAgents (s : State) (m : Fin 8) (p : Port) :
    (setPort s m p).fencedAgents = s.fencedAgents := rfl
@[simp] theorem setPort_ports (s : State) (m : Fin 8) (p : Port) : (setPort s m p).ports = s.ports.set m p := rfl
@[simp] theorem setPort_stork (s : State) (m : Fin 8) (p : Port) : (setPort s m p).stork = s.stork := rfl
@[simp] theorem setPort_relay (s : State) (m : Fin 8) (p : Port) : (setPort s m p).relay = s.relay := rfl
@[simp] theorem setPort_gun (s : State) (m : Fin 8) (p : Port) : (setPort s m p).gun = s.gun := rfl
@[simp] theorem setPort_pacer (s : State) (m : Fin 8) (p : Port) : (setPort s m p).pacer = s.pacer := rfl
@[simp] theorem setPort_recorder (s : State) (m : Fin 8) (p : Port) : (setPort s m p).recorder = s.recorder := rfl
@[simp] theorem setPort_mgmt (s : State) (m : Fin 8) (p : Port) : (setPort s m p).mgmt = s.mgmt := rfl
@[simp] theorem setPort_mailbox (s : State) (m : Fin 8) (p : Port) : (setPort s m p).mailbox = s.mailbox := rfl
@[simp] theorem setPort_bittern (s : State) (m : Fin 8) (p : Port) : (setPort s m p).bittern = s.bittern := rfl
@[simp] theorem setPort_out (s : State) (m : Fin 8) (p : Port) : (setPort s m p).out = s.out := rfl
@[simp] theorem setPort_edges (s : State) (m : Fin 8) (p : Port) : (setPort s m p).edges = s.edges := rfl
@[simp] theorem setPort_granted (s : State) (m : Fin 8) (p : Port) : (setPort s m p).granted = s.granted := rfl
@[simp] theorem setPort_freeIdx (s : State) (m : Fin 8) (p : Port) : (setPort s m p).freeIdx = s.freeIdx := rfl

/-! ## modPort -/

@[simp] theorem modPort_pending (s : State) (m : Fin 8) (f : Port → Port) : (modPort s m f).pending = s.pending := rfl
@[simp] theorem modPort_power (s : State) (m : Fin 8) (f : Port → Port) : (modPort s m f).power = s.power := rfl
@[simp] theorem modPort_units (s : State) (m : Fin 8) (f : Port → Port) : (modPort s m f).units = s.units := rfl
@[simp] theorem modPort_pages (s : State) (m : Fin 8) (f : Port → Port) : (modPort s m f).pages = s.pages := rfl
@[simp] theorem modPort_fns (s : State) (m : Fin 8) (f : Port → Port) : (modPort s m f).fns = s.fns := rfl
@[simp] theorem modPort_mode (s : State) (m : Fin 8) (f : Port → Port) : (modPort s m f).mode = s.mode := rfl
@[simp] theorem modPort_pfRequest (s : State) (m : Fin 8) (f : Port → Port) :
    (modPort s m f).pfRequest = s.pfRequest := rfl
@[simp] theorem modPort_pfActive (s : State) (m : Fin 8) (f : Port → Port) :
    (modPort s m f).pfActive = s.pfActive := rfl
@[simp] theorem modPort_cores (s : State) (m : Fin 8) (f : Port → Port) : (modPort s m f).cores = s.cores := rfl
@[simp] theorem modPort_mesh (s : State) (m : Fin 8) (f : Port → Port) : (modPort s m f).mesh = s.mesh := rfl
@[simp] theorem modPort_chains (s : State) (m : Fin 8) (f : Port → Port) : (modPort s m f).chains = s.chains := rfl
@[simp] theorem modPort_chainAdds (s : State) (m : Fin 8) (f : Port → Port) :
    (modPort s m f).chainAdds = s.chainAdds := rfl
@[simp] theorem modPort_ctxs (s : State) (m : Fin 8) (f : Port → Port) : (modPort s m f).ctxs = s.ctxs := rfl
@[simp] theorem modPort_rings (s : State) (m : Fin 8) (f : Port → Port) : (modPort s m f).rings = s.rings := rfl
@[simp] theorem modPort_rrNext (s : State) (m : Fin 8) (f : Port → Port) : (modPort s m f).rrNext = s.rrNext := rfl
@[simp] theorem modPort_drain (s : State) (m : Fin 8) (f : Port → Port) : (modPort s m f).drain = s.drain := rfl
@[simp] theorem modPort_queuedReset (s : State) (m : Fin 8) (f : Port → Port) :
    (modPort s m f).queuedReset = s.queuedReset := rfl
@[simp] theorem modPort_repart (s : State) (m : Fin 8) (f : Port → Port) : (modPort s m f).repart = s.repart := rfl
@[simp] theorem modPort_hbm (s : State) (m : Fin 8) (f : Port → Port) : (modPort s m f).hbm = s.hbm := rfl
@[simp] theorem modPort_hbmFlaws (s : State) (m : Fin 8) (f : Port → Port) :
    (modPort s m f).hbmFlaws = s.hbmFlaws := rfl
@[simp] theorem modPort_cmFlaws (s : State) (m : Fin 8) (f : Port → Port) : (modPort s m f).cmFlaws = s.cmFlaws := rfl
@[simp] theorem modPort_cm (s : State) (m : Fin 8) (f : Port → Port) : (modPort s m f).cm = s.cm := rfl
@[simp] theorem modPort_dir (s : State) (m : Fin 8) (f : Port → Port) : (modPort s m f).dir = s.dir := rfl
@[simp] theorem modPort_fencedAgents (s : State) (m : Fin 8) (f : Port → Port) :
    (modPort s m f).fencedAgents = s.fencedAgents := rfl
@[simp] theorem modPort_ports (s : State) (m : Fin 8) (f : Port → Port) :
    (modPort s m f).ports = s.ports.set m (f s.ports[m]) := rfl
@[simp] theorem modPort_stork (s : State) (m : Fin 8) (f : Port → Port) : (modPort s m f).stork = s.stork := rfl
@[simp] theorem modPort_relay (s : State) (m : Fin 8) (f : Port → Port) : (modPort s m f).relay = s.relay := rfl
@[simp] theorem modPort_gun (s : State) (m : Fin 8) (f : Port → Port) : (modPort s m f).gun = s.gun := rfl
@[simp] theorem modPort_pacer (s : State) (m : Fin 8) (f : Port → Port) : (modPort s m f).pacer = s.pacer := rfl
@[simp] theorem modPort_recorder (s : State) (m : Fin 8) (f : Port → Port) :
    (modPort s m f).recorder = s.recorder := rfl
@[simp] theorem modPort_mgmt (s : State) (m : Fin 8) (f : Port → Port) : (modPort s m f).mgmt = s.mgmt := rfl
@[simp] theorem modPort_mailbox (s : State) (m : Fin 8) (f : Port → Port) : (modPort s m f).mailbox = s.mailbox := rfl
@[simp] theorem modPort_bittern (s : State) (m : Fin 8) (f : Port → Port) : (modPort s m f).bittern = s.bittern := rfl
@[simp] theorem modPort_out (s : State) (m : Fin 8) (f : Port → Port) : (modPort s m f).out = s.out := rfl
@[simp] theorem modPort_edges (s : State) (m : Fin 8) (f : Port → Port) : (modPort s m f).edges = s.edges := rfl
@[simp] theorem modPort_granted (s : State) (m : Fin 8) (f : Port → Port) : (modPort s m f).granted = s.granted := rfl
@[simp] theorem modPort_freeIdx (s : State) (m : Fin 8) (f : Port → Port) : (modPort s m f).freeIdx = s.freeIdx := rfl

/-! ## setGrp -/

@[simp] theorem setGrp_pending (s : State) (g : Nat) (x : RGroup) : (setGrp s g x).pending = s.pending := rfl
@[simp] theorem setGrp_power (s : State) (g : Nat) (x : RGroup) : (setGrp s g x).power = s.power := rfl
@[simp] theorem setGrp_units (s : State) (g : Nat) (x : RGroup) : (setGrp s g x).units = s.units := rfl
@[simp] theorem setGrp_pages (s : State) (g : Nat) (x : RGroup) : (setGrp s g x).pages = s.pages := rfl
@[simp] theorem setGrp_fns (s : State) (g : Nat) (x : RGroup) : (setGrp s g x).fns = s.fns := rfl
@[simp] theorem setGrp_mode (s : State) (g : Nat) (x : RGroup) : (setGrp s g x).mode = s.mode := rfl
@[simp] theorem setGrp_pfRequest (s : State) (g : Nat) (x : RGroup) : (setGrp s g x).pfRequest = s.pfRequest := rfl
@[simp] theorem setGrp_pfActive (s : State) (g : Nat) (x : RGroup) : (setGrp s g x).pfActive = s.pfActive := rfl
@[simp] theorem setGrp_cores (s : State) (g : Nat) (x : RGroup) : (setGrp s g x).cores = s.cores := rfl
@[simp] theorem setGrp_mesh (s : State) (g : Nat) (x : RGroup) : (setGrp s g x).mesh = s.mesh := rfl
@[simp] theorem setGrp_chains (s : State) (g : Nat) (x : RGroup) : (setGrp s g x).chains = s.chains := rfl
@[simp] theorem setGrp_chainAdds (s : State) (g : Nat) (x : RGroup) : (setGrp s g x).chainAdds = s.chainAdds := rfl
@[simp] theorem setGrp_ctxs (s : State) (g : Nat) (x : RGroup) : (setGrp s g x).ctxs = s.ctxs := rfl
@[simp] theorem setGrp_rings (s : State) (g : Nat) (x : RGroup) : (setGrp s g x).rings = s.rings := rfl
@[simp] theorem setGrp_rrNext (s : State) (g : Nat) (x : RGroup) : (setGrp s g x).rrNext = s.rrNext := rfl
@[simp] theorem setGrp_drain (s : State) (g : Nat) (x : RGroup) : (setGrp s g x).drain = s.drain := rfl
@[simp] theorem setGrp_queuedReset (s : State) (g : Nat) (x : RGroup) :
    (setGrp s g x).queuedReset = s.queuedReset := rfl
@[simp] theorem setGrp_repart (s : State) (g : Nat) (x : RGroup) : (setGrp s g x).repart = s.repart := rfl
@[simp] theorem setGrp_hbm (s : State) (g : Nat) (x : RGroup) : (setGrp s g x).hbm = s.hbm := rfl
@[simp] theorem setGrp_hbmFlaws (s : State) (g : Nat) (x : RGroup) : (setGrp s g x).hbmFlaws = s.hbmFlaws := rfl
@[simp] theorem setGrp_cmFlaws (s : State) (g : Nat) (x : RGroup) : (setGrp s g x).cmFlaws = s.cmFlaws := rfl
@[simp] theorem setGrp_cm (s : State) (g : Nat) (x : RGroup) : (setGrp s g x).cm = s.cm := rfl
@[simp] theorem setGrp_dir (s : State) (g : Nat) (x : RGroup) : (setGrp s g x).dir = s.dir := rfl
@[simp] theorem setGrp_fencedAgents (s : State) (g : Nat) (x : RGroup) :
    (setGrp s g x).fencedAgents = s.fencedAgents := rfl
@[simp] theorem setGrp_ports (s : State) (g : Nat) (x : RGroup) : (setGrp s g x).ports = s.ports := rfl
@[simp] theorem setGrp_stork (s : State) (g : Nat) (x : RGroup) : (setGrp s g x).stork = s.stork := rfl
@[simp] theorem setGrp_gun (s : State) (g : Nat) (x : RGroup) : (setGrp s g x).gun = s.gun := rfl
@[simp] theorem setGrp_pacer (s : State) (g : Nat) (x : RGroup) : (setGrp s g x).pacer = s.pacer := rfl
@[simp] theorem setGrp_recorder (s : State) (g : Nat) (x : RGroup) : (setGrp s g x).recorder = s.recorder := rfl
@[simp] theorem setGrp_mgmt (s : State) (g : Nat) (x : RGroup) : (setGrp s g x).mgmt = s.mgmt := rfl
@[simp] theorem setGrp_mailbox (s : State) (g : Nat) (x : RGroup) : (setGrp s g x).mailbox = s.mailbox := rfl
@[simp] theorem setGrp_bittern (s : State) (g : Nat) (x : RGroup) : (setGrp s g x).bittern = s.bittern := rfl
@[simp] theorem setGrp_out (s : State) (g : Nat) (x : RGroup) : (setGrp s g x).out = s.out := rfl
@[simp] theorem setGrp_edges (s : State) (g : Nat) (x : RGroup) : (setGrp s g x).edges = s.edges := rfl
@[simp] theorem setGrp_granted (s : State) (g : Nat) (x : RGroup) : (setGrp s g x).granted = s.granted := rfl
@[simp] theorem setGrp_freeIdx (s : State) (g : Nat) (x : RGroup) : (setGrp s g x).freeIdx = s.freeIdx := rfl

/-! ## modGrp -/

@[simp] theorem modGrp_pending (s : State) (g : Nat) (f : RGroup → RGroup) : (modGrp s g f).pending = s.pending := rfl
@[simp] theorem modGrp_power (s : State) (g : Nat) (f : RGroup → RGroup) : (modGrp s g f).power = s.power := rfl
@[simp] theorem modGrp_units (s : State) (g : Nat) (f : RGroup → RGroup) : (modGrp s g f).units = s.units := rfl
@[simp] theorem modGrp_pages (s : State) (g : Nat) (f : RGroup → RGroup) : (modGrp s g f).pages = s.pages := rfl
@[simp] theorem modGrp_fns (s : State) (g : Nat) (f : RGroup → RGroup) : (modGrp s g f).fns = s.fns := rfl
@[simp] theorem modGrp_mode (s : State) (g : Nat) (f : RGroup → RGroup) : (modGrp s g f).mode = s.mode := rfl
@[simp] theorem modGrp_pfRequest (s : State) (g : Nat) (f : RGroup → RGroup) :
    (modGrp s g f).pfRequest = s.pfRequest := rfl
@[simp] theorem modGrp_pfActive (s : State) (g : Nat) (f : RGroup → RGroup) :
    (modGrp s g f).pfActive = s.pfActive := rfl
@[simp] theorem modGrp_cores (s : State) (g : Nat) (f : RGroup → RGroup) : (modGrp s g f).cores = s.cores := rfl
@[simp] theorem modGrp_mesh (s : State) (g : Nat) (f : RGroup → RGroup) : (modGrp s g f).mesh = s.mesh := rfl
@[simp] theorem modGrp_chains (s : State) (g : Nat) (f : RGroup → RGroup) : (modGrp s g f).chains = s.chains := rfl
@[simp] theorem modGrp_chainAdds (s : State) (g : Nat) (f : RGroup → RGroup) :
    (modGrp s g f).chainAdds = s.chainAdds := rfl
@[simp] theorem modGrp_ctxs (s : State) (g : Nat) (f : RGroup → RGroup) : (modGrp s g f).ctxs = s.ctxs := rfl
@[simp] theorem modGrp_rings (s : State) (g : Nat) (f : RGroup → RGroup) : (modGrp s g f).rings = s.rings := rfl
@[simp] theorem modGrp_rrNext (s : State) (g : Nat) (f : RGroup → RGroup) : (modGrp s g f).rrNext = s.rrNext := rfl
@[simp] theorem modGrp_drain (s : State) (g : Nat) (f : RGroup → RGroup) : (modGrp s g f).drain = s.drain := rfl
@[simp] theorem modGrp_queuedReset (s : State) (g : Nat) (f : RGroup → RGroup) :
    (modGrp s g f).queuedReset = s.queuedReset := rfl
@[simp] theorem modGrp_repart (s : State) (g : Nat) (f : RGroup → RGroup) : (modGrp s g f).repart = s.repart := rfl
@[simp] theorem modGrp_hbm (s : State) (g : Nat) (f : RGroup → RGroup) : (modGrp s g f).hbm = s.hbm := rfl
@[simp] theorem modGrp_hbmFlaws (s : State) (g : Nat) (f : RGroup → RGroup) :
    (modGrp s g f).hbmFlaws = s.hbmFlaws := rfl
@[simp] theorem modGrp_cmFlaws (s : State) (g : Nat) (f : RGroup → RGroup) : (modGrp s g f).cmFlaws = s.cmFlaws := rfl
@[simp] theorem modGrp_cm (s : State) (g : Nat) (f : RGroup → RGroup) : (modGrp s g f).cm = s.cm := rfl
@[simp] theorem modGrp_dir (s : State) (g : Nat) (f : RGroup → RGroup) : (modGrp s g f).dir = s.dir := rfl
@[simp] theorem modGrp_fencedAgents (s : State) (g : Nat) (f : RGroup → RGroup) :
    (modGrp s g f).fencedAgents = s.fencedAgents := rfl
@[simp] theorem modGrp_ports (s : State) (g : Nat) (f : RGroup → RGroup) : (modGrp s g f).ports = s.ports := rfl
@[simp] theorem modGrp_stork (s : State) (g : Nat) (f : RGroup → RGroup) : (modGrp s g f).stork = s.stork := rfl
@[simp] theorem modGrp_gun (s : State) (g : Nat) (f : RGroup → RGroup) : (modGrp s g f).gun = s.gun := rfl
@[simp] theorem modGrp_pacer (s : State) (g : Nat) (f : RGroup → RGroup) : (modGrp s g f).pacer = s.pacer := rfl
@[simp] theorem modGrp_recorder (s : State) (g : Nat) (f : RGroup → RGroup) :
    (modGrp s g f).recorder = s.recorder := rfl
@[simp] theorem modGrp_mgmt (s : State) (g : Nat) (f : RGroup → RGroup) : (modGrp s g f).mgmt = s.mgmt := rfl
@[simp] theorem modGrp_mailbox (s : State) (g : Nat) (f : RGroup → RGroup) : (modGrp s g f).mailbox = s.mailbox := rfl
@[simp] theorem modGrp_bittern (s : State) (g : Nat) (f : RGroup → RGroup) : (modGrp s g f).bittern = s.bittern := rfl
@[simp] theorem modGrp_out (s : State) (g : Nat) (f : RGroup → RGroup) : (modGrp s g f).out = s.out := rfl
@[simp] theorem modGrp_edges (s : State) (g : Nat) (f : RGroup → RGroup) : (modGrp s g f).edges = s.edges := rfl
@[simp] theorem modGrp_granted (s : State) (g : Nat) (f : RGroup → RGroup) : (modGrp s g f).granted = s.granted := rfl
@[simp] theorem modGrp_freeIdx (s : State) (g : Nat) (f : RGroup → RGroup) : (modGrp s g f).freeIdx = s.freeIdx := rfl

/-! ## modGun -/

@[simp] theorem modGun_pending (s : State) (f : Gun → Gun) : (modGun s f).pending = s.pending := rfl
@[simp] theorem modGun_power (s : State) (f : Gun → Gun) : (modGun s f).power = s.power := rfl
@[simp] theorem modGun_units (s : State) (f : Gun → Gun) : (modGun s f).units = s.units := rfl
@[simp] theorem modGun_pages (s : State) (f : Gun → Gun) : (modGun s f).pages = s.pages := rfl
@[simp] theorem modGun_fns (s : State) (f : Gun → Gun) : (modGun s f).fns = s.fns := rfl
@[simp] theorem modGun_mode (s : State) (f : Gun → Gun) : (modGun s f).mode = s.mode := rfl
@[simp] theorem modGun_pfRequest (s : State) (f : Gun → Gun) : (modGun s f).pfRequest = s.pfRequest := rfl
@[simp] theorem modGun_pfActive (s : State) (f : Gun → Gun) : (modGun s f).pfActive = s.pfActive := rfl
@[simp] theorem modGun_cores (s : State) (f : Gun → Gun) : (modGun s f).cores = s.cores := rfl
@[simp] theorem modGun_mesh (s : State) (f : Gun → Gun) : (modGun s f).mesh = s.mesh := rfl
@[simp] theorem modGun_chains (s : State) (f : Gun → Gun) : (modGun s f).chains = s.chains := rfl
@[simp] theorem modGun_chainAdds (s : State) (f : Gun → Gun) : (modGun s f).chainAdds = s.chainAdds := rfl
@[simp] theorem modGun_ctxs (s : State) (f : Gun → Gun) : (modGun s f).ctxs = s.ctxs := rfl
@[simp] theorem modGun_rings (s : State) (f : Gun → Gun) : (modGun s f).rings = s.rings := rfl
@[simp] theorem modGun_rrNext (s : State) (f : Gun → Gun) : (modGun s f).rrNext = s.rrNext := rfl
@[simp] theorem modGun_drain (s : State) (f : Gun → Gun) : (modGun s f).drain = s.drain := rfl
@[simp] theorem modGun_queuedReset (s : State) (f : Gun → Gun) : (modGun s f).queuedReset = s.queuedReset := rfl
@[simp] theorem modGun_repart (s : State) (f : Gun → Gun) : (modGun s f).repart = s.repart := rfl
@[simp] theorem modGun_hbm (s : State) (f : Gun → Gun) : (modGun s f).hbm = s.hbm := rfl
@[simp] theorem modGun_hbmFlaws (s : State) (f : Gun → Gun) : (modGun s f).hbmFlaws = s.hbmFlaws := rfl
@[simp] theorem modGun_cmFlaws (s : State) (f : Gun → Gun) : (modGun s f).cmFlaws = s.cmFlaws := rfl
@[simp] theorem modGun_cm (s : State) (f : Gun → Gun) : (modGun s f).cm = s.cm := rfl
@[simp] theorem modGun_dir (s : State) (f : Gun → Gun) : (modGun s f).dir = s.dir := rfl
@[simp] theorem modGun_fencedAgents (s : State) (f : Gun → Gun) : (modGun s f).fencedAgents = s.fencedAgents := rfl
@[simp] theorem modGun_ports (s : State) (f : Gun → Gun) : (modGun s f).ports = s.ports := rfl
@[simp] theorem modGun_stork (s : State) (f : Gun → Gun) : (modGun s f).stork = s.stork := rfl
@[simp] theorem modGun_relay (s : State) (f : Gun → Gun) : (modGun s f).relay = s.relay := rfl
@[simp] theorem modGun_gun (s : State) (f : Gun → Gun) : (modGun s f).gun = f s.gun := rfl
@[simp] theorem modGun_pacer (s : State) (f : Gun → Gun) : (modGun s f).pacer = s.pacer := rfl
@[simp] theorem modGun_recorder (s : State) (f : Gun → Gun) : (modGun s f).recorder = s.recorder := rfl
@[simp] theorem modGun_mgmt (s : State) (f : Gun → Gun) : (modGun s f).mgmt = s.mgmt := rfl
@[simp] theorem modGun_mailbox (s : State) (f : Gun → Gun) : (modGun s f).mailbox = s.mailbox := rfl
@[simp] theorem modGun_bittern (s : State) (f : Gun → Gun) : (modGun s f).bittern = s.bittern := rfl
@[simp] theorem modGun_out (s : State) (f : Gun → Gun) : (modGun s f).out = s.out := rfl
@[simp] theorem modGun_edges (s : State) (f : Gun → Gun) : (modGun s f).edges = s.edges := rfl
@[simp] theorem modGun_granted (s : State) (f : Gun → Gun) : (modGun s f).granted = s.granted := rfl
@[simp] theorem modGun_freeIdx (s : State) (f : Gun → Gun) : (modGun s f).freeIdx = s.freeIdx := rfl

/-! ## modPacer -/

@[simp] theorem modPacer_pending (s : State) (f : Pacer → Pacer) : (modPacer s f).pending = s.pending := rfl
@[simp] theorem modPacer_power (s : State) (f : Pacer → Pacer) : (modPacer s f).power = s.power := rfl
@[simp] theorem modPacer_units (s : State) (f : Pacer → Pacer) : (modPacer s f).units = s.units := rfl
@[simp] theorem modPacer_pages (s : State) (f : Pacer → Pacer) : (modPacer s f).pages = s.pages := rfl
@[simp] theorem modPacer_fns (s : State) (f : Pacer → Pacer) : (modPacer s f).fns = s.fns := rfl
@[simp] theorem modPacer_mode (s : State) (f : Pacer → Pacer) : (modPacer s f).mode = s.mode := rfl
@[simp] theorem modPacer_pfRequest (s : State) (f : Pacer → Pacer) : (modPacer s f).pfRequest = s.pfRequest := rfl
@[simp] theorem modPacer_pfActive (s : State) (f : Pacer → Pacer) : (modPacer s f).pfActive = s.pfActive := rfl
@[simp] theorem modPacer_cores (s : State) (f : Pacer → Pacer) : (modPacer s f).cores = s.cores := rfl
@[simp] theorem modPacer_mesh (s : State) (f : Pacer → Pacer) : (modPacer s f).mesh = s.mesh := rfl
@[simp] theorem modPacer_chains (s : State) (f : Pacer → Pacer) : (modPacer s f).chains = s.chains := rfl
@[simp] theorem modPacer_chainAdds (s : State) (f : Pacer → Pacer) : (modPacer s f).chainAdds = s.chainAdds := rfl
@[simp] theorem modPacer_ctxs (s : State) (f : Pacer → Pacer) : (modPacer s f).ctxs = s.ctxs := rfl
@[simp] theorem modPacer_rings (s : State) (f : Pacer → Pacer) : (modPacer s f).rings = s.rings := rfl
@[simp] theorem modPacer_rrNext (s : State) (f : Pacer → Pacer) : (modPacer s f).rrNext = s.rrNext := rfl
@[simp] theorem modPacer_drain (s : State) (f : Pacer → Pacer) : (modPacer s f).drain = s.drain := rfl
@[simp] theorem modPacer_queuedReset (s : State) (f : Pacer → Pacer) :
    (modPacer s f).queuedReset = s.queuedReset := rfl
@[simp] theorem modPacer_repart (s : State) (f : Pacer → Pacer) : (modPacer s f).repart = s.repart := rfl
@[simp] theorem modPacer_hbm (s : State) (f : Pacer → Pacer) : (modPacer s f).hbm = s.hbm := rfl
@[simp] theorem modPacer_hbmFlaws (s : State) (f : Pacer → Pacer) : (modPacer s f).hbmFlaws = s.hbmFlaws := rfl
@[simp] theorem modPacer_cmFlaws (s : State) (f : Pacer → Pacer) : (modPacer s f).cmFlaws = s.cmFlaws := rfl
@[simp] theorem modPacer_cm (s : State) (f : Pacer → Pacer) : (modPacer s f).cm = s.cm := rfl
@[simp] theorem modPacer_dir (s : State) (f : Pacer → Pacer) : (modPacer s f).dir = s.dir := rfl
@[simp] theorem modPacer_fencedAgents (s : State) (f : Pacer → Pacer) :
    (modPacer s f).fencedAgents = s.fencedAgents := rfl
@[simp] theorem modPacer_ports (s : State) (f : Pacer → Pacer) : (modPacer s f).ports = s.ports := rfl
@[simp] theorem modPacer_stork (s : State) (f : Pacer → Pacer) : (modPacer s f).stork = s.stork := rfl
@[simp] theorem modPacer_relay (s : State) (f : Pacer → Pacer) : (modPacer s f).relay = s.relay := rfl
@[simp] theorem modPacer_gun (s : State) (f : Pacer → Pacer) : (modPacer s f).gun = s.gun := rfl
@[simp] theorem modPacer_pacer (s : State) (f : Pacer → Pacer) : (modPacer s f).pacer = f s.pacer := rfl
@[simp] theorem modPacer_recorder (s : State) (f : Pacer → Pacer) : (modPacer s f).recorder = s.recorder := rfl
@[simp] theorem modPacer_mgmt (s : State) (f : Pacer → Pacer) : (modPacer s f).mgmt = s.mgmt := rfl
@[simp] theorem modPacer_mailbox (s : State) (f : Pacer → Pacer) : (modPacer s f).mailbox = s.mailbox := rfl
@[simp] theorem modPacer_bittern (s : State) (f : Pacer → Pacer) : (modPacer s f).bittern = s.bittern := rfl
@[simp] theorem modPacer_out (s : State) (f : Pacer → Pacer) : (modPacer s f).out = s.out := rfl
@[simp] theorem modPacer_edges (s : State) (f : Pacer → Pacer) : (modPacer s f).edges = s.edges := rfl
@[simp] theorem modPacer_granted (s : State) (f : Pacer → Pacer) : (modPacer s f).granted = s.granted := rfl
@[simp] theorem modPacer_freeIdx (s : State) (f : Pacer → Pacer) : (modPacer s f).freeIdx = s.freeIdx := rfl

/-! ## setDir -/

@[simp] theorem setDir_pending (s : State) (line : Nat) (d : DirLine) : (setDir s line d).pending = s.pending := rfl
@[simp] theorem setDir_power (s : State) (line : Nat) (d : DirLine) : (setDir s line d).power = s.power := rfl
@[simp] theorem setDir_units (s : State) (line : Nat) (d : DirLine) : (setDir s line d).units = s.units := rfl
@[simp] theorem setDir_pages (s : State) (line : Nat) (d : DirLine) : (setDir s line d).pages = s.pages := rfl
@[simp] theorem setDir_fns (s : State) (line : Nat) (d : DirLine) : (setDir s line d).fns = s.fns := rfl
@[simp] theorem setDir_mode (s : State) (line : Nat) (d : DirLine) : (setDir s line d).mode = s.mode := rfl
@[simp] theorem setDir_pfRequest (s : State) (line : Nat) (d : DirLine) :
    (setDir s line d).pfRequest = s.pfRequest := rfl
@[simp] theorem setDir_pfActive (s : State) (line : Nat) (d : DirLine) :
    (setDir s line d).pfActive = s.pfActive := rfl
@[simp] theorem setDir_cores (s : State) (line : Nat) (d : DirLine) : (setDir s line d).cores = s.cores := rfl
@[simp] theorem setDir_mesh (s : State) (line : Nat) (d : DirLine) : (setDir s line d).mesh = s.mesh := rfl
@[simp] theorem setDir_chains (s : State) (line : Nat) (d : DirLine) : (setDir s line d).chains = s.chains := rfl
@[simp] theorem setDir_chainAdds (s : State) (line : Nat) (d : DirLine) :
    (setDir s line d).chainAdds = s.chainAdds := rfl
@[simp] theorem setDir_ctxs (s : State) (line : Nat) (d : DirLine) : (setDir s line d).ctxs = s.ctxs := rfl
@[simp] theorem setDir_rings (s : State) (line : Nat) (d : DirLine) : (setDir s line d).rings = s.rings := rfl
@[simp] theorem setDir_rrNext (s : State) (line : Nat) (d : DirLine) : (setDir s line d).rrNext = s.rrNext := rfl
@[simp] theorem setDir_drain (s : State) (line : Nat) (d : DirLine) : (setDir s line d).drain = s.drain := rfl
@[simp] theorem setDir_queuedReset (s : State) (line : Nat) (d : DirLine) :
    (setDir s line d).queuedReset = s.queuedReset := rfl
@[simp] theorem setDir_repart (s : State) (line : Nat) (d : DirLine) : (setDir s line d).repart = s.repart := rfl
@[simp] theorem setDir_hbm (s : State) (line : Nat) (d : DirLine) : (setDir s line d).hbm = s.hbm := rfl
@[simp] theorem setDir_hbmFlaws (s : State) (line : Nat) (d : DirLine) :
    (setDir s line d).hbmFlaws = s.hbmFlaws := rfl
@[simp] theorem setDir_cmFlaws (s : State) (line : Nat) (d : DirLine) : (setDir s line d).cmFlaws = s.cmFlaws := rfl
@[simp] theorem setDir_cm (s : State) (line : Nat) (d : DirLine) : (setDir s line d).cm = s.cm := rfl
@[simp] theorem setDir_fencedAgents (s : State) (line : Nat) (d : DirLine) :
    (setDir s line d).fencedAgents = s.fencedAgents := rfl
@[simp] theorem setDir_ports (s : State) (line : Nat) (d : DirLine) : (setDir s line d).ports = s.ports := rfl
@[simp] theorem setDir_stork (s : State) (line : Nat) (d : DirLine) : (setDir s line d).stork = s.stork := rfl
@[simp] theorem setDir_relay (s : State) (line : Nat) (d : DirLine) : (setDir s line d).relay = s.relay := rfl
@[simp] theorem setDir_gun (s : State) (line : Nat) (d : DirLine) : (setDir s line d).gun = s.gun := rfl
@[simp] theorem setDir_pacer (s : State) (line : Nat) (d : DirLine) : (setDir s line d).pacer = s.pacer := rfl
@[simp] theorem setDir_recorder (s : State) (line : Nat) (d : DirLine) :
    (setDir s line d).recorder = s.recorder := rfl
@[simp] theorem setDir_mgmt (s : State) (line : Nat) (d : DirLine) : (setDir s line d).mgmt = s.mgmt := rfl
@[simp] theorem setDir_mailbox (s : State) (line : Nat) (d : DirLine) : (setDir s line d).mailbox = s.mailbox := rfl
@[simp] theorem setDir_bittern (s : State) (line : Nat) (d : DirLine) : (setDir s line d).bittern = s.bittern := rfl
@[simp] theorem setDir_out (s : State) (line : Nat) (d : DirLine) : (setDir s line d).out = s.out := rfl
@[simp] theorem setDir_edges (s : State) (line : Nat) (d : DirLine) : (setDir s line d).edges = s.edges := rfl
@[simp] theorem setDir_granted (s : State) (line : Nat) (d : DirLine) : (setDir s line d).granted = s.granted := rfl
@[simp] theorem setDir_freeIdx (s : State) (line : Nat) (d : DirLine) : (setDir s line d).freeIdx = s.freeIdx := rfl

/-! ## takeCtx -/

@[simp] theorem takeCtx_pending (s : State) (tag : Nat) (x : Ctx) : (takeCtx s tag x).pending = s.pending := rfl
@[simp] theorem takeCtx_power (s : State) (tag : Nat) (x : Ctx) : (takeCtx s tag x).power = s.power := rfl
@[simp] theorem takeCtx_units (s : State) (tag : Nat) (x : Ctx) : (takeCtx s tag x).units = s.units := rfl
@[simp] theorem takeCtx_pages (s : State) (tag : Nat) (x : Ctx) : (takeCtx s tag x).pages = s.pages := rfl
@[simp] theorem takeCtx_fns (s : State) (tag : Nat) (x : Ctx) : (takeCtx s tag x).fns = s.fns := rfl
@[simp] theorem takeCtx_mode (s : State) (tag : Nat) (x : Ctx) : (takeCtx s tag x).mode = s.mode := rfl
@[simp] theorem takeCtx_pfRequest (s : State) (tag : Nat) (x : Ctx) : (takeCtx s tag x).pfRequest = s.pfRequest := rfl
@[simp] theorem takeCtx_pfActive (s : State) (tag : Nat) (x : Ctx) : (takeCtx s tag x).pfActive = s.pfActive := rfl
@[simp] theorem takeCtx_cores (s : State) (tag : Nat) (x : Ctx) : (takeCtx s tag x).cores = s.cores := rfl
@[simp] theorem takeCtx_mesh (s : State) (tag : Nat) (x : Ctx) : (takeCtx s tag x).mesh = s.mesh := rfl
@[simp] theorem takeCtx_chains (s : State) (tag : Nat) (x : Ctx) : (takeCtx s tag x).chains = s.chains := rfl
@[simp] theorem takeCtx_chainAdds (s : State) (tag : Nat) (x : Ctx) : (takeCtx s tag x).chainAdds = s.chainAdds := rfl
@[simp] theorem takeCtx_rings (s : State) (tag : Nat) (x : Ctx) : (takeCtx s tag x).rings = s.rings := rfl
@[simp] theorem takeCtx_rrNext (s : State) (tag : Nat) (x : Ctx) : (takeCtx s tag x).rrNext = s.rrNext := rfl
@[simp] theorem takeCtx_drain (s : State) (tag : Nat) (x : Ctx) : (takeCtx s tag x).drain = s.drain := rfl
@[simp] theorem takeCtx_queuedReset (s : State) (tag : Nat) (x : Ctx) :
    (takeCtx s tag x).queuedReset = s.queuedReset := rfl
@[simp] theorem takeCtx_repart (s : State) (tag : Nat) (x : Ctx) : (takeCtx s tag x).repart = s.repart := rfl
@[simp] theorem takeCtx_hbm (s : State) (tag : Nat) (x : Ctx) : (takeCtx s tag x).hbm = s.hbm := rfl
@[simp] theorem takeCtx_hbmFlaws (s : State) (tag : Nat) (x : Ctx) : (takeCtx s tag x).hbmFlaws = s.hbmFlaws := rfl
@[simp] theorem takeCtx_cmFlaws (s : State) (tag : Nat) (x : Ctx) : (takeCtx s tag x).cmFlaws = s.cmFlaws := rfl
@[simp] theorem takeCtx_cm (s : State) (tag : Nat) (x : Ctx) : (takeCtx s tag x).cm = s.cm := rfl
@[simp] theorem takeCtx_dir (s : State) (tag : Nat) (x : Ctx) : (takeCtx s tag x).dir = s.dir := rfl
@[simp] theorem takeCtx_fencedAgents (s : State) (tag : Nat) (x : Ctx) :
    (takeCtx s tag x).fencedAgents = s.fencedAgents := rfl
@[simp] theorem takeCtx_ports (s : State) (tag : Nat) (x : Ctx) : (takeCtx s tag x).ports = s.ports := rfl
@[simp] theorem takeCtx_stork (s : State) (tag : Nat) (x : Ctx) : (takeCtx s tag x).stork = s.stork := rfl
@[simp] theorem takeCtx_relay (s : State) (tag : Nat) (x : Ctx) : (takeCtx s tag x).relay = s.relay := rfl
@[simp] theorem takeCtx_gun (s : State) (tag : Nat) (x : Ctx) : (takeCtx s tag x).gun = s.gun := rfl
@[simp] theorem takeCtx_pacer (s : State) (tag : Nat) (x : Ctx) : (takeCtx s tag x).pacer = s.pacer := rfl
@[simp] theorem takeCtx_recorder (s : State) (tag : Nat) (x : Ctx) : (takeCtx s tag x).recorder = s.recorder := rfl
@[simp] theorem takeCtx_mgmt (s : State) (tag : Nat) (x : Ctx) : (takeCtx s tag x).mgmt = s.mgmt := rfl
@[simp] theorem takeCtx_mailbox (s : State) (tag : Nat) (x : Ctx) : (takeCtx s tag x).mailbox = s.mailbox := rfl
@[simp] theorem takeCtx_bittern (s : State) (tag : Nat) (x : Ctx) : (takeCtx s tag x).bittern = s.bittern := rfl
@[simp] theorem takeCtx_out (s : State) (tag : Nat) (x : Ctx) : (takeCtx s tag x).out = s.out := rfl
@[simp] theorem takeCtx_edges (s : State) (tag : Nat) (x : Ctx) : (takeCtx s tag x).edges = s.edges := rfl
@[simp] theorem takeCtx_granted (s : State) (tag : Nat) (x : Ctx) : (takeCtx s tag x).granted = s.granted := rfl
@[simp] theorem takeCtx_freeIdx (s : State) (tag : Nat) (x : Ctx) : (takeCtx s tag x).freeIdx = s.freeIdx := rfl

/-! ## freeCtx -/

@[simp] theorem freeCtx_pending (s : State) (tag : Nat) : (freeCtx s tag).pending = s.pending := rfl
@[simp] theorem freeCtx_power (s : State) (tag : Nat) : (freeCtx s tag).power = s.power := rfl
@[simp] theorem freeCtx_units (s : State) (tag : Nat) : (freeCtx s tag).units = s.units := rfl
@[simp] theorem freeCtx_pages (s : State) (tag : Nat) : (freeCtx s tag).pages = s.pages := rfl
@[simp] theorem freeCtx_fns (s : State) (tag : Nat) : (freeCtx s tag).fns = s.fns := rfl
@[simp] theorem freeCtx_mode (s : State) (tag : Nat) : (freeCtx s tag).mode = s.mode := rfl
@[simp] theorem freeCtx_pfRequest (s : State) (tag : Nat) : (freeCtx s tag).pfRequest = s.pfRequest := rfl
@[simp] theorem freeCtx_pfActive (s : State) (tag : Nat) : (freeCtx s tag).pfActive = s.pfActive := rfl
@[simp] theorem freeCtx_cores (s : State) (tag : Nat) : (freeCtx s tag).cores = s.cores := rfl
@[simp] theorem freeCtx_mesh (s : State) (tag : Nat) : (freeCtx s tag).mesh = s.mesh := rfl
@[simp] theorem freeCtx_chains (s : State) (tag : Nat) : (freeCtx s tag).chains = s.chains := rfl
@[simp] theorem freeCtx_chainAdds (s : State) (tag : Nat) : (freeCtx s tag).chainAdds = s.chainAdds := rfl
@[simp] theorem freeCtx_ctxs (s : State) (tag : Nat) : (freeCtx s tag).ctxs = mdel s.ctxs tag := rfl
@[simp] theorem freeCtx_rings (s : State) (tag : Nat) : (freeCtx s tag).rings = s.rings := rfl
@[simp] theorem freeCtx_rrNext (s : State) (tag : Nat) : (freeCtx s tag).rrNext = s.rrNext := rfl
@[simp] theorem freeCtx_drain (s : State) (tag : Nat) : (freeCtx s tag).drain = s.drain := rfl
@[simp] theorem freeCtx_queuedReset (s : State) (tag : Nat) : (freeCtx s tag).queuedReset = s.queuedReset := rfl
@[simp] theorem freeCtx_repart (s : State) (tag : Nat) : (freeCtx s tag).repart = s.repart := rfl
@[simp] theorem freeCtx_hbm (s : State) (tag : Nat) : (freeCtx s tag).hbm = s.hbm := rfl
@[simp] theorem freeCtx_hbmFlaws (s : State) (tag : Nat) : (freeCtx s tag).hbmFlaws = s.hbmFlaws := rfl
@[simp] theorem freeCtx_cmFlaws (s : State) (tag : Nat) : (freeCtx s tag).cmFlaws = s.cmFlaws := rfl
@[simp] theorem freeCtx_cm (s : State) (tag : Nat) : (freeCtx s tag).cm = s.cm := rfl
@[simp] theorem freeCtx_dir (s : State) (tag : Nat) : (freeCtx s tag).dir = s.dir := rfl
@[simp] theorem freeCtx_fencedAgents (s : State) (tag : Nat) : (freeCtx s tag).fencedAgents = s.fencedAgents := rfl
@[simp] theorem freeCtx_ports (s : State) (tag : Nat) : (freeCtx s tag).ports = s.ports := rfl
@[simp] theorem freeCtx_stork (s : State) (tag : Nat) : (freeCtx s tag).stork = s.stork := rfl
@[simp] theorem freeCtx_relay (s : State) (tag : Nat) : (freeCtx s tag).relay = s.relay := rfl
@[simp] theorem freeCtx_gun (s : State) (tag : Nat) : (freeCtx s tag).gun = s.gun := rfl
@[simp] theorem freeCtx_pacer (s : State) (tag : Nat) : (freeCtx s tag).pacer = s.pacer := rfl
@[simp] theorem freeCtx_recorder (s : State) (tag : Nat) : (freeCtx s tag).recorder = s.recorder := rfl
@[simp] theorem freeCtx_mgmt (s : State) (tag : Nat) : (freeCtx s tag).mgmt = s.mgmt := rfl
@[simp] theorem freeCtx_mailbox (s : State) (tag : Nat) : (freeCtx s tag).mailbox = s.mailbox := rfl
@[simp] theorem freeCtx_bittern (s : State) (tag : Nat) : (freeCtx s tag).bittern = s.bittern := rfl
@[simp] theorem freeCtx_out (s : State) (tag : Nat) : (freeCtx s tag).out = s.out := rfl
@[simp] theorem freeCtx_edges (s : State) (tag : Nat) : (freeCtx s tag).edges = s.edges := rfl
@[simp] theorem freeCtx_granted (s : State) (tag : Nat) : (freeCtx s tag).granted = s.granted := rfl
@[simp] theorem freeCtx_freeIdx (s : State) (tag : Nat) : (freeCtx s tag).freeIdx = s.freeIdx := rfl

/-! ## Reading what was written -/

@[simp] theorem getCore_modCore_self (s : State) (c : Fin 16) (f : Core → Core) :
    getCore (modCore s c f) c = f (getCore s c) := by
  simp [getCore]

theorem getCore_modCore_of_ne (s : State) {c d : Fin 16} (f : Core → Core) (h : d ≠ c) :
    getCore (modCore s c f) d = getCore s d := by
  have : c.val ≠ d.val := fun e => h (Fin.ext e.symm)
  show (s.cores.set c.val _ c.isLt)[d.val] = s.cores[d.val]
  rw [Vector.getElem_set]; simp [this]

@[simp] theorem getPage_setPage_self (s : State) (pg : PageId) (p : Page) : getPage (setPage s pg p) pg = p := by
  simp [getPage]

/-- `pageIdx` as a plain number. -/
def pageNum : PageId → Nat
  | .global => 0 | .clock => 1 | .mailbox => 2 | .determinism => 3 | .core n j => 4 + 6 * n.val + j.val
  | .baton m => 100 + m.val | .relay => 108 | .expander m => 109 + m.val | .stork => 117 | .windows => 118 | .keys => 119
  | .hbm k => 120 + k.val | .slice j => 132 + j.val | .queues p => 148 + p.val | .bittern => 152 | .panel => 153
  | .background => 154

theorem pageIdx_val (a : PageId) : (pageIdx a).val = pageNum a := by cases a <;> rfl

theorem pageIdx_injective {a b : PageId} (h : pageIdx a = pageIdx b) : a = b := by
  have h := congrArg Fin.val h
  rw [pageIdx_val, pageIdx_val] at h
  cases a <;> cases b <;> simp only [pageNum] at h <;> first
    | rfl
    | (exfalso; omega)
    | (congr 1 <;> apply Fin.ext <;> omega)

theorem getPage_setPage_of_ne (s : State) {a b : PageId} (p : Page) (h : b ≠ a) :
    getPage (setPage s a p) b = getPage s b := by
  have : (pageIdx a).val ≠ (pageIdx b).val := fun e => h (pageIdx_injective (Fin.ext e.symm))
  show (s.pages.set (pageIdx a).val p (pageIdx a).isLt)[(pageIdx b).val] = s.pages[(pageIdx b).val]
  rw [Vector.getElem_set]; simp [this]

@[simp] theorem getPage_modPage_self (s : State) (pg : PageId) (f : Page → Page) :
    getPage (modPage s pg f) pg = f (getPage s pg) := getPage_setPage_self s pg _

theorem getPage_modPage_of_ne (s : State) {a b : PageId} (f : Page → Page) (h : b ≠ a) :
    getPage (modPage s a f) b = getPage s b := getPage_setPage_of_ne s _ h

/-- Scalar register 0 reads as zero (R138). -/
@[simp] theorem getS_zero (k : Core) : getS k 0 = 0 := rfl

theorem getS_setS_self {k : Core} {i : Nat} (v : DWord) (h0 : 0 < i) (h : i < 32) : getS (setS k i v) i = v := by
  simp [getS, setS, h0, h]

/-- A write of register 0 is dropped. -/
@[simp] theorem setS_zero (k : Core) (v : DWord) : setS k 0 v = k := rfl

/-- A counter bump changes no register word of any page. -/
theorem regOf_bump (s : State) (pg a : PageId) (i n off : Nat) : regOf (bump s pg i n) a off = regOf s a off := by
  unfold bump
  split
  · rfl
  · by_cases h : a = pg
    · subst h; simp [regOf, pageReg]
    · simp [regOf, getPage_modPage_of_ne _ _ h]

end Sys2Proof.Machine
end

