-- ==== Sys2Proof/Laws/Good.lean ====
section
/-! SUPPORT. What every command keeps: the queue, a property of the power state, and the canonical form of every store.
`Good W q P s` says the three at once; the rules here take it through the shapes a meaning is written in. -/

namespace Sys2Proof.Machine

open Sys2Proof

variable {W : Prop} {q : List Instr} {P : Power → Prop} {α : Type}

/-- A core whose scratchpad is in canonical form, where `W` asks for it. -/
def GoodCore (W : Prop) (k : Core) : Prop := W → k.spad.wf = true

/-- A register page whose register and counter maps are in canonical form, where `W` asks for it. -/
def GoodPage (W : Prop) (p : Page) : Prop := (W → mwf p.regs = true) ∧ (W → mwf p.ctrs = true)

def GoodCores (W : Prop) (v : Vector Core 16) : Prop := ∀ i : Fin 16, GoodCore W v[i]

def GoodPages (W : Prop) (v : Vector Page pageCount) : Prop := ∀ i : Fin pageCount, GoodPage W v[i]

/-- The queue is `q`, the power state has the property `P`, and, where `W` asks for it, every store is in canonical form. -/
structure Good (W : Prop) (q : List Instr) (P : Power → Prop) (s : State) : Prop where
  queue : s.pending = q
  power : P s.power
  hbm : W → s.hbm.wf = true
  cm : W → s.cm.wf = true
  cores : GoodCores W s.cores
  dir : W → mwf s.dir = true
  pages : GoodPages W s.pages

/-- The same of each shape an operation answers in. -/
def GoodP1 (W : Prop) (q : List Instr) (P : Power → Prop) (x : State × α) : Prop := Good W q P x.1
def GoodP2 (W : Prop) (q : List Instr) (P : Power → Prop) (x : α × State) : Prop := Good W q P x.2
def GoodO (W : Prop) (q : List Instr) (P : Power → Prop) (x : Option State) : Prop := ∀ s, x = some s → Good W q P s
def GoodOP1 (W : Prop) (q : List Instr) (P : Power → Prop) (x : Option (State × α)) : Prop :=
  ∀ s, x = some s → Good W q P s.1
def GoodOP2 (W : Prop) (q : List Instr) (P : Power → Prop) (x : Option (α × State)) : Prop :=
  ∀ s, x = some s → Good W q P s.2
def GoodRes (W : Prop) (q : List Instr) (P : Power → Prop) (x : Res) : Prop := ∀ s, x = .next s → Good W q P s
def GoodAct (W : Prop) (q : List Instr) (P : Power → Prop) (a : Act) : Prop :=
  match a with
  | .trapIn s _ _ _ _ | .wait s | .hold s | .done s | .goto s _ | .stay s => Good W q P s
  | _ => True
def GoodC1 (W : Prop) (x : Core × α) : Prop := GoodCore W x.1
def GoodOA (W : Prop) (q : List Instr) (P : Power → Prop) (x : Option Act) : Prop := ∀ a, x = some a → GoodAct W q P a
def GoodOAs (W : Prop) (q : List Instr) (P : Power → Prop) (l : List (Option Act)) : Prop := ∀ y ∈ l, GoodOA W q P y

theorem good_iff {s : State} : Good W q P s ↔ s.pending = q ∧ P s.power ∧ (W → storesCanonical s = true) := by
  have hc : s.cores.toList.all (fun k => k.spad.wf) = true ↔ ∀ i : Fin 16, s.cores[i].spad.wf = true := by
    rw [List.all_eq_true]
    refine ⟨fun h i => h _ (by simp), fun h k hk => ?_⟩
    obtain ⟨i, hi, rfl⟩ := List.mem_iff_getElem.1 hk
    exact h ⟨i, by simpa using hi⟩
  have hp : s.pages.toList.all (fun p => mwf p.regs && mwf p.ctrs) = true ↔
      ∀ i : Fin pageCount, mwf s.pages[i].regs = true ∧ mwf s.pages[i].ctrs = true := by
    rw [List.all_eq_true]
    refine ⟨fun h i => ?_, fun h k hk => ?_⟩
    · have := h s.pages[i] (by simp)
      rw [Bool.and_eq_true] at this; exact this
    · obtain ⟨i, hi, rfl⟩ := List.mem_iff_getElem.1 hk
      rw [Bool.and_eq_true]
      exact h ⟨i, by simpa using hi⟩
  simp only [storesCanonical, memoriesOk, Bool.and_eq_true, hc, hp]
  exact ⟨fun h => ⟨h.queue, h.power, fun w => ⟨⟨⟨⟨h.hbm w, h.cm w⟩, fun i => h.cores i w⟩, h.dir w⟩,
      fun i => ⟨(h.pages i).1 w, (h.pages i).2 w⟩⟩⟩,
    fun ⟨h1, h2, h⟩ => ⟨h1, h2, fun w => (h w).1.1.1.1, fun w => (h w).1.1.1.2, fun i w => (h w).1.1.2 i,
      fun w => (h w).1.2, fun i => ⟨fun w => ((h w).2 i).1, fun w => ((h w).2 i).2⟩⟩⟩

/-! ## Updates -/

theorem good_mk {l : List Instr} {w : Power} {h c : Memory} {d : SMap DirLine} {co : Vector Core 16}
    {pa : Vector Page pageCount}
    {x1 x2 x3 x4 x5 x6 x7 x8 x9 x10 x11 x12 x13 x14 x15 x16 x17 x18 x19 x20 x21 x22 x23 x24 x25 x26 x27 x28 x29 x30} :
    Good W q P {
      pending := l, power := w, units := x1, pages := pa, fns := x2, mode := x3, pfRequest := x4, pfActive := x5,
      cores := co, mesh := x6, chains := x7, chainAdds := x8, ctxs := x9, rings := x10, rrNext := x11, drain := x12,
      queuedReset := x13, repart := x14, hbm := h, hbmFlaws := x15, cmFlaws := x16, cm := c, dir := d, fencedAgents
      := x17, ports := x18, stork := x19, relay := x20, gun := x21, pacer := x22, recorder := x23, mgmt := x24,
      mailbox := x25, bittern := x26, out := x27, edges := x28, granted := x29, freeIdx := x30 } ↔
    l = q ∧ P w ∧ (W → h.wf = true) ∧ (W → c.wf = true) ∧ GoodCores W co ∧ (W → mwf d = true) ∧ GoodPages W pa :=
  ⟨fun h => ⟨h.queue, h.power, h.hbm, h.cm, h.cores, h.dir, h.pages⟩,
    fun ⟨h1, h2, h3, h4, h5, h6, h7⟩ => ⟨h1, h2, h3, h4, h5, h6, h7⟩⟩

theorem goodCores_set {v : Vector Core 16} {i : Nat} {hi : i < 16} {k : Core} (h : GoodCores W v) (hk : GoodCore W k) :
    GoodCores W (v.set i k hi) := by
  intro j
  show GoodCore W (v.set i k hi)[j.val]
  rw [Vector.getElem_set]; split
  · exact hk
  · exact h j

theorem goodPages_set {v : Vector Page pageCount} {i : Nat} {hi : i < pageCount} {k : Page} (h : GoodPages W v)
    (hk : GoodPage W k) : GoodPages W (v.set i k hi) := by
  intro j
  show GoodPage W (v.set i k hi)[j.val]
  rw [Vector.getElem_set]; split
  · exact hk
  · exact h j

theorem goodCores_map {v : Vector Core 16} {f : Core → Core} (h : GoodCores W v) (hf : ∀ k, GoodCore W k → GoodCore W (f k)) :
    GoodCores W (v.map f) := by
  intro j
  show GoodCore W (v.map f)[j.val]
  rw [Vector.getElem_map]; exact hf _ (h j)

theorem goodCores_get {v : Vector Core 16} {i : Nat} {hi : i < 16} (h : GoodCores W v) : GoodCore W v[i] := h ⟨i, hi⟩

theorem goodCore_mk {m : Memory}
    {x1 x2 x3 x4 x5 x6 x7 x8 x9 x10 x11 x12 x13 x14 x15 x16 x17 x18 x19 x20 x21 x22 x23 x24 x25 x26 x27 x28 x29 x30
    x31 x32 x33 x34 x35 x36 x37 x38 x39} :
    GoodCore W {
      st := x1, halted := x2, sregs := x3, vregs := x4, preds := x5, pc := x6, runPc := x7, cycles := x8, loops :=
      x9, imem := x10, spad := m, waiting := x11, resetPending := x12, runPending := x13, pendingTrap := x14,
      trapValid := x15, trapCause := x16, trapCode := x17, trapInstr := x18, trapAddr := x19, dops := x20, dmaQ :=
      x21, dmaTags := x22, lastErrTag := x23, msgs := x24, pool := x25, groups := x26, runs := x27, array := x28,
      slots := x29, micro := x30, l32 := x31, ladder := x32, fold := x33, conserveFails := x34, lastFlags := x35,
      packQ := x36, lastStatus := x37, lastDetail := x38, lastLength := x39 } ↔ (W → m.wf = true) := Iff.rfl
theorem GoodCore.spad {k : Core} (h : GoodCore W k) (w : W) : k.spad.wf = true := h w
theorem goodPage_mk {r : SMap Word} {c : SMap DWord}
    {x1 x2 x3 x4 x5 x6 x7 x8 x9 x10 x11 x12 x13 x14 x15 x16} :
    GoodPage W {
      enable := x1, quiesce := x2, lock := x3, ready := x4, fenced := x5, error := x6, disabling := x7, irqRaw :=
      x8, irqStatus := x9, irqEnable := x10, errCode := x11, errInfo0 := x12, errInfo1 := x13, errCount := x14,
      scratch := x15, regs := r, ctrs := c, shadows := x16 } ↔ (W → mwf r = true) ∧ (W → mwf c = true) := Iff.rfl
theorem GoodPage.regs {p : Page} (h : GoodPage W p) (w : W) : mwf p.regs = true := h.1 w
theorem GoodPage.ctrs {p : Page} (h : GoodPage W p) (w : W) : mwf p.ctrs = true := h.2 w

theorem setPage_good {s : State} {pg : PageId} {p : Page} (h : Good W q P s) (hp : GoodPage W p) : Good W q P (setPage s pg p) :=
  ⟨h.queue, h.power, h.hbm, h.cm, h.cores, h.dir, goodPages_set (hi := (pageIdx pg).isLt) h.pages hp⟩

theorem getPage_good {s : State} {pg : PageId} (h : Good W q P s) : GoodPage W (getPage s pg) := h.pages (pageIdx pg)

theorem modCore_good {s : State} {c : Fin 16} {f : Core → Core} (h : Good W q P s) (hf : ∀ k, GoodCore W k → GoodCore W (f k)) :
    Good W q P (modCore s c f) :=
  ⟨h.queue, h.power, h.hbm, h.cm, goodCores_set (hi := c.isLt) h.cores (hf _ (h.cores c)), h.dir, h.pages⟩

theorem getCore_good {s : State} {c : Fin 16} (h : Good W q P s) : GoodCore W (getCore s c) := h.cores c

/-! ## The power state -/

/-- The power state once the dividers have stopped. -/
def offPower (p : Power) : Power :=
  { p with rootLocked := false, released := false, mgmtOnSclk := false, spreadActive := false, refOffset := 0, phaseValid := false }

/-- The power state is legal where `b` asks for it. -/
def Legal (b : Bool) (p : Power) : Prop := b = true → powerLegal p = true

theorem legal_false {p : Power} : Legal false p := fun h => nomatch h

theorem Good.any {s : State} (h : Good W q P s) : Good W q (Legal false) s :=
  ⟨h.queue, legal_false, h.hbm, h.cm, h.cores, h.dir, h.pages⟩

theorem Good.withPower {P' : Power → Prop} {s : State} (h : Good W q P' s) (hp : P s.power) : Good W q P s :=
  ⟨h.queue, hp, h.hbm, h.cm, h.cores, h.dir, h.pages⟩

theorem logOpen_power (s : State) (kind cls block inst detail arg : Nat) :
    (logOpen s kind cls block inst detail arg).power = s.power := by
  unfold logOpen logFault
  dsimp only
  split
  · exact bump_power _ _ _ _
  · rfl

theorem clearMain_power (s : State) (cfg : Bool) : (clearMain s cfg).power = offPower s.power := rfl

/-! ## Shapes -/

theorem good_foldl {l : List α} {f : State → α → State} {s : State} (h : Good W q P s)
    (hf : ∀ t x, Good W q P t → Good W q P (f t x)) : Good W q P (l.foldl f s) := foldl_keeps h hf

theorem goodP1_foldl {β : Type} {l : List β} {f : State × α → β → State × α} {s : State × α} (h : GoodP1 W q P s)
    (hf : ∀ t x, GoodP1 W q P t → GoodP1 W q P (f t x)) : GoodP1 W q P (l.foldl f s) := foldl_keeps h hf

theorem goodP2_foldl {β : Type} {l : List β} {f : α × State → β → α × State} {s : α × State} (h : GoodP2 W q P s)
    (hf : ∀ t x, GoodP2 W q P t → GoodP2 W q P (f t x)) : GoodP2 W q P (l.foldl f s) := foldl_keeps h hf

theorem goodP1_mk {s : State} {x : α} : GoodP1 W q P (s, x) ↔ Good W q P s := Iff.rfl
theorem goodP2_mk {s : State} {x : α} : GoodP2 W q P (x, s) ↔ Good W q P s := Iff.rfl
theorem good_fst {x : State × α} : Good W q P x.1 ↔ GoodP1 W q P x := Iff.rfl
theorem good_snd {x : α × State} : Good W q P x.2 ↔ GoodP2 W q P x := Iff.rfl
theorem good_fst_eq {r : State × α} {x : α} {s : State} (e : r = (s, x)) (h : GoodP1 W q P r) : Good W q P s := by
  subst e; exact h
theorem good_snd_eq {r : α × State} {x : α} {s : State} (e : r = (x, s)) (h : GoodP2 W q P r) : Good W q P s := by
  subst e; exact h
theorem goodO_some {s : State} (h : Good W q P s) : GoodO W q P (some s) := fun _ e => by cases e; exact h
theorem goodO_ite {c : Prop} [Decidable c] {a b : Option State} (ha : GoodO W q P a) (hb : GoodO W q P b) :
    GoodO W q P (if c then a else b) := by
  split
  · exact ha
  · exact hb
theorem goodO_none : GoodO W q P none := fun _ e => by cases e
theorem good_some_eq {r : Option State} {s : State} (e : r = some s) (h : GoodO W q P r) : Good W q P s := h s e
theorem goodOP1_some {s : State} {x : α} : GoodOP1 W q P (some (s, x)) ↔ Good W q P s :=
  ⟨fun h => h _ rfl, fun h _ e => by cases e; exact h⟩
theorem goodOP1_none : GoodOP1 (α := α) W q P none := fun _ e => by cases e
theorem good_some_fst_eq {r : Option (State × α)} {s : State} {x : α} (e : r = some (s, x)) (h : GoodOP1 W q P r) :
    Good W q P s := h _ e
theorem goodOP2_some {s : State} {x : α} : GoodOP2 W q P (some (x, s)) ↔ Good W q P s :=
  ⟨fun h => h _ rfl, fun h _ e => by cases e; exact h⟩
theorem goodOP2_none : GoodOP2 (α := α) W q P none := fun _ e => by cases e
theorem good_some_snd_eq {r : Option (α × State)} {s : State} {x : α} (e : r = some (x, s)) (h : GoodOP2 W q P r) :
    Good W q P s := h _ e
theorem good_getD {r : Option State} {s : State} (h : GoodO W q P r) (hs : Good W q P s) : Good W q P (r.getD s) := by
  cases r with
  | none => exact hs
  | some t => exact h t rfl
theorem goodRes_next {s : State} (h : Good W q P s) : GoodRes W q P (.next s) := fun _ e => by cases e; exact h
theorem GoodRes.withPower {P' : Power → Prop} {s : State} (h : GoodRes W q P' (.next s)) (hp : P s.power) :
    GoodRes W q P (.next s) := goodRes_next ((h s rfl).withPower hp)
theorem goodAct_ill : GoodAct W q P .ill := trivial
theorem goodAct_trap {a b c d : Nat} : GoodAct W q P (.trap a b c d) := trivial
theorem goodAct_fault {a b c d e : Nat} : GoodAct W q P (.fault a b c d e) := trivial
theorem goodAct_trapIn {s : State} {a b c d : Nat} (h : Good W q P s) : GoodAct W q P (.trapIn s a b c d) := h
theorem goodAct_wait {s : State} (h : Good W q P s) : GoodAct W q P (.wait s) := h
theorem goodAct_hold {s : State} (h : Good W q P s) : GoodAct W q P (.hold s) := h
theorem goodAct_done {s : State} (h : Good W q P s) : GoodAct W q P (.done s) := h
theorem goodAct_goto {s : State} {pc : DWord} (h : Good W q P s) : GoodAct W q P (.goto s pc) := h
theorem goodAct_stay {s : State} (h : Good W q P s) : GoodAct W q P (.stay s) := h
theorem goodOA_some {a : Act} (h : GoodAct W q P a) : GoodOA W q P (some a) := fun _ e => by cases e; exact h
theorem goodOA_none : GoodOA W q P none := fun _ e => by cases e
theorem goodAct_some_eq {r : Option Act} {a : Act} (e : r = some a) (h : GoodOA W q P r) : GoodAct W q P a := h a e

theorem goodOAs_nil : GoodOAs W q P [] := fun _ h => nomatch h
theorem goodOAs_cons {a : Option Act} {l : List (Option Act)} (h : GoodOA W q P a) (hl : GoodOAs W q P l) :
    GoodOAs W q P (a :: l) := by
  intro y hy
  rcases List.mem_cons.1 hy with rfl | hy
  · exact h
  · exact hl y hy
theorem goodOAs_map {f : α → Option Act} {l : List α} (h : ∀ x, GoodOA W q P (f x)) : GoodOAs W q P (l.map f) := by
  intro y hy
  obtain ⟨x, -, rfl⟩ := List.mem_map.1 hy
  exact h x
theorem goodOAs_flatMap {f : α → List (Option Act)} {l : List α} (h : ∀ x, GoodOAs W q P (f x)) :
    GoodOAs W q P (l.flatMap f) := by
  intro y hy
  obtain ⟨x, -, hx⟩ := List.mem_flatMap.1 hy
  exact h x y hx
theorem good_elim {o : Option α} {s : State} {f : α → State} (h : Good W q P s) (hf : ∀ x, Good W q P (f x)) :
    Good W q P (o.elim s f) := by
  cases o with
  | none => exact h
  | some x => exact hf x
theorem goodO_map {o : Option α} {f : α → State} (h : ∀ x, Good W q P (f x)) : GoodO W q P (o.map f) := by
  intro s e
  cases o with
  | none => cases e
  | some x => cases e; exact h x
theorem goodCore_foldl {l : List α} {f : Core → α → Core} {k : Core} (h : GoodCore W k)
    (hf : ∀ t x, GoodCore W t → GoodCore W (f t x)) : GoodCore W (l.foldl f k) := foldl_keeps h hf
theorem goodC1_foldl {β : Type} {l : List β} {f : Core × α → β → Core × α} {k : Core × α} (h : GoodC1 W k)
    (hf : ∀ t x, GoodC1 W t → GoodC1 W (f t x)) : GoodC1 W (l.foldl f k) := foldl_keeps h hf
theorem goodC1_mk {k : Core} {x : α} : GoodC1 W (k, x) ↔ GoodCore W k := Iff.rfl
theorem goodC1_fst {x : Core × α} : GoodCore W x.1 ↔ GoodC1 W x := Iff.rfl
theorem goodC1_eq {r : Core × α} {x : α} {k : Core} (e : r = (k, x)) (h : GoodC1 W r) : GoodCore W k := by
  subst e; exact h

end Sys2Proof.Machine
end

