-- ==== Sys2Proof/Laws/Issue.lean ====
section
/-! SUPPORT. What `issue` does, said once: an instruction that may issue with its own fields legal takes its effect. -/

namespace Sys2Proof.Machine

open Sys2Proof

theorem gateUnit_of_takes {s : State} {c : Fin 16} {w : DWord} {op : Nat} (a : Act) (ho : fOp w = op)
    (hu : unitTakes s c op = true) (hz : hazard s c w = false) : gateUnit s c w a = a := by
  subst ho
  simp only [gateUnit, unitTakes] at *
  cases h : unitOf (fOp w) <;> simp_all

/-- An instruction that may issue meets no check of `issue`: its own effect decides the outcome. -/
theorem issue_runs {s : State} {c : Fin 16} {w : DWord} {op : Nat} {v l : Bool} (a : Act)
    (h : mayIssue s c w op v = true) (hl : l = true) : issue c op v l w s a = runAct s c w v a := by
  subst hl
  simp only [mayIssue, Bool.and_eq_true, Bool.or_eq_true, decide_eq_true_eq, Bool.not_eq_true', Bool.and_eq_false_iff] at h
  obtain ⟨⟨⟨⟨⟨⟨⟨⟨⟨⟨⟨⟨h1, h2⟩, h3⟩, h4⟩, h5⟩, h6⟩, h7⟩, h8⟩, h9⟩, h10⟩, h11⟩, h12⟩, h13⟩ := h
  have a1 : notIssuing s c w = false := by
    simp only [notIssuing, h1, h2]
    cases hw : (getCore s c).waiting <;> simp_all
  have a2 : (decide (0x20000 ≤ (getCore s c).pc.toNat) || (getCore s c).pc.toNat % 8 != 0) = false := by
    simp [h5]; omega
  have a3 : (getCore s c).pendingTrap.isSome = false := by cases hp : (getCore s c).pendingTrap <;> simp_all
  have a4 : (v && s.pfActive && !(getCore s c).waiting.any (·.issued)) = false := by
    rcases h10 with h | h <;> simp [h]
  have a5 : (!laneWise op && !predHolds (getCore s c) w) = false := by
    rcases h11 with h | h <;> simp [h]
  have a6 : gateUnit s c w a = a := gateUnit_of_takes a h8 h12 h13
  unfold issue
  simp only [a1, a2, a3, a4, a5, a6, h7, h8, h9]
  simp

theorem issue_done {s t : State} {c : Fin 16} {w : DWord} {op : Nat} {v l : Bool}
    (h : mayIssue s c w op v = true) (hl : l = true) : issue c op v l w s (.done t) = finish t c v := by
  rw [issue_runs _ h hl]; rfl

theorem issue_goto {s t : State} {pc : DWord} {c : Fin 16} {w : DWord} {op : Nat} {v l : Bool}
    (h : mayIssue s c w op v = true) (hl : l = true) : issue c op v l w s (.goto t pc) = finishAt t c v pc := by
  rw [issue_runs _ h hl]; rfl

end Sys2Proof.Machine
end

