-- ==== Sys2Proof/Laws/KeepOps.lean ====
section
/-! SUPPORT. The operations over registers, pages, memories and contexts, and the issue of an instruction: each keeps what `Good` says. -/

namespace Sys2Proof.Machine

open Sys2Proof

variable {W : Prop} {q : List Instr} {P : Power → Prop} {α : Type}

/-! ## Ops -/

theorem drawFree_good {s : State} (h0 : Good W q P s) : GoodP2 W q P (drawFree s) := by
  unfold drawFree
  repeat' first
    | with_reducible assumption
    | with_reducible first
        | apply Good.hbm | apply Good.cm | apply Good.cores | apply Good.dir | apply Good.pages | apply Good.queue
        | apply Good.power | apply And.intro
    | simp only [good_mk, goodP2_mk]

theorem freeBytes_good {v0 : ℕ} {v1 : State} (h1 : Good W q P v1) : GoodP2 W q P (freeBytes v0 v1) := by
  induction v0 generalizing v1 with
  | zero =>
    unfold freeBytes
    repeat' first
      | with_reducible assumption
      | with_reducible first | apply drawFree_good
      | simp only [goodP2_mk, good_snd]
  | succ n ih =>
    unfold freeBytes
    repeat' first
      | with_reducible assumption
      | with_reducible first | apply ih | apply drawFree_good
      | simp only [goodP2_mk, good_snd]

theorem emit_good {o : Output} {s : State} (h1 : Good W q P s) : Good W q P (emit o s) := by
  unfold emit
  repeat' first
    | with_reducible assumption
    | with_reducible first
        | apply Good.hbm | apply Good.cm | apply Good.cores | apply Good.dir | apply Good.pages | apply Good.queue
        | apply Good.power | apply And.intro
    | simp only [good_mk]

theorem modPage_good {s : State} {pg : PageId} {f : Page → Page} (h0 : Good W q P s) (h2
    : ∀ x00, GoodPage W x00 → GoodPage W ((f x00))) : Good W q P (modPage s pg f) := by
  unfold modPage
  repeat' first
    | with_reducible assumption
    | with_reducible first | apply h2 | apply setPage_good | apply getPage_good

theorem putReg_good {s : State} {pg : PageId} {off : ℕ} {v : ℕ} (h0 : Good W q P s) : Good W q P (putReg s pg off v)
    := by
  unfold putReg
  repeat' first
    | with_reducible assumption
    | with_reducible first
        | apply modPage_good | apply GoodPage.regs | apply GoodPage.ctrs | apply mwf_mputD | apply And.intro
    | simp only [goodPage_mk]
    | dsimp only
    | split
    | intro _

theorem bump_good {s : State} {pg : PageId} {i : ℕ} {n : ℕ} (h0 : Good W q P s) : Good W q P (bump s pg i n) := by
  unfold bump
  repeat' first
    | with_reducible assumption
    | with_reducible first
        | apply modPage_good | apply GoodPage.regs | apply GoodPage.ctrs | apply mwf_mmodD | apply And.intro
    | simp only [goodPage_mk]
    | dsimp only
    | split
    | intro _

theorem sendMsi_good {s : State} {fn : Fin 4} {v : ℕ} (h0 : Good W q P s) : Good W q P (sendMsi s fn v) := by
  unfold sendMsi
  repeat' first
    | with_reducible assumption
    | with_reducible first
        | apply Good.hbm | apply Good.cm | apply emit_good | apply Good.cores | apply Good.dir | apply Good.pages
        | apply Good.queue | apply Good.power | apply And.intro
    | simp only [good_mk]
    | dsimp only
    | split

theorem flushVector_good {s : State} {fn : Fin 4} {v : Fin 64} (h0 : Good W q P s) : Good W q P (flushVector s fn v)
    := by
  unfold flushVector
  repeat' first
    | with_reducible assumption
    | with_reducible first
        | apply emit_good | apply Good.hbm | apply Good.cm | apply Good.cores | apply Good.dir | apply Good.pages
        | apply Good.queue | apply Good.power | apply And.intro
    | simp only [good_mk]
    | dsimp only
    | split

theorem flushFn_good {s : State} {fn : Fin 4} (h0 : Good W q P s) : Good W q P (flushFn s fn) := by
  unfold flushFn
  repeat' first
    | with_reducible assumption
    | with_reducible first | apply flushVector_good | apply good_foldl
    | dsimp only
    | split
    | intro _

theorem deliverSrc_good {s : State} {src : ℕ} (h0 : Good W q P s) : Good W q P (deliverSrc s src) := by
  unfold deliverSrc
  repeat' first
    | with_reducible assumption
    | with_reducible first
        | apply sendMsi_good | apply Good.hbm | apply Good.cm | apply Good.cores | apply Good.dir | apply Good.pages
        | apply Good.queue | apply Good.power | apply And.intro
    | simp only [good_mk]
    | dsimp only
    | split

theorem updIrq_good {s : State} {pg : PageId} {f : Page → Page} (h0 : Good W q P s) (h2
    : ∀ x00, GoodPage W x00 → GoodPage W ((f x00))) : Good W q P (updIrq s pg f) := by
  unfold updIrq
  repeat' first
    | with_reducible assumption
    | with_reducible first | apply h2 | apply getPage_good | apply setPage_good | apply deliverSrc_good
    | dsimp only
    | split

theorem pulseIrq_good {s : State} {pg : PageId} {bit : ℕ} (h0 : Good W q P s) : Good W q P (pulseIrq s pg bit) := by
  unfold pulseIrq
  repeat' first
    | with_reducible assumption
    | with_reducible first | apply updIrq_good | apply GoodPage.regs | apply GoodPage.ctrs | apply And.intro
    | simp only [goodPage_mk]
    | dsimp only
    | split
    | intro _

theorem levelIrq_good {s : State} {pg : PageId} {bit : ℕ} {v : Bool} (h0 : Good W q P s) : Good W q P
    (levelIrq s pg bit v) := by
  unfold levelIrq
  repeat' first
    | with_reducible assumption
    | with_reducible first | apply updIrq_good | apply GoodPage.regs | apply GoodPage.ctrs | apply And.intro
    | simp only [goodPage_mk]
    | dsimp only
    | split
    | intro _

theorem captureError_good {s : State} {pg : PageId} {code : Byte} {detail : ℕ} {info0 : ℕ} {info1 : ℕ} (h0
    : Good W q P s) : Good W q P (captureError s pg code detail info0 info1) := by
  unfold captureError
  repeat' first
    | with_reducible assumption
    | with_reducible first | apply updIrq_good | apply GoodPage.regs | apply GoodPage.ctrs | apply And.intro
    | simp only [goodPage_mk]
    | dsimp only
    | split
    | intro _

theorem captureOpen1_good {s : State} {pg : PageId} {code : Byte} {detail : ℕ} {info0 : ℕ} (h0 : Good W q P s)
    : Good W q P (captureOpen1 s pg code detail info0) := by
  unfold captureOpen1
  repeat' first
    | with_reducible assumption
    | with_reducible first | apply drawFree_good | apply captureError_good
    | simp only [good_snd]

theorem captureOpen_good {s : State} {pg : PageId} {code : Byte} {detail : ℕ} (h0 : Good W q P s) : Good W q P
    (captureOpen s pg code detail) := by
  unfold captureOpen
  repeat' first
    | with_reducible assumption
    | with_reducible first | apply drawFree_good | apply captureOpen1_good
    | simp only [good_snd]

theorem clearIrq_good {s : State} {pg : PageId} {m : Word} (h0 : Good W q P s) : Good W q P (clearIrq s pg m) := by
  unfold clearIrq
  repeat' first
    | with_reducible assumption
    | with_reducible first | apply updIrq_good | apply GoodPage.regs | apply GoodPage.ctrs | apply And.intro
    | simp only [goodPage_mk]
    | dsimp only
    | split
    | intro _

theorem badAccess_good {s : State} {addr : ℕ} (h0 : Good W q P s) : Good W q P (badAccess s addr) := by
  unfold badAccess
  repeat' first
    | with_reducible assumption
    | with_reducible first | apply putReg_good

theorem logFault_good {s : State} {kind : ℕ} {cls : ℕ} {block : ℕ} {inst : ℕ} {code : Byte} {detail : ℕ} {arg : ℕ}
    (h0 : Good W q P s) : Good W q P (logFault s kind cls block inst code detail arg) := by
  unfold logFault
  repeat' first
    | with_reducible assumption
    | with_reducible first
        | apply bump_good | apply Good.hbm | apply Good.cm | apply Good.cores | apply Good.dir | apply Good.pages
        | apply Good.queue | apply Good.power | apply And.intro
    | simp only [good_mk]
    | dsimp only
    | split

theorem logOpen_good {s : State} {kind : ℕ} {cls : ℕ} {block : ℕ} {inst : ℕ} {detail : ℕ} {arg : ℕ} (h0
    : Good W q P s) : Good W q P (logOpen s kind cls block inst detail arg) := by
  unfold logOpen
  repeat' first
    | with_reducible assumption
    | with_reducible first | apply drawFree_good | apply logFault_good
    | simp only [good_snd]

theorem putAddr_good {s : State} {pg : PageId} {off : ℕ} {v3 : ℕ} (h0 : Good W q P s) : Good W q P
    (putAddr s pg off v3) := by
  unfold putAddr
  repeat' first
    | with_reducible assumption
    | with_reducible first | apply putReg_good

theorem hbmCorrectable_good {s : State} {k : Fin 12} {v2 : ℕ} (h0 : Good W q P s) : Good W q P
    (hbmCorrectable s k v2) := by
  unfold hbmCorrectable
  repeat' first
    | with_reducible assumption
    | with_reducible first | apply pulseIrq_good | apply putAddr_good | apply bump_good

theorem hbmUncorrectable_good {s : State} {k : Fin 12} {v2 : ℕ} (h0 : Good W q P s) : Good W q P
    (hbmUncorrectable s k v2) := by
  unfold hbmUncorrectable
  repeat' first
    | with_reducible assumption
    | with_reducible first
        | apply Memory.wf_setMark | apply Good.hbm | apply Good.cm | apply pulseIrq_good | apply putAddr_good
        | apply bump_good | apply captureError_good | apply Good.cores | apply Good.dir | apply Good.pages
        | apply Good.queue | apply Good.power | apply And.intro
    | simp only [good_mk]
    | dsimp only
    | split
    | intro _

theorem hbmFind_good {s : State} {k : Fin 12} {v2 : ℕ} (h0 : Good W q P s) : Good W q P (hbmFind s k v2) := by
  unfold hbmFind
  repeat' first
    | with_reducible assumption
    | with_reducible first
        | apply Good.hbm | apply Good.cm | apply hbmUncorrectable_good | apply hbmCorrectable_good | apply Good.cores
        | apply Good.dir | apply Good.pages | apply Good.queue | apply Good.power | apply And.intro
    | simp only [good_mk]
    | dsimp only
    | split

theorem hbmRead_good {s : State} {p : ℕ} {v2 : ℕ} {n : ℕ} (h0 : Good W q P s) : GoodP2 W q P (hbmRead s p v2 n) := by
  unfold hbmRead
  repeat' first
    | with_reducible assumption
    | with_reducible first | apply bump_good | apply hbmFind_good | apply goodP2_foldl
    | simp only [goodP2_mk, good_snd]
    | dsimp only
    | split
    | intro _

theorem hbmWrite_good {s : State} {p : ℕ} {v2 : ℕ} {bs : List PByte} (h0 : Good W q P s) : Good W q P
    (hbmWrite s p v2 bs) := by
  unfold hbmWrite
  repeat' first
    | with_reducible assumption
    | with_reducible first
        | apply Good.hbm | apply Good.cm | apply hbmFind_good | apply Memory.wf_storeP | apply bump_good
        | apply good_foldl | apply Good.cores | apply Good.dir | apply Good.pages | apply Good.queue
        | apply Good.power | apply And.intro
    | simp only [good_mk]
    | dsimp only
    | split
    | intro _

theorem setDir_good {s : State} {line : ℕ} {d : DirLine} (h0 : Good W q P s) : Good W q P (setDir s line d) := by
  unfold setDir
  repeat' first
    | with_reducible assumption
    | with_reducible first
        | apply Good.hbm | apply Good.cm | apply Good.cores | apply Good.dir | apply Good.pages | apply mwf_mputD
        | apply Good.queue | apply Good.power | apply And.intro
    | simp only [good_mk]
    | dsimp only
    | split
    | intro _

theorem cmMerge_good {s : State} {line : ℕ} (h0 : Good W q P s) : Good W q P (cmMerge s line) := by
  unfold cmMerge
  repeat' first
    | with_reducible assumption
    | with_reducible first
        | apply Good.hbm | apply Memory.wf_write | apply Good.cm | apply Memory.wf_setMark | apply setDir_good
        | apply Good.cores | apply Good.dir | apply Good.pages | apply Good.queue | apply Good.power | apply And.intro
    | simp only [good_mk]
    | dsimp only
    | split
    | intro _

theorem cmRecallAll_good {s : State} {line : ℕ} (h0 : Good W q P s) : Good W q P (cmRecallAll s line) := by
  unfold cmRecallAll
  repeat' first
    | with_reducible assumption
    | with_reducible first | apply bump_good | apply cmMerge_good | apply setDir_good

theorem cmFind_good {s : State} {line : ℕ} (h0 : Good W q P s) : Good W q P (cmFind s line) := by
  unfold cmFind
  repeat' first
    | with_reducible assumption
    | with_reducible first
        | apply Good.cm | apply pulseIrq_good | apply bump_good | apply Good.hbm | apply captureOpen1_good
        | apply Memory.wf_setMark | apply Good.cores | apply Good.dir | apply Good.pages | apply Good.queue
        | apply Good.power | apply And.intro
    | simp only [good_mk]
    | dsimp only
    | split
    | intro _

theorem cmMeet_good {s : State} {v1 : ℕ} {n : ℕ} (h0 : Good W q P s) : Good W q P (cmMeet s v1 n) := by
  unfold cmMeet
  repeat' first
    | with_reducible assumption
    | with_reducible first | apply cmFind_good | apply good_foldl
    | dsimp only
    | split
    | intro _

theorem cmWrite_good {s : State} {v1 : ℕ} {bs : List PByte} (h0 : Good W q P s) : Good W q P (cmWrite s v1 bs) := by
  unfold cmWrite
  repeat' first
    | with_reducible assumption
    | with_reducible first
        | apply cmRecallAll_good | apply Good.hbm | apply Good.cm | apply cmFind_good | apply Memory.wf_storeP
        | apply good_foldl | apply Good.cores | apply Good.dir | apply Good.pages | apply Good.queue
        | apply Good.power | apply And.intro
    | simp only [good_mk]
    | dsimp only
    | split
    | intro _

theorem spadWrite_good {s : State} {c : Fin 16} {v2 : ℕ} {bs : List Byte} (h0 : Good W q P s) : Good W q P
    (spadWrite s c v2 bs) := by
  unfold spadWrite
  repeat' first
    | with_reducible assumption
    | with_reducible first | apply modCore_good | apply Memory.wf_store | apply GoodCore.spad | apply And.intro
    | simp only [goodCore_mk]
    | dsimp only
    | split
    | intro _

theorem spadWriteP_good {s : State} {c : Fin 16} {v2 : ℕ} {bs : List PByte} (h0 : Good W q P s) : Good W q P
    (spadWriteP s c v2 bs) := by
  unfold spadWriteP
  repeat' first
    | with_reducible assumption
    | with_reducible first | apply modCore_good | apply Memory.wf_storeP | apply GoodCore.spad | apply And.intro
    | simp only [goodCore_mk]
    | dsimp only
    | split
    | intro _

theorem takeCtx_good {s : State} {tag : ℕ} {x : Ctx} (h0 : Good W q P s) : Good W q P (takeCtx s tag x) := by
  unfold takeCtx
  repeat' first
    | with_reducible assumption
    | with_reducible first
        | apply Good.hbm | apply Good.cm | apply Good.cores | apply Good.dir | apply Good.pages | apply Good.queue
        | apply Good.power | apply And.intro
    | simp only [good_mk]

theorem finishCtx_good {s : State} {tag : ℕ} {r : Result} (h0 : Good W q P s) : Good W q P (finishCtx s tag r) := by
  unfold finishCtx
  repeat' first
    | with_reducible assumption
    | with_reducible first
        | apply Good.hbm | apply Good.cm | apply Good.cores | apply Good.dir | apply Good.pages | apply Good.queue
        | apply Good.power | apply And.intro
    | simp only [good_mk]
    | dsimp only
    | split

theorem freeCtx_good {s : State} {tag : ℕ} (h0 : Good W q P s) : Good W q P (freeCtx s tag) := by
  unfold freeCtx
  repeat' first
    | with_reducible assumption
    | with_reducible first
        | apply Good.hbm | apply Good.cm | apply Good.cores | apply Good.dir | apply Good.pages | apply Good.queue
        | apply Good.power | apply And.intro
    | simp only [good_mk]

/-! ## Operands -/

theorem setS_good {k : Core} {i : ℕ} {v : DWord} (h0 : GoodCore W k) : GoodCore W (setS k i v) := by
  unfold setS
  repeat' first
    | with_reducible assumption
    | with_reducible first | apply GoodCore.spad | apply And.intro
    | simp only [goodCore_mk]
    | dsimp only
    | split

theorem setV_good {k : Core} {i : ℕ} {v : BitVec 2048} (h0 : GoodCore W k) : GoodCore W (setV k i v) := by
  unfold setV
  repeat' first
    | with_reducible assumption
    | with_reducible first | apply GoodCore.spad | apply And.intro
    | simp only [goodCore_mk]
    | dsimp only
    | split

theorem setP_good {k : Core} {i : ℕ} {v : DWord} (h0 : GoodCore W k) : GoodCore W (setP k i v) := by
  unfold setP
  repeat' first
    | with_reducible assumption
    | with_reducible first | apply GoodCore.spad | apply And.intro
    | simp only [goodCore_mk]
    | dsimp only
    | split

/-! ## Issue -/

theorem takeTrap_good {s : State} {c : Fin 16} {w : DWord} {cause : ℕ} {code : ℕ} {shared : ℕ} {addr : ℕ} (h0
    : Good W q P s) : Good W q P (takeTrap s c w cause code shared addr) := by
  unfold takeTrap
  repeat' first
    | with_reducible assumption
    | with_reducible first
        | apply modCore_good | apply GoodCore.spad | apply levelIrq_good | apply captureOpen1_good
        | apply captureOpen_good | apply And.intro
    | simp only [goodCore_mk]
    | dsimp only
    | split

theorem retire_good {s : State} {c : Fin 16} {v : Bool} (h0 : Good W q P s) : Good W q P (retire s c v) := by
  unfold retire
  repeat' first
    | with_reducible assumption
    | with_reducible first | apply modCore_good | apply GoodCore.spad | apply bump_good | apply And.intro
    | simp only [goodCore_mk]
    | dsimp only
    | split

theorem advance_good {s : State} {c : Fin 16} (h0 : Good W q P s) : Good W q P (advance s c) := by
  unfold advance
  repeat' first
    | with_reducible assumption
    | with_reducible first | apply modCore_good | apply GoodCore.spad | apply And.intro
    | simp only [goodCore_mk]

theorem gateUnit_good {s : State} {c : Fin 16} {w : DWord} {v3 : Act} (h0 : Good W q P s) (h3 : GoodAct W q P v3)
    : GoodAct W q P (gateUnit s c w v3) := by
  unfold gateUnit
  repeat' first
    | with_reducible assumption
    | with_reducible first | apply goodAct_fault | apply goodAct_hold
    | dsimp only
    | split

theorem runAct_good {s : State} {c : Fin 16} {w : DWord} {v : Bool} {v4 : Act} (h0 : Good W q P s) (h4
    : GoodAct W q P v4) : Good W q P (runAct s c w v v4) := by
  unfold runAct
  repeat' first
    | with_reducible assumption
    | with_reducible first
        | apply takeTrap_good | apply bump_good | apply captureError_good | apply captureOpen_good
        | apply modCore_good | apply GoodCore.spad | apply advance_good | apply retire_good | apply And.intro
    | simp only [goodCore_mk]
    | exact h4
    | dsimp only
    | split

theorem issue_good {c : Fin 16} {op : ℕ} {v : Bool} {legal : Bool} {w : DWord} {s : State} {v6 : Act} (h5
    : Good W q P s) (h6 : GoodAct W q P v6) : Good W q P (issue c op v legal w s v6) := by
  unfold issue
  repeat' first
    | with_reducible assumption
    | with_reducible first
        | apply takeTrap_good | apply modCore_good | apply GoodCore.spad | apply runAct_good | apply gateUnit_good
        | apply goodAct_trap | apply goodAct_done | apply And.intro
    | simp only [goodCore_mk]
    | dsimp only
    | split

theorem doneS_good {s : State} {c : Fin 16} {r : ℕ} {v : DWord} (h0 : Good W q P s) : GoodAct W q P (doneS s c r v)
    := by
  unfold doneS
  repeat' first
    | with_reducible assumption
    | with_reducible first | apply modCore_good | apply setS_good | apply goodAct_done
    | dsimp only
    | split
    | intro _

theorem doneV_good {s : State} {c : Fin 16} {r : ℕ} {v : BitVec 2048} (h0 : Good W q P s) : GoodAct W q P
    (doneV s c r v) := by
  unfold doneV
  repeat' first
    | with_reducible assumption
    | with_reducible first | apply modCore_good | apply setV_good | apply goodAct_done
    | dsimp only
    | split
    | intro _

theorem doneP_good {s : State} {c : Fin 16} {r : ℕ} {v : DWord} (h0 : Good W q P s) : GoodAct W q P (doneP s c r v)
    := by
  unfold doneP
  repeat' first
    | with_reducible assumption
    | with_reducible first | apply modCore_good | apply setP_good | apply goodAct_done
    | dsimp only
    | split
    | intro _

theorem pushD_good {s : State} {c : Fin 16} {w : DWord} (h0 : Good W q P s) : Good W q P (pushD s c w) := by
  unfold pushD
  repeat' first
    | with_reducible assumption
    | with_reducible first | apply modCore_good | apply GoodCore.spad | apply And.intro
    | simp only [goodCore_mk]

theorem spadCheck_good {s : State} {c : Fin 16} {al : ℕ} {v3 : ℕ} {n : ℕ} (h0 : Good W q P s) : GoodOA W q P
    (spadCheck s c al v3 n) := by
  unfold spadCheck
  repeat' first
    | with_reducible assumption
    | with_reducible first | apply goodAct_trap | apply goodOA_some | apply goodOA_none
    | dsimp only
    | split

theorem spadReadCheck_good {s : State} {c : Fin 16} {al : ℕ} {v3 : ℕ} {n : ℕ} (h0 : Good W q P s) : GoodOA W q P
    (spadReadCheck s c al v3 n) := by
  unfold spadReadCheck
  repeat' first
    | with_reducible assumption
    | with_reducible first | apply spadCheck_good | apply goodAct_trap | apply goodOA_some | apply goodOA_none
    | with_reducible refine goodAct_some_eq (by assumption) ?_
    | dsimp only
    | split

end Sys2Proof.Machine
end

