-- ==== Sys2Proof/Laws/KeepCore.lean ====
section
/-! SUPPORT. Scalar, vector, scratchpad, DMA and message instructions, and the register gate: each keeps what `Good` says. -/

namespace Sys2Proof.Machine

open Sys2Proof

variable {W : Prop} {q : List Instr} {P : Power → Prop} {α : Type}

/-! ## Scalar -/

theorem scalarArith_good {op : ArithOp} {c : Fin 16} {w : DWord} {s : State} (h3 : Good W q P s) : GoodAct W q P
    (scalarArith op c w s) := by
  unfold scalarArith
  repeat' first
    | with_reducible assumption
    | with_reducible first | apply doneS_good

theorem execAdd_good {c : Fin 16} {w : DWord} {s : State} (h2 : Good W q P s) : GoodRes W q P (execAdd c w s) := by
  unfold execAdd
  repeat' first
    | with_reducible assumption
    | with_reducible first | apply issue_good | apply scalarArith_good | apply goodRes_next

theorem execSub_good {c : Fin 16} {w : DWord} {s : State} (h2 : Good W q P s) : GoodRes W q P (execSub c w s) := by
  unfold execSub
  repeat' first
    | with_reducible assumption
    | with_reducible first | apply issue_good | apply scalarArith_good | apply goodRes_next

theorem execMul_good {c : Fin 16} {w : DWord} {s : State} (h2 : Good W q P s) : GoodRes W q P (execMul c w s) := by
  unfold execMul
  repeat' first
    | with_reducible assumption
    | with_reducible first | apply issue_good | apply scalarArith_good | apply goodRes_next

theorem execLogic_good {c : Fin 16} {w : DWord} {s : State} (h2 : Good W q P s) : GoodRes W q P (execLogic c w s)
    := by
  unfold execLogic
  repeat' first
    | with_reducible assumption
    | with_reducible first | apply issue_good | apply doneS_good | apply goodRes_next

theorem execShift_good {c : Fin 16} {w : DWord} {s : State} (h2 : Good W q P s) : GoodRes W q P (execShift c w s)
    := by
  unfold execShift
  repeat' first
    | with_reducible assumption
    | with_reducible first | apply issue_good | apply doneS_good | apply goodRes_next

theorem execAddi_good {c : Fin 16} {w : DWord} {s : State} (h2 : Good W q P s) : GoodRes W q P (execAddi c w s) := by
  unfold execAddi
  repeat' first
    | with_reducible assumption
    | with_reducible first | apply issue_good | apply doneS_good | apply goodRes_next

theorem execCmp_good {c : Fin 16} {w : DWord} {s : State} (h2 : Good W q P s) : GoodRes W q P (execCmp c w s) := by
  unfold execCmp
  repeat' first
    | with_reducible assumption
    | with_reducible first | apply issue_good | apply doneP_good | apply goodRes_next

theorem execSelect_good {c : Fin 16} {w : DWord} {s : State} (h2 : Good W q P s) : GoodRes W q P (execSelect c w s)
    := by
  unfold execSelect
  repeat' first
    | with_reducible assumption
    | with_reducible first | apply issue_good | apply doneS_good | apply goodRes_next

theorem execMovi_good {c : Fin 16} {w : DWord} {s : State} (h2 : Good W q P s) : GoodRes W q P (execMovi c w s) := by
  unfold execMovi
  repeat' first
    | with_reducible assumption
    | with_reducible first | apply issue_good | apply doneS_good | apply goodRes_next

theorem execRdsr_good {c : Fin 16} {w : DWord} {s : State} (h2 : Good W q P s) : GoodRes W q P (execRdsr c w s) := by
  unfold execRdsr
  repeat' first
    | with_reducible assumption
    | with_reducible first | apply issue_good | apply doneS_good | apply goodRes_next

theorem execRdcyc_good {c : Fin 16} {w : DWord} {s : State} (h2 : Good W q P s) : GoodRes W q P (execRdcyc c w s)
    := by
  unfold execRdcyc
  repeat' first
    | with_reducible assumption
    | with_reducible first | apply issue_good | apply doneS_good | apply goodRes_next

theorem execBr_good {c : Fin 16} {w : DWord} {s : State} (h2 : Good W q P s) : GoodRes W q P (execBr c w s) := by
  unfold execBr
  repeat' first
    | with_reducible assumption
    | with_reducible first | apply issue_good | apply goodRes_next | apply goodAct_done | apply goodAct_goto
    | dsimp only
    | split

theorem execCall_good {c : Fin 16} {w : DWord} {s : State} (h2 : Good W q P s) : GoodRes W q P (execCall c w s) := by
  unfold execCall
  repeat' first
    | with_reducible assumption
    | with_reducible first
        | apply issue_good | apply modCore_good | apply setS_good | apply goodRes_next | apply goodAct_goto
    | dsimp only
    | split
    | intro _

theorem execJr_good {c : Fin 16} {w : DWord} {s : State} (h2 : Good W q P s) : GoodRes W q P (execJr c w s) := by
  unfold execJr
  repeat' first
    | with_reducible assumption
    | with_reducible first | apply issue_good | apply goodRes_next | apply goodAct_goto

theorem loopAct_good {c : Fin 16} {w : DWord} {s : State} (h2 : Good W q P s) : GoodAct W q P (loopAct c w s) := by
  unfold loopAct
  repeat' first
    | with_reducible assumption
    | with_reducible first
        | apply modCore_good | apply GoodCore.spad | apply goodAct_trap | apply goodAct_goto | apply And.intro
    | simp only [goodCore_mk]
    | dsimp only
    | split

theorem execLoop_good {c : Fin 16} {w : DWord} {s : State} (h2 : Good W q P s) : GoodRes W q P (execLoop c w s) := by
  unfold execLoop
  repeat' first
    | with_reducible assumption
    | with_reducible first | apply issue_good | apply loopAct_good | apply goodRes_next
    | dsimp only
    | split

theorem execLoopPop_good {c : Fin 16} {w : DWord} {s : State} (h2 : Good W q P s) : GoodRes W q P
    (execLoopPop c w s) := by
  unfold execLoopPop
  repeat' first
    | with_reducible assumption
    | with_reducible first
        | apply issue_good | apply modCore_good | apply GoodCore.spad | apply goodRes_next | apply goodAct_trap
        | apply goodAct_done | apply And.intro
    | simp only [goodCore_mk]
    | dsimp only
    | split

theorem haltCore_good {s : State} {c : Fin 16} (h0 : Good W q P s) : Good W q P (haltCore s c) := by
  unfold haltCore
  repeat' first
    | with_reducible assumption
    | with_reducible first | apply levelIrq_good | apply modCore_good | apply GoodCore.spad | apply And.intro
    | simp only [goodCore_mk]

theorem execHalt_good {c : Fin 16} {w : DWord} {s : State} (h2 : Good W q P s) : GoodRes W q P (execHalt c w s) := by
  unfold execHalt
  repeat' first
    | with_reducible assumption
    | with_reducible first
        | apply issue_good | apply modCore_good | apply GoodCore.spad | apply haltCore_good | apply retire_good
        | apply goodRes_next | apply goodAct_stay | apply And.intro
    | simp only [goodCore_mk]
    | dsimp only
    | split

theorem execHaltComplete_good {c : Fin 16} {s : State} (h1 : Good W q P s) : GoodRes W q P (execHaltComplete c s)
    := by
  unfold execHaltComplete
  repeat' first
    | with_reducible assumption
    | with_reducible first | apply haltCore_good | apply retire_good | apply goodRes_next
    | dsimp only
    | split

/-! ## Vector -/

theorem vec2_good {c : Fin 16} {w : DWord} {s : State} {f : ℕ → ℕ → ℕ} (h2 : Good W q P s) : GoodAct W q P
    (vec2 c w s f) := by
  unfold vec2
  repeat' first
    | with_reducible assumption
    | with_reducible first | apply doneV_good

theorem vecArith_good {op : ArithOp} {c : Fin 16} {w : DWord} {s : State} (h3 : Good W q P s) : GoodAct W q P
    (vecArith op c w s) := by
  unfold vecArith
  repeat' first
    | with_reducible assumption
    | with_reducible first | apply vec2_good

theorem execVadd_good {c : Fin 16} {w : DWord} {s : State} (h2 : Good W q P s) : GoodRes W q P (execVadd c w s) := by
  unfold execVadd
  repeat' first
    | with_reducible assumption
    | with_reducible first | apply issue_good | apply vecArith_good | apply goodRes_next

theorem execVsub_good {c : Fin 16} {w : DWord} {s : State} (h2 : Good W q P s) : GoodRes W q P (execVsub c w s) := by
  unfold execVsub
  repeat' first
    | with_reducible assumption
    | with_reducible first | apply issue_good | apply vecArith_good | apply goodRes_next

theorem execVmul_good {c : Fin 16} {w : DWord} {s : State} (h2 : Good W q P s) : GoodRes W q P (execVmul c w s) := by
  unfold execVmul
  repeat' first
    | with_reducible assumption
    | with_reducible first | apply issue_good | apply vecArith_good | apply goodRes_next

theorem execVfma_good {c : Fin 16} {w : DWord} {s : State} (h2 : Good W q P s) : GoodRes W q P (execVfma c w s) := by
  unfold execVfma
  repeat' first
    | with_reducible assumption
    | with_reducible first | apply issue_good | apply doneV_good | apply goodRes_next

theorem execVminmax_good {c : Fin 16} {w : DWord} {s : State} (h2 : Good W q P s) : GoodRes W q P
    (execVminmax c w s) := by
  unfold execVminmax
  repeat' first
    | with_reducible assumption
    | with_reducible first | apply issue_good | apply vec2_good | apply goodRes_next

theorem execVunary_good {c : Fin 16} {w : DWord} {s : State} (h2 : Good W q P s) : GoodRes W q P (execVunary c w s)
    := by
  unfold execVunary
  repeat' first
    | with_reducible assumption
    | with_reducible first | apply issue_good | apply doneV_good | apply goodRes_next

theorem execVcmp_good {c : Fin 16} {w : DWord} {s : State} (h2 : Good W q P s) : GoodRes W q P (execVcmp c w s) := by
  unfold execVcmp
  repeat' first
    | with_reducible assumption
    | with_reducible first | apply issue_good | apply doneP_good | apply goodRes_next

theorem execVsel_good {c : Fin 16} {w : DWord} {s : State} (h2 : Good W q P s) : GoodRes W q P (execVsel c w s) := by
  unfold execVsel
  repeat' first
    | with_reducible assumption
    | with_reducible first | apply issue_good | apply doneV_good | apply goodRes_next

theorem execVcvt_good {c : Fin 16} {w : DWord} {s : State} (h2 : Good W q P s) : GoodRes W q P (execVcvt c w s) := by
  unfold execVcvt
  repeat' first
    | with_reducible assumption
    | with_reducible first | apply issue_good | apply doneV_good | apply goodRes_next

theorem execVbcast_good {c : Fin 16} {w : DWord} {s : State} (h2 : Good W q P s) : GoodRes W q P (execVbcast c w s)
    := by
  unfold execVbcast
  repeat' first
    | with_reducible assumption
    | with_reducible first | apply issue_good | apply doneV_good | apply goodRes_next

theorem execVperm_good {c : Fin 16} {w : DWord} {s : State} (h2 : Good W q P s) : GoodRes W q P (execVperm c w s)
    := by
  unfold execVperm
  repeat' first
    | with_reducible assumption
    | with_reducible first | apply issue_good | apply doneV_good | apply goodRes_next

theorem execVbits_good {c : Fin 16} {w : DWord} {s : State} (h2 : Good W q P s) : GoodRes W q P (execVbits c w s)
    := by
  unfold execVbits
  repeat' first
    | with_reducible assumption
    | with_reducible first | apply issue_good | apply vec2_good | apply goodRes_next

theorem execVred_good {c : Fin 16} {w : DWord} {s : State} (h2 : Good W q P s) : GoodRes W q P (execVred c w s) := by
  unfold execVred
  repeat' first
    | with_reducible assumption
    | with_reducible first | apply issue_good | apply doneS_good | apply goodRes_next | apply goodAct_trap
    | dsimp only
    | split

theorem execVidx_good {c : Fin 16} {w : DWord} {s : State} (h2 : Good W q P s) : GoodRes W q P (execVidx c w s) := by
  unfold execVidx
  repeat' first
    | with_reducible assumption
    | with_reducible first | apply issue_good | apply doneV_good | apply goodRes_next

theorem execVpred_good {c : Fin 16} {w : DWord} {s : State} (h2 : Good W q P s) : GoodRes W q P (execVpred c w s)
    := by
  unfold execVpred
  repeat' first
    | with_reducible assumption
    | with_reducible first | apply issue_good | apply doneP_good | apply doneS_good | apply goodRes_next
    | dsimp only
    | split

/-! ## Scratch -/

theorem execLd_good {c : Fin 16} {w : DWord} {s : State} (h2 : Good W q P s) : GoodRes W q P (execLd c w s) := by
  unfold execLd
  repeat' first
    | with_reducible assumption
    | with_reducible first | apply issue_good | apply spadReadCheck_good | apply doneS_good | apply goodRes_next
    | with_reducible refine goodAct_some_eq (by assumption) ?_
    | dsimp only
    | split

theorem execSt_good {c : Fin 16} {w : DWord} {s : State} (h2 : Good W q P s) : GoodRes W q P (execSt c w s) := by
  unfold execSt
  repeat' first
    | with_reducible assumption
    | with_reducible first
        | apply issue_good | apply spadCheck_good | apply spadWrite_good | apply goodRes_next | apply goodAct_done
    | with_reducible refine goodAct_some_eq (by assumption) ?_
    | dsimp only
    | split

theorem firstTrap_good {s : State} {c : Fin 16} {rd : Bool} {n : ℕ} {v4 : List ℕ} (h0 : Good W q P s) : GoodOA W q P
    (firstTrap s c rd n v4) := by
  induction v4 with
  | nil =>
    unfold firstTrap
    repeat' first
      | with_reducible assumption
      | with_reducible first | apply spadReadCheck_good | apply spadCheck_good | apply goodOA_some | apply goodOA_none
  | cons a l ih =>
    unfold firstTrap
    repeat' first
      | with_reducible assumption
      | with_reducible first
          | apply ih | apply spadReadCheck_good | apply spadCheck_good | apply goodOA_some | apply goodOA_none
      | with_reducible refine goodAct_some_eq (by assumption) ?_
      | dsimp only
      | split

theorem clearWhole_good {m : Memory} {l : List (Nat × Nat)} (h : W → m.wf = true) : W → (clearWhole m l).wf = true
    := by
  intro w
  obtain ⟨h1, h2, h3⟩ := (Memory.wf_iff _).1 (h w)
  exact (Memory.wf_iff _).2 ⟨h1, h2, nwf_filter _ h3⟩

theorem loadAct_good {c : Fin 16} {w : DWord} {s : State} {addr : ℕ → ℕ} (h2 : Good W q P s) : GoodAct W q P
    (loadAct c w s addr) := by
  unfold loadAct
  repeat' first
    | with_reducible assumption
    | with_reducible first | apply firstTrap_good | apply doneV_good
    | with_reducible refine goodAct_some_eq (by assumption) ?_
    | dsimp only
    | split

theorem storeAct_good {c : Fin 16} {w : DWord} {s : State} {addr : ℕ → ℕ} (h2 : Good W q P s) : GoodAct W q P
    (storeAct c w s addr) := by
  unfold storeAct
  repeat' first
    | with_reducible assumption
    | with_reducible first
        | apply firstTrap_good | apply modCore_good | apply wf_scatterV | apply GoodCore.spad | apply goodAct_done
        | apply And.intro
    | with_reducible refine goodAct_some_eq (by assumption) ?_
    | simp only [goodCore_mk]
    | dsimp only
    | split
    | intro _

theorem execVld_good {c : Fin 16} {w : DWord} {s : State} (h2 : Good W q P s) : GoodRes W q P (execVld c w s) := by
  unfold execVld
  repeat' first
    | with_reducible assumption
    | with_reducible first | apply issue_good | apply loadAct_good | apply goodRes_next

theorem execVst_good {c : Fin 16} {w : DWord} {s : State} (h2 : Good W q P s) : GoodRes W q P (execVst c w s) := by
  unfold execVst
  repeat' first
    | with_reducible assumption
    | with_reducible first | apply issue_good | apply storeAct_good | apply goodRes_next

theorem execVlds_good {c : Fin 16} {w : DWord} {s : State} (h2 : Good W q P s) : GoodRes W q P (execVlds c w s) := by
  unfold execVlds
  repeat' first
    | with_reducible assumption
    | with_reducible first | apply issue_good | apply loadAct_good | apply goodRes_next

theorem execVsts_good {c : Fin 16} {w : DWord} {s : State} (h2 : Good W q P s) : GoodRes W q P (execVsts c w s) := by
  unfold execVsts
  repeat' first
    | with_reducible assumption
    | with_reducible first | apply issue_good | apply storeAct_good | apply goodRes_next

theorem indexAct_good {c : Fin 16} {w : DWord} {s : State} {rd : Bool} (h2 : Good W q P s) : GoodAct W q P
    (indexAct c w s rd) := by
  unfold indexAct
  repeat' first
    | with_reducible assumption
    | with_reducible first | apply firstTrap_good | apply pushD_good | apply goodAct_done
    | with_reducible refine goodAct_some_eq (by assumption) ?_
    | dsimp only
    | split

theorem execVgather_good {c : Fin 16} {w : DWord} {s : State} (h2 : Good W q P s) : GoodRes W q P
    (execVgather c w s) := by
  unfold execVgather
  repeat' first
    | with_reducible assumption
    | with_reducible first | apply issue_good | apply indexAct_good | apply goodRes_next

theorem execVscatter_good {c : Fin 16} {w : DWord} {s : State} (h2 : Good W q P s) : GoodRes W q P
    (execVscatter c w s) := by
  unfold execVscatter
  repeat' first
    | with_reducible assumption
    | with_reducible first | apply issue_good | apply indexAct_good | apply goodRes_next

theorem finishIndexed_good {s : State} {c : Fin 16} {d : DOp} (h0 : Good W q P s) : Good W q P (finishIndexed s c d)
    := by
  unfold finishIndexed
  repeat' first
    | with_reducible assumption
    | with_reducible first
        | apply modCore_good | apply setV_good | apply GoodCore.spad | apply wf_scatterV | apply And.intro
    | simp only [goodCore_mk]
    | dsimp only
    | split
    | intro _

/-! ## Access -/

theorem countFenced_good {s : State} {p : ℕ} {space : ℕ} {v3 : ℕ} {n : ℕ} (h0 : Good W q P s) : Good W q P
    (countFenced s p space v3 n) := by
  unfold countFenced
  repeat' first
    | with_reducible assumption
    | with_reducible first | apply bump_good
    | dsimp only
    | split

theorem devRead_good {s : State} {core : Option (Fin 16)} {p : ℕ} {space : ℕ} {v4 : ℕ} {n : ℕ} (h0 : Good W q P s)
    : GoodP2 W q P (devRead s core p space v4 n) := by
  unfold devRead
  repeat' first
    | with_reducible assumption
    | with_reducible first | apply hbmRead_good | apply cmMeet_good
    | simp only [goodP2_mk]
    | dsimp only
    | split

theorem devWrite_good {s : State} {core : Option (Fin 16)} {p : ℕ} {space : ℕ} {v4 : ℕ} {bs : List PByte} (h0
    : Good W q P s) : Good W q P (devWrite s core p space v4 bs) := by
  unfold devWrite
  repeat' first
    | with_reducible assumption
    | with_reducible first | apply spadWriteP_good | apply hbmWrite_good | apply cmWrite_good | apply good_elim
    | dsimp only
    | split
    | intro _

/-! ## Dma -/

theorem dmaStart_good {s : State} {c : Fin 16} (h0 : Good W q P s) : Good W q P (dmaStart s c) := by
  unfold dmaStart
  repeat' first
    | with_reducible assumption
    | with_reducible first | apply modCore_good | apply GoodCore.spad | apply And.intro
    | simp only [goodCore_mk]
    | dsimp only
    | split

theorem execDmaGo_good {c : Fin 16} {w : DWord} {s : State} (h2 : Good W q P s) : GoodRes W q P (execDmaGo c w s)
    := by
  unfold execDmaGo
  repeat' first
    | with_reducible assumption
    | with_reducible first
        | apply issue_good | apply spadReadCheck_good | apply dmaStart_good | apply modCore_good | apply setS_good
        | apply GoodCore.spad | apply goodRes_next | apply goodAct_trap | apply goodAct_wait | apply goodAct_done
        | apply And.intro
    | with_reducible refine goodAct_some_eq (by assumption) ?_
    | simp only [goodCore_mk]
    | dsimp only
    | split
    | intro _

theorem dmaRun_good {c : Fin 16} {p : ℕ} {d : BitVec 256} {v3 : ℕ} {v4 : ℕ} {v5 : State} {v6 : ℕ} {v7 : ℕ} {v8 : ℕ}
    (h5 : Good W q P v5) : GoodP1 W q P (dmaRun c p d v3 v4 v5 v6 v7 v8) := by
  induction v3 generalizing v4 v5 v6 v7 v8 with
  | zero =>
    unfold dmaRun
    repeat' first
      | with_reducible assumption
      | with_reducible first | apply countFenced_good | apply devRead_good | apply devWrite_good
      | simp only [goodP1_mk, good_snd]
  | succ n ih =>
    unfold dmaRun
    repeat' first
      | with_reducible assumption
      | with_reducible first | apply ih | apply countFenced_good | apply devRead_good | apply devWrite_good
      | simp only [goodP1_mk, good_snd]
      | dsimp only
      | split

theorem execDmaComplete_good {c : Fin 16} {e : Fin 4} {s : State} (h2 : Good W q P s) : GoodRes W q P
    (execDmaComplete c e s) := by
  unfold execDmaComplete
  repeat' first
    | with_reducible assumption
    | with_reducible first
        | apply dmaRun_good | apply modCore_good | apply GoodCore.spad | apply bump_good | apply dmaStart_good
        | apply drawFree_good | apply captureError_good | apply pulseIrq_good | apply goodRes_next | apply And.intro
    | simp only [goodCore_mk, good_fst, good_snd]
    | dsimp only
    | split

/-! ## Gate -/

theorem gated_good {s : State} {v1 : Access} {pg : PageId} {off : ℕ} {k : PageId → State} (h0 : Good W q P s) (h4
    : ∀ x00, Good W q P ((k x00))) : Good W q P (gated s v1 pg off k) := by
  unfold gated
  repeat' first
    | with_reducible assumption
    | with_reducible first | apply h4 | apply badAccess_good
    | dsimp only
    | split

theorem noteLocked_good {s : State} {pg : PageId} {off : ℕ} {data : Word} (h0 : Good W q P s) : Good W q P
    (noteLocked s pg off data) := by
  unfold noteLocked
  repeat' first
    | with_reducible assumption
    | with_reducible first | apply badAccess_good
    | dsimp only
    | split

theorem gatedRead_good {s : State} {rq : Requester} {pg : PageId} {k : PageId → State} (h0 : Good W q P s) (h3
    : ∀ x00, Good W q P ((k x00))) : Good W q P (gatedRead s rq pg k) := by
  unfold gatedRead
  repeat' first
    | with_reducible assumption
    | with_reducible first | apply h3 | apply emit_good
    | dsimp only
    | split

theorem startNow_good {s : State} {c : Fin 16} (h0 : Good W q P s) : Good W q P (startNow s c) := by
  unfold startNow
  repeat' first
    | with_reducible assumption
    | with_reducible first | apply modCore_good | apply GoodCore.spad | apply levelIrq_good | apply And.intro
    | simp only [goodCore_mk]

theorem runCore_good {s : State} {c : Fin 16} (h0 : Good W q P s) : Good W q P (runCore s c) := by
  unfold runCore
  repeat' first
    | with_reducible assumption
    | with_reducible first | apply modCore_good | apply GoodCore.spad | apply startNow_good | apply And.intro
    | simp only [goodCore_mk]
    | dsimp only
    | split

theorem stopCore_good {s : State} {c : Fin 16} {code : ℕ} (h0 : Good W q P s) : Good W q P (stopCore s c code) := by
  unfold stopCore
  repeat' first
    | with_reducible assumption
    | with_reducible first | apply takeTrap_good
    | dsimp only
    | split

theorem execIrqStatusClear_good {v0 : Access} {page : PageId} {data : Word} {s : State} (h3 : Good W q P s)
    : GoodRes W q P (execIrqStatusClear v0 page data s) := by
  unfold execIrqStatusClear
  repeat' first
    | with_reducible assumption
    | with_reducible first | apply gated_good | apply clearIrq_good | apply goodRes_next
    | dsimp only
    | split
    | intro _

theorem execIrqForce_good {v0 : Access} {page : PageId} {data : Word} {s : State} (h3 : Good W q P s)
    : GoodRes W q P (execIrqForce v0 page data s) := by
  unfold execIrqForce
  repeat' first
    | with_reducible assumption
    | with_reducible first
        | apply gated_good | apply updIrq_good | apply goodRes_next | apply GoodPage.regs | apply GoodPage.ctrs
        | apply And.intro
    | simp only [goodPage_mk]
    | dsimp only
    | split
    | intro _

theorem execErrCountRead_good {rq : Requester} {page : PageId} {s : State} (h2 : Good W q P s) : GoodRes W q P
    (execErrCountRead rq page s) := by
  unfold execErrCountRead
  repeat' first
    | with_reducible assumption
    | with_reducible first
        | apply gatedRead_good | apply emit_good | apply modPage_good | apply goodRes_next | apply GoodPage.regs
        | apply GoodPage.ctrs | apply And.intro
    | simp only [goodPage_mk]
    | dsimp only
    | split
    | intro _

theorem execBadAccessRead_good {rq : Requester} {s : State} (h1 : Good W q P s) : GoodRes W q P
    (execBadAccessRead rq s) := by
  unfold execBadAccessRead
  repeat' first
    | with_reducible assumption
    | with_reducible first | apply gatedRead_good | apply emit_good | apply putReg_good | apply goodRes_next
    | dsimp only
    | split
    | intro _

theorem lowRead_good {s : State} {rq : Requester} {pg : PageId} {pair : ℕ} {wide : Bool} (h0 : Good W q P s)
    : Good W q P (lowRead s rq pg pair wide) := by
  unfold lowRead
  repeat' first
    | with_reducible assumption
    | with_reducible first
        | apply emit_good | apply modPage_good | apply GoodPage.regs | apply GoodPage.ctrs | apply And.intro
    | simp only [goodPage_mk]
    | dsimp only
    | split
    | intro _

theorem execCounterLowRead_good {rq : Requester} {page : PageId} {pair : CounterRead} {s : State} (h4
    : Good W q P s) : GoodRes W q P (execCounterLowRead rq page pair s) := by
  unfold execCounterLowRead
  repeat' first
    | with_reducible assumption
    | with_reducible first | apply gatedRead_good | apply lowRead_good | apply goodRes_next
    | dsimp only
    | split
    | intro _

theorem execEnableClearOnIdle_good {page : PageId} {s : State} (h1 : Good W q P s) : GoodRes W q P
    (execEnableClearOnIdle page s) := by
  unfold execEnableClearOnIdle
  repeat' first
    | with_reducible assumption
    | with_reducible first
        | apply modPage_good | apply goodRes_next | apply GoodPage.regs | apply GoodPage.ctrs | apply And.intro
    | simp only [goodPage_mk]
    | dsimp only
    | split
    | intro _

theorem execIrqRouteWrite_good {v0 : Access} {index : Fin 128} {data : Word} {s : State} (h3 : Good W q P s)
    : GoodRes W q P (execIrqRouteWrite v0 index data s) := by
  unfold execIrqRouteWrite
  repeat' first
    | with_reducible assumption
    | with_reducible first | apply badAccess_good | apply putReg_good | apply deliverSrc_good | apply goodRes_next
    | dsimp only
    | split

theorem execRun_good {v0 : Access} {n : Fin 16} {s : State} (h2 : Good W q P s) : GoodRes W q P (execRun v0 n s) := by
  unfold execRun
  repeat' first
    | with_reducible assumption
    | with_reducible first | apply gated_good | apply runCore_good | apply goodRes_next
    | dsimp only
    | split
    | intro _

theorem execStop_good {v0 : Access} {n : Fin 16} {s : State} (h2 : Good W q P s) : GoodRes W q P (execStop v0 n s)
    := by
  unfold execStop
  repeat' first
    | with_reducible assumption
    | with_reducible first | apply gated_good | apply stopCore_good | apply goodRes_next
    | dsimp only
    | split
    | intro _

theorem requestReset_good {s : State} {c : Fin 16} (h0 : Good W q P s) : Good W q P (requestReset s c) := by
  unfold requestReset
  repeat' first
    | with_reducible assumption
    | with_reducible first | apply modCore_good | apply GoodCore.spad | apply And.intro
    | simp only [goodCore_mk]
    | dsimp only
    | split

theorem execCoreReset_good {v0 : Access} {n : Fin 16} {s : State} (h2 : Good W q P s) : GoodRes W q P
    (execCoreReset v0 n s) := by
  unfold execCoreReset
  repeat' first
    | with_reducible assumption
    | with_reducible first | apply gated_good | apply requestReset_good | apply goodRes_next
    | dsimp only
    | split
    | intro _

theorem clearedCore_good {k : Core} (h0 : GoodCore W k) : GoodCore W (clearedCore k) := by
  unfold clearedCore
  repeat' first
    | with_reducible assumption
    | with_reducible first | apply GoodCore.spad | apply And.intro
    | simp only [goodCore_mk]

theorem execCoreResetComplete_good {c : Fin 16} {s : State} (h1 : Good W q P s) : GoodRes W q P
    (execCoreResetComplete c s) := by
  unfold execCoreResetComplete
  repeat' first
    | with_reducible assumption
    | with_reducible first
        | apply modCore_good | apply clearedCore_good | apply Good.hbm | apply Good.cm | apply levelIrq_good
        | apply goodRes_next | apply Good.cores | apply Good.dir | apply Good.pages | apply Good.queue
        | apply Good.power | apply And.intro
    | simp only [good_mk]
    | dsimp only
    | split

theorem execImemDataHi_good {v0 : Access} {n : Fin 16} {data : Word} {s : State} (h3 : Good W q P s) : GoodRes W q P
    (execImemDataHi v0 n data s) := by
  unfold execImemDataHi
  repeat' first
    | with_reducible assumption
    | with_reducible first
        | apply gated_good | apply badAccess_good | apply modCore_good | apply GoodCore.spad | apply putReg_good
        | apply goodRes_next | apply And.intro
    | simp only [goodCore_mk]
    | dsimp only
    | split
    | intro _

/-! ## Message -/

theorem msgCheck_good {s : State} {c : Fin 16} {w : DWord} (h0 : Good W q P s) : GoodOA W q P (msgCheck s c w) := by
  unfold msgCheck
  repeat' first
    | with_reducible assumption
    | with_reducible first | apply spadCheck_good

theorem execSend_good {c : Fin 16} {w : DWord} {s : State} (h2 : Good W q P s) : GoodRes W q P (execSend c w s) := by
  unfold execSend
  repeat' first
    | with_reducible assumption
    | with_reducible first
        | apply issue_good | apply msgCheck_good | apply bump_good | apply Good.hbm | apply Good.cm
        | apply goodRes_next | apply goodAct_trap | apply goodAct_wait | apply goodAct_done | apply Good.cores
        | apply Good.dir | apply Good.pages | apply Good.queue | apply Good.power | apply And.intro
    | with_reducible refine goodAct_some_eq (by assumption) ?_
    | simp only [good_mk]
    | dsimp only
    | split

theorem execMessageDelivery_good {src : Fin 16} {dst : Fin 16} {chan : Fin 16} {s : State} (h3 : Good W q P s)
    : GoodRes W q P (execMessageDelivery src dst chan s) := by
  unfold execMessageDelivery
  repeat' first
    | with_reducible assumption
    | with_reducible first
        | apply modCore_good | apply Good.hbm | apply Good.cm | apply GoodCore.spad | apply goodRes_next
        | apply Good.cores | apply Good.dir | apply Good.pages | apply Good.queue | apply Good.power | apply And.intro
    | simp only [good_mk, goodCore_mk]
    | dsimp only
    | split

theorem takeMsg_good {s : State} {c : Fin 16} {w : DWord} {p : Msg → Bool} (h0 : Good W q P s) : GoodOP2 W q P
    (takeMsg s c w p) := by
  unfold takeMsg
  repeat' first
    | with_reducible assumption
    | with_reducible first
        | apply modCore_good | apply GoodCore.spad | apply bump_good | apply spadWriteP_good | apply goodOP2_none
        | apply And.intro
    | simp only [goodCore_mk, goodOP2_some]
    | dsimp only
    | split

theorem execRecv_good {c : Fin 16} {w : DWord} {s : State} (h2 : Good W q P s) : GoodRes W q P (execRecv c w s) := by
  unfold execRecv
  repeat' first
    | with_reducible assumption
    | with_reducible first
        | apply issue_good | apply msgCheck_good | apply takeMsg_good | apply goodRes_next | apply goodAct_trap
        | apply goodAct_wait | apply goodAct_done
    | with_reducible refine good_some_snd_eq (by assumption) ?_
    | with_reducible refine goodAct_some_eq (by assumption) ?_
    | dsimp only
    | split

theorem execRecvAny_good {c : Fin 16} {w : DWord} {s : State} (h2 : Good W q P s) : GoodRes W q P
    (execRecvAny c w s) := by
  unfold execRecvAny
  repeat' first
    | with_reducible assumption
    | with_reducible first
        | apply issue_good | apply msgCheck_good | apply takeMsg_good | apply doneS_good | apply goodRes_next
        | apply goodAct_wait
    | with_reducible refine good_some_snd_eq (by assumption) ?_
    | with_reducible refine goodAct_some_eq (by assumption) ?_
    | dsimp only
    | split

theorem execMsgProbe_good {c : Fin 16} {w : DWord} {s : State} (h2 : Good W q P s) : GoodRes W q P
    (execMsgProbe c w s) := by
  unfold execMsgProbe
  repeat' first
    | with_reducible assumption
    | with_reducible first | apply issue_good | apply doneS_good | apply goodRes_next

theorem freeDone_good {k : Core} (h0 : GoodCore W k) : GoodCore W (freeDone k) := by
  unfold freeDone
  repeat' first
    | with_reducible assumption
    | with_reducible first | apply GoodCore.spad | apply And.intro
    | simp only [goodCore_mk]

theorem execFence_good {c : Fin 16} {w : DWord} {s : State} (h2 : Good W q P s) : GoodRes W q P (execFence c w s)
    := by
  unfold execFence
  repeat' first
    | with_reducible assumption
    | with_reducible first
        | apply issue_good | apply modCore_good | apply freeDone_good | apply goodRes_next | apply goodAct_wait
        | apply goodAct_done
    | dsimp only
    | split

theorem execWait_good {c : Fin 16} {w : DWord} {s : State} (h2 : Good W q P s) : GoodRes W q P (execWait c w s) := by
  unfold execWait
  repeat' first
    | with_reducible assumption
    | with_reducible first
        | apply doneS_good | apply issue_good | apply modCore_good | apply GoodCore.spad | apply freeCtx_good
        | apply goodRes_next | apply goodAct_wait | apply And.intro
    | simp only [goodCore_mk]
    | dsimp only
    | split

theorem execWaitFirst_good {c : Fin 16} {w : DWord} {s : State} (h2 : Good W q P s) : GoodRes W q P
    (execWaitFirst c w s) := by
  unfold execWaitFirst
  repeat' first
    | with_reducible assumption
    | with_reducible first | apply issue_good | apply doneS_good | apply goodRes_next | apply goodAct_wait
    | dsimp only
    | split

theorem execTest_good {c : Fin 16} {w : DWord} {s : State} (h2 : Good W q P s) : GoodRes W q P (execTest c w s) := by
  unfold execTest
  repeat' first
    | with_reducible assumption
    | with_reducible first | apply issue_good | apply doneS_good | apply goodRes_next

theorem releaseBarrier_good {s : State} {c : Fin 16} {id : ℕ} {mask : ℕ} (h0 : Good W q P s) : Good W q P
    (releaseBarrier s c id mask) := by
  unfold releaseBarrier
  repeat' first
    | with_reducible assumption
    | with_reducible first | apply advance_good | apply retire_good | apply good_foldl
    | dsimp only
    | split
    | intro _

theorem execBarrier_good {c : Fin 16} {w : DWord} {s : State} (h2 : Good W q P s) : GoodRes W q P
    (execBarrier c w s) := by
  unfold execBarrier
  repeat' first
    | with_reducible assumption
    | with_reducible first
        | apply issue_good | apply releaseBarrier_good | apply goodRes_next | apply goodAct_trap | apply goodAct_wait
        | apply goodAct_done
    | dsimp only
    | split

theorem execGunWait_good {c : Fin 16} {w : DWord} {s : State} (h2 : Good W q P s) : GoodRes W q P
    (execGunWait c w s) := by
  unfold execGunWait
  repeat' first
    | with_reducible assumption
    | with_reducible first | apply issue_good | apply goodRes_next | apply goodAct_wait | apply goodAct_done
    | dsimp only
    | split

theorem execTrap_good {c : Fin 16} {w : DWord} {s : State} (h2 : Good W q P s) : GoodRes W q P (execTrap c w s) := by
  unfold execTrap
  repeat' first
    | with_reducible assumption
    | with_reducible first | apply issue_good | apply goodRes_next | apply goodAct_trap

theorem execBrk_good {c : Fin 16} {w : DWord} {s : State} (h2 : Good W q P s) : GoodRes W q P (execBrk c w s) := by
  unfold execBrk
  repeat' first
    | with_reducible assumption
    | with_reducible first | apply issue_good | apply goodRes_next | apply goodAct_trap

theorem execWaitTimeout_good {c : Fin 16} {s : State} (h1 : Good W q P s) : GoodRes W q P (execWaitTimeout c s) := by
  unfold execWaitTimeout
  repeat' first
    | with_reducible assumption
    | with_reducible first | apply takeTrap_good | apply goodRes_next
    | dsimp only
    | split

end Sys2Proof.Machine
end

