-- ==== Sys2Proof/Laws/KeepUnits.lean ====
section
/-! SUPPORT. The MAC array, Egret, Sandpiper, the packer and control memory: each keeps what `Good` says. -/

namespace Sys2Proof.Machine

open Sys2Proof

variable {W : Prop} {q : List Instr} {P : Power → Prop} {α : Type}

/-! ## Mac -/

theorem setElem_good {k : Core} {g : Group} {x : ℕ} {v3 : AccElem} (h0 : GoodCore W k) : GoodCore W
    (setElem k g x v3) := by
  unfold setElem
  repeat' first
    | with_reducible assumption
    | with_reducible first | apply GoodCore.spad | apply And.intro
    | simp only [goodCore_mk]

theorem putElem_good {k : Core} {g : Group} {x : ℕ} {v3 : AccElem} {b : AccElem} {t : Tally} (h0 : GoodCore W k)
    : GoodC1 W (putElem k g x v3 b t) := by
  unfold putElem
  repeat' first
    | with_reducible assumption
    | with_reducible first | apply setElem_good
    | simp only [goodC1_mk]

theorem modElem_good {g : Group} {x : ℕ} {f : AccElem → AccElem} {r : Core × Tally} (h3 : GoodC1 W r) : GoodC1 W
    (modElem g x f r) := by
  unfold modElem
  repeat' first
    | with_reducible assumption
    | with_reducible first | apply putElem_good
    | simp only [goodC1_fst]

theorem macReport_good {s : State} {c : Fin 16} {t : Tally} (h0 : Good W q P s) : Good W q P (macReport s c t) := by
  unfold macReport
  repeat' first
    | with_reducible assumption
    | with_reducible first | apply bump_good | apply pulseIrq_good
    | dsimp only
    | split

theorem flushRun_good {g : Group} {cell : ℕ} {r : Core × Tally} (h2 : GoodC1 W r) : GoodC1 W (flushRun g cell r) := by
  unfold flushRun
  repeat' first
    | with_reducible assumption
    | with_reducible first | apply modElem_good | apply GoodCore.spad | apply And.intro
    | simp only [goodCore_mk, goodC1_mk, goodC1_fst]
    | dsimp only
    | split

theorem cellStep_good {g : Group} {gi dt x cell : Nat} {p : Val} {r : Core × Tally} (h : GoodC1 W r) :
    GoodC1 W (cellStep g gi dt x cell p r).1 := by
  have h1 : ∀ t : Tally, GoodC1 W (r.1, t) := fun _ => h
  have h2 : ∀ (l : SMap Run) (t : Tally), GoodC1 W ({ r.1 with runs := l }, t) := fun _ _ => h
  unfold cellStep
  dsimp only
  split
  · split
    · exact h
    · split
      · exact h2 _ _
      · split
        · dsimp only
          split
          · exact flushRun_good (h2 _ _)
          · exact h2 _ _
        · show GoodC1 W (_, _)
          exact goodC1_mk.2 (goodC1_fst.2 (modElem_good (h1 _)))
  · exact modElem_good h

theorem tmmaRow_good {x : Tmma} {i av : Nat} {bs : List Nat} {r : Core × Tally} (h : GoodC1 W r) :
    GoodC1 W (tmmaRow x i av bs r).1 := by
  unfold tmmaRow
  refine foldl_keeps (P := fun (y : (Core × Tally) × Nat) => GoodC1 W y.1) h (fun y z hy => ?_)
  exact goodC1_fst.1 (cellStep_good hy)

theorem tmmaStep_good {x : Tmma} {m : Memory} {kk : Nat} {r : Core × Tally} (h : GoodC1 W r) :
    GoodC1 W (tmmaStep x m kk r) := by
  unfold tmmaStep
  dsimp only
  have := foldl_keeps (P := fun (y : (Core × Tally) × Nat) => GoodC1 W y.1) (l := List.range x.m)
    (b := (r, 0)) (f := fun (acc : (Core × Tally) × Nat) i =>
      let w := tmmaWidthA x.dt
      let av := m.readLE (x.a + kk * tmmaStrideA x.dt + i * w) w
      let t := acc.1.2
      let t := { t with widened := t.widened + bit01 (x.dt = 0x4 && (widenL8 x.s av).2) }
      let z := tmmaRow x i av ((List.range x.n).map (fun j => m.readLE (x.b + kk * 256 + 2 * j) 2)) (acc.1.1, t)
      (z.1, max acc.2 z.2)) h (fun y z hy => tmmaRow_good hy)
  exact this

theorem flushAll_good {k : Core} {t : Tally} (h0 : GoodCore W k) : GoodC1 W (flushAll k t) := by
  unfold flushAll
  repeat' first
    | with_reducible assumption
    | with_reducible first | apply flushRun_good | apply goodC1_foldl
    | simp only [goodC1_mk]
    | dsimp only
    | split
    | intro _

theorem poisonRegion_good {g : Group} {x : ℕ} {n : ℕ} {r : Core × Tally} (h3 : GoodC1 W r) : GoodC1 W
    (poisonRegion g x n r) := by
  unfold poisonRegion
  repeat' first
    | with_reducible assumption
    | with_reducible first | apply modElem_good | apply goodC1_foldl
    | simp only [goodC1_mk, goodC1_fst]
    | dsimp only
    | split
    | intro _

theorem runTmma_good {s : State} {c : Fin 16} {v2 : Tmma} (h0 : Good W q P s) : Good W q P (runTmma s c v2) := by
  unfold runTmma
  repeat' first
    | with_reducible assumption
    | with_reducible first
        | apply getCore_good | apply flushAll_good | apply tmmaStep_good | apply GoodCore.spad
        | apply poisonRegion_good | apply macReport_good | apply modCore_good | apply goodC1_foldl | apply And.intro
    | simp only [goodCore_mk, goodC1_fst]
    | dsimp only
    | split
    | intro _

theorem macFault_good {detail : ℕ} : GoodAct W q P (macFault detail) := by
  unfold macFault
  repeat' first
    | with_reducible assumption
    | with_reducible first | apply goodAct_fault

theorem tileCheck_good {k : Core} {w : DWord} {useS : Bool} {f : Group → Act} (h0 : GoodCore W k) (h3
    : ∀ x00, GoodAct W q P ((f x00))) : GoodAct W q P (tileCheck k w useS f) := by
  unfold tileCheck
  repeat' first
    | with_reducible assumption
    | with_reducible first | apply h3 | apply macFault_good
    | dsimp only
    | split

theorem firstAct_good {v0 : List (Option Act)} {v1 : Act} (h0 : GoodOAs W q P v0) (h1 : GoodAct W q P v1) :
    GoodAct W q P (firstAct v0 v1) := by
  induction v0 with
  | nil => exact h1
  | cons a l ih =>
    cases a with
    | none => exact ih (fun y hy => h0 y (List.mem_cons_of_mem _ hy))
    | some t => exact h0 (some t) List.mem_cons_self t rfl

theorem execTmma_good {c : Fin 16} {w : DWord} {s : State} (h2 : Good W q P s) : GoodRes W q P (execTmma c w s) := by
  unfold execTmma
  repeat' first
    | with_reducible assumption
    | with_reducible first
        | apply getCore_good | apply issue_good | apply tileCheck_good | apply macFault_good | apply firstAct_good
        | apply spadCheck_good | apply runTmma_good | apply goodRes_next | apply goodAct_done | apply goodOAs_nil
        | apply goodOAs_cons
    | dsimp only
    | split
    | intro _

theorem execTmmaComplete_good {c : Fin 16} {s : State} (h1 : Good W q P s) : GoodRes W q P (execTmmaComplete c s)
    := by
  unfold execTmmaComplete
  repeat' first
    | with_reducible assumption
    | with_reducible first
        | apply getCore_good | apply flushAll_good | apply macReport_good | apply modCore_good | apply GoodCore.spad
        | apply goodRes_next | apply And.intro
    | simp only [goodCore_mk, goodC1_fst]
    | dsimp only
    | split
    | intro _

theorem tileMem_good {s : State} {c : Fin 16} {v2 : Tile} {v3 : Act} (h0 : Good W q P s) (h3 : GoodAct W q P v3)
    : GoodAct W q P (tileMem s c v2 v3) := by
  unfold tileMem
  repeat' first
    | with_reducible assumption
    | with_reducible first | apply macFault_good | apply firstAct_good | apply spadCheck_good | apply goodOAs_map
    | dsimp only
    | split
    | intro _

theorem execTmovIn_good {c : Fin 16} {w : DWord} {s : State} (h2 : Good W q P s) : GoodRes W q P (execTmovIn c w s)
    := by
  unfold execTmovIn
  repeat' first
    | with_reducible assumption
    | with_reducible first
        | apply getCore_good | apply issue_good | apply tileCheck_good | apply macFault_good | apply tileMem_good
        | apply pushD_good | apply goodRes_next | apply goodAct_done
    | dsimp only
    | split
    | intro _

theorem execTmovOut_good {c : Fin 16} {w : DWord} {s : State} (h2 : Good W q P s) : GoodRes W q P
    (execTmovOut c w s) := by
  unfold execTmovOut
  repeat' first
    | with_reducible assumption
    | with_reducible first
        | apply getCore_good | apply issue_good | apply tileCheck_good | apply tileMem_good | apply pushD_good
        | apply goodRes_next | apply goodAct_trap | apply goodAct_done
    | dsimp only
    | split
    | intro _

theorem execTzero_good {c : Fin 16} {w : DWord} {s : State} (h2 : Good W q P s) : GoodRes W q P (execTzero c w s)
    := by
  unfold execTzero
  repeat' first
    | with_reducible assumption
    | with_reducible first
        | apply issue_good | apply tileCheck_good | apply getCore_good | apply pushD_good | apply goodRes_next
        | apply goodAct_done
    | dsimp only
    | split
    | intro _

theorem finishTmovIn_good {s : State} {c : Fin 16} {v2 : Tile} {add : Bool} (h0 : Good W q P s) : Good W q P
    (finishTmovIn s c v2 add) := by
  unfold finishTmovIn
  repeat' first
    | with_reducible assumption
    | with_reducible first
        | apply getCore_good | apply modElem_good | apply macReport_good | apply modCore_good | apply goodC1_foldl
    | simp only [goodC1_mk, goodC1_fst]
    | dsimp only
    | split
    | intro _

theorem finishTmovOut_good {s : State} {c : Fin 16} {v2 : Tile} (h0 : Good W q P s) : Good W q P
    (finishTmovOut s c v2) := by
  unfold finishTmovOut
  repeat' first
    | with_reducible assumption
    | with_reducible first
        | apply modCore_good | apply clearWhole_good | apply GoodCore.spad | apply spadWrite_good | apply bump_good
        | apply good_foldl | apply And.intro
    | simp only [goodCore_mk]
    | dsimp only
    | split
    | intro _

theorem finishTzero_good {s : State} {c : Fin 16} {v2 : Tile} (h0 : Good W q P s) : Good W q P (finishTzero s c v2)
    := by
  unfold finishTzero
  repeat' first
    | with_reducible assumption
    | with_reducible first | apply modCore_good | apply setElem_good | apply goodCore_foldl
    | dsimp only
    | split
    | intro _

theorem clearEntries_good {k : Core} {g : Group} (h0 : GoodCore W k) : GoodCore W (clearEntries k g) := by
  unfold clearEntries
  repeat' first
    | with_reducible assumption
    | with_reducible first | apply GoodCore.spad | apply And.intro
    | simp only [goodCore_mk]

theorem execAgOpen_good {c : Fin 16} {w : DWord} {s : State} (h2 : Good W q P s) : GoodRes W q P (execAgOpen c w s)
    := by
  unfold execAgOpen
  repeat' first
    | with_reducible assumption
    | with_reducible first
        | apply issue_good | apply macFault_good | apply modCore_good | apply clearEntries_good | apply GoodCore.spad
        | apply goodRes_next | apply goodAct_done | apply And.intro
    | simp only [goodCore_mk]
    | dsimp only
    | split
    | intro _

theorem execAgClose_good {c : Fin 16} {w : DWord} {s : State} (h2 : Good W q P s) : GoodRes W q P
    (execAgClose c w s) := by
  unfold execAgClose
  repeat' first
    | with_reducible assumption
    | with_reducible first
        | apply issue_good | apply macFault_good | apply pushD_good | apply goodRes_next | apply goodAct_done
    | dsimp only
    | split

theorem finishClose_good {s : State} {c : Fin 16} {gi : ℕ} (h0 : Good W q P s) : Good W q P (finishClose s c gi) := by
  unfold finishClose
  repeat' first
    | with_reducible assumption
    | with_reducible first | apply modCore_good | apply clearEntries_good | apply GoodCore.spad | apply And.intro
    | simp only [goodCore_mk]
    | dsimp only
    | split
    | intro _

theorem recCheck_good {s : State} {c : Fin 16} {w : DWord} {v3 : Act} (h0 : Good W q P s) (h3 : GoodAct W q P v3)
    : GoodAct W q P (recCheck s c w v3) := by
  unfold recCheck
  repeat' first
    | with_reducible assumption
    | with_reducible first
        | apply macFault_good | apply firstAct_good | apply spadCheck_good | apply goodOAs_nil | apply goodOAs_cons
    | dsimp only
    | split

theorem execAgSave_good {c : Fin 16} {w : DWord} {s : State} (h2 : Good W q P s) : GoodRes W q P (execAgSave c w s)
    := by
  unfold execAgSave
  repeat' first
    | with_reducible assumption
    | with_reducible first
        | apply issue_good | apply recCheck_good | apply pushD_good | apply goodRes_next | apply goodAct_done

theorem execAgLoad_good {c : Fin 16} {w : DWord} {s : State} (h2 : Good W q P s) : GoodRes W q P (execAgLoad c w s)
    := by
  unfold execAgLoad
  repeat' first
    | with_reducible assumption
    | with_reducible first
        | apply issue_good | apply recCheck_good | apply pushD_good | apply goodRes_next | apply goodAct_done

theorem finishSave_good {s : State} {c : Fin 16} {gi : ℕ} {v3 : ℕ} (h0 : Good W q P s) : Good W q P
    (finishSave s c gi v3) := by
  unfold finishSave
  repeat' first
    | with_reducible assumption
    | with_reducible first | apply spadWriteP_good
    | dsimp only
    | split

theorem finishLoad_good {s : State} {c : Fin 16} {gi : ℕ} {v3 : ℕ} {add : Bool} (h0 : Good W q P s) : Good W q P
    (finishLoad s c gi v3 add) := by
  unfold finishLoad
  repeat' first
    | with_reducible assumption
    | with_reducible first
        | apply getCore_good | apply modElem_good | apply macReport_good | apply modCore_good | apply goodC1_foldl
    | simp only [goodC1_mk, goodC1_fst]
    | dsimp only
    | split
    | intro _

theorem execAgChain_good {c : Fin 16} {w : DWord} {s : State} (h2 : Good W q P s) : GoodRes W q P
    (execAgChain c w s) := by
  unfold execAgChain
  repeat' first
    | with_reducible assumption
    | with_reducible first
        | apply modCore_good | apply setS_good | apply issue_good | apply macFault_good | apply bump_good
        | apply Good.hbm | apply Good.cm | apply goodRes_next | apply goodAct_trap | apply goodAct_done
        | apply Good.cores | apply Good.dir | apply Good.pages | apply Good.queue | apply Good.power | apply And.intro
    | simp only [good_mk]
    | dsimp only
    | split
    | intro _

theorem applyChain_good {s : State} {x : Chain} {d : Fin 16} {gi : ℕ} (h0 : Good W q P s) : Good W q P
    (applyChain s x d gi) := by
  unfold applyChain
  repeat' first
    | with_reducible assumption
    | with_reducible first
        | apply getCore_good | apply modElem_good | apply captureOpen_good | apply macReport_good | apply modCore_good
        | apply bump_good | apply goodC1_foldl
    | simp only [goodC1_mk, goodC1_fst]
    | dsimp only
    | split
    | intro _

theorem execChainTransferComplete_good {src : Fin 16} {dst : Fin 16} {chan : Fin 16} {s : State} (h3 : Good W q P s)
    : GoodRes W q P (execChainTransferComplete src dst chan s) := by
  unfold execChainTransferComplete
  repeat' first
    | with_reducible assumption
    | with_reducible first
        | apply applyChain_good | apply Good.hbm | apply Good.cm | apply goodRes_next | apply Good.cores
        | apply Good.dir | apply Good.pages | apply Good.queue | apply Good.power | apply And.intro
    | simp only [good_mk]
    | dsimp only
    | split

theorem finishMac_good {s : State} {c : Fin 16} {d : DOp} (h0 : Good W q P s) : Good W q P (finishMac s c d) := by
  unfold finishMac
  repeat' first
    | with_reducible assumption
    | with_reducible first
        | apply finishTmovIn_good | apply finishTmovOut_good | apply finishTzero_good | apply finishClose_good
        | apply finishSave_good | apply finishLoad_good
    | dsimp only
    | split

/-! ## Egret -/

theorem egretFault_good {shared : ℕ} {detail : ℕ} : GoodAct W q P (egretFault shared detail) := by
  unfold egretFault
  repeat' first
    | with_reducible assumption
    | with_reducible first | apply goodAct_fault

theorem egretCount_good {s : State} {c : Fin 16} {l : List FnRes} (h0 : Good W q P s) : Good W q P
    (egretCount s c l) := by
  unfold egretCount
  repeat' first
    | with_reducible assumption
    | with_reducible first | apply bump_good | apply pulseIrq_good
    | dsimp only
    | split

theorem efnAct_good {c : Fin 16} {w : DWord} {s : State} (h2 : Good W q P s) : GoodAct W q P (efnAct c w s) := by
  unfold efnAct
  repeat' first
    | with_reducible assumption
    | with_reducible first
        | apply modCore_good | apply setV_good | apply GoodCore.spad | apply drawFree_good | apply bump_good
        | apply egretCount_good | apply goodAct_done | apply And.intro
    | simp only [goodCore_mk, good_snd]
    | dsimp only
    | split
    | intro _

theorem execEfn_good {c : Fin 16} {w : DWord} {s : State} (h2 : Good W q P s) : GoodRes W q P (execEfn c w s) := by
  unfold execEfn
  repeat' first
    | with_reducible assumption
    | with_reducible first | apply issue_good | apply efnAct_good | apply egretFault_good | apply goodRes_next
    | dsimp only
    | split

theorem execErow_good {c : Fin 16} {w : DWord} {s : State} (h2 : Good W q P s) : GoodRes W q P (execErow c w s) := by
  unfold execErow
  repeat' first
    | with_reducible assumption
    | with_reducible first
        | apply issue_good | apply pushD_good | apply egretFault_good | apply firstAct_good | apply spadCheck_good
        | apply goodRes_next | apply goodAct_done | apply goodOA_none | apply goodOAs_nil | apply goodOAs_cons
        | apply goodOAs_flatMap
    | dsimp only
    | split
    | intro _

theorem rowCount_good {s : State} {c : Fin 16} {o : List FnRes × Bool × Bool} (h0 : Good W q P s) : Good W q P
    (rowCount s c o) := by
  unfold rowCount
  repeat' first
    | with_reducible assumption
    | with_reducible first | apply bump_good | apply pulseIrq_good | apply egretCount_good
    | dsimp only
    | split

theorem runRow_good {s : State} {c : Fin 16} {v2 : RowOp} {r : ℕ} (h0 : Good W q P s) : Good W q P (runRow s c v2 r)
    := by
  unfold runRow
  repeat' first
    | with_reducible assumption
    | with_reducible first
        | apply GoodCore.spad | apply modCore_good | apply bump_good | apply spadWriteP_good | apply rowCount_good
        | apply And.intro
    | simp only [goodCore_mk]
    | dsimp only
    | split

theorem finishErow_good {s : State} {c : Fin 16} {d : DOp} (h0 : Good W q P s) : Good W q P (finishErow s c d) := by
  unfold finishErow
  repeat' first
    | with_reducible assumption
    | with_reducible first
        | apply modCore_good | apply GoodCore.spad | apply runRow_good | apply good_foldl | apply And.intro
    | simp only [goodCore_mk]
    | dsimp only
    | split
    | intro _

theorem execEmpld_good {c : Fin 16} {w : DWord} {s : State} (h2 : Good W q P s) : GoodRes W q P (execEmpld c w s)
    := by
  unfold execEmpld
  repeat' first
    | with_reducible assumption
    | with_reducible first
        | apply issue_good | apply spadReadCheck_good | apply firstAct_good | apply pushD_good | apply goodRes_next
        | apply goodAct_done | apply goodOAs_nil | apply goodOAs_cons
    | with_reducible refine goodAct_some_eq (by assumption) ?_
    | dsimp only
    | split

theorem finishEmpld_good {s : State} {c : Fin 16} {d : DOp} (h0 : Good W q P s) : Good W q P (finishEmpld s c d) := by
  unfold finishEmpld
  repeat' first
    | with_reducible assumption
    | with_reducible first
        | apply GoodCore.spad | apply modCore_good | apply setS_good | apply captureOpen_good | apply bump_good
        | apply pulseIrq_good | apply And.intro
    | simp only [goodCore_mk]
    | dsimp only
    | split
    | intro _

theorem execImgDataRead_good {rq : Requester} {n : Fin 16} {s : State} (h2 : Good W q P s) : GoodRes W q P
    (execImgDataRead rq n s) := by
  unfold execImgDataRead
  repeat' first
    | with_reducible assumption
    | with_reducible first | apply gatedRead_good | apply emit_good | apply putReg_good | apply goodRes_next
    | dsimp only
    | split
    | intro _

/-! ## Sandpiper -/

theorem sandFault_good {detail : ℕ} : GoodAct W q P (sandFault detail) := by
  unfold sandFault
  repeat' first
    | with_reducible assumption
    | with_reducible first | apply goodAct_fault

theorem selCheck_good {s : State} {c : Fin 16} {shape : Bool} {ins : List Span} {outs : List Span} {same
    : Span → Span → Bool} {v6 : Act} (h0 : Good W q P s) (h6 : GoodAct W q P v6) : GoodAct W q P
    (selCheck s c shape ins outs same v6) := by
  unfold selCheck
  repeat' first
    | with_reducible assumption
    | with_reducible first | apply sandFault_good | apply goodAct_trap
    | dsimp only
    | split

theorem selReport_good {s : State} {c : Fin 16} {flags : ℕ} (h0 : Good W q P s) : Good W q P (selReport s c flags)
    := by
  unfold selReport
  repeat' first
    | with_reducible assumption
    | with_reducible first
        | apply modCore_good | apply GoodCore.spad | apply bump_good | apply pulseIrq_good | apply And.intro
    | simp only [goodCore_mk]
    | dsimp only
    | split

theorem pushDesc_good {s : State} {c : Fin 16} {w : DWord} {d : BitVec 512} {poison : Bool} (h0 : Good W q P s)
    : Good W q P (pushDesc s c w d poison) := by
  unfold pushDesc
  repeat' first
    | with_reducible assumption
    | with_reducible first | apply modCore_good | apply GoodCore.spad | apply And.intro
    | simp only [goodCore_mk]

theorem descAct_good {s : State} {c : Fin 16} {w : DWord} {f : BitVec 512 → Bool → Act} (h0 : Good W q P s) (h3
    : ∀ x00, ∀ x01, GoodAct W q P ((f x00 x01))) : GoodAct W q P (descAct s c w f) := by
  unfold descAct
  repeat' first
    | with_reducible assumption
    | with_reducible first | apply h3 | apply spadCheck_good
    | with_reducible refine goodAct_some_eq (by assumption) ?_
    | dsimp only
    | split

theorem execSpThr_good {c : Fin 16} {w : DWord} {s : State} (h2 : Good W q P s) : GoodRes W q P (execSpThr c w s)
    := by
  unfold execSpThr
  repeat' first
    | with_reducible assumption
    | with_reducible first
        | apply issue_good | apply descAct_good | apply selCheck_good | apply pushDesc_good | apply goodRes_next
        | apply goodAct_done
    | dsimp only
    | split
    | intro _

theorem finishThr_good {s : State} {c : Fin 16} {d : DOp} (h0 : Good W q P s) : Good W q P (finishThr s c d) := by
  unfold finishThr
  repeat' first
    | with_reducible assumption
    | with_reducible first
        | apply spadWriteP_good | apply modCore_good | apply setS_good | apply bump_good | apply selReport_good
    | dsimp only
    | split
    | intro _

theorem execSpSort_good {c : Fin 16} {w : DWord} {s : State} (h2 : Good W q P s) : GoodRes W q P (execSpSort c w s)
    := by
  unfold execSpSort
  repeat' first
    | with_reducible assumption
    | with_reducible first
        | apply issue_good | apply pushD_good | apply sandFault_good | apply goodRes_next | apply goodAct_done
    | dsimp only
    | split

theorem execSpMerge_good {c : Fin 16} {w : DWord} {s : State} (h2 : Good W q P s) : GoodRes W q P
    (execSpMerge c w s) := by
  unfold execSpMerge
  repeat' first
    | with_reducible assumption
    | with_reducible first
        | apply issue_good | apply sandFault_good | apply pushD_good | apply goodRes_next | apply goodAct_done
    | dsimp only
    | split

theorem writeSorted_good {k : Core} {rd : ℕ} {rc : ℕ} {n : ℕ} {l : List SortEntry} (h0 : GoodCore W k) : GoodCore W
    (writeSorted k rd rc n l) := by
  unfold writeSorted
  repeat' first
    | with_reducible assumption
    | with_reducible first | apply setV_good | apply goodCore_foldl
    | dsimp only
    | split
    | intro _

theorem finishSort_good {s : State} {c : Fin 16} {d : DOp} (h0 : Good W q P s) : Good W q P (finishSort s c d) := by
  unfold finishSort
  repeat' first
    | with_reducible assumption
    | with_reducible first | apply bump_good | apply modCore_good | apply writeSorted_good
    | dsimp only
    | split
    | intro _

theorem ladderCheck_good {k : Core} {w : DWord} {v2 : Act} (h0 : GoodCore W k) (h2 : GoodAct W q P v2)
    : GoodAct W q P (ladderCheck k w v2) := by
  unfold ladderCheck
  repeat' first
    | with_reducible assumption
    | with_reducible first | apply sandFault_good
    | dsimp only
    | split

theorem execSpLadder_good {c : Fin 16} {w : DWord} {s : State} (h2 : Good W q P s) : GoodRes W q P
    (execSpLadder c w s) := by
  unfold execSpLadder
  repeat' first
    | with_reducible assumption
    | with_reducible first
        | apply issue_good | apply ladderCheck_good | apply getCore_good | apply pushD_good | apply goodRes_next
        | apply goodAct_done

theorem finishLadder_good {s : State} {c : Fin 16} {d : DOp} (h0 : Good W q P s) : Good W q P (finishLadder s c d)
    := by
  unfold finishLadder
  repeat' first
    | with_reducible assumption
    | with_reducible first | apply bump_good | apply modCore_good | apply GoodCore.spad | apply And.intro
    | simp only [goodCore_mk]

theorem execSpDrain_good {c : Fin 16} {w : DWord} {s : State} (h2 : Good W q P s) : GoodRes W q P
    (execSpDrain c w s) := by
  unfold execSpDrain
  repeat' first
    | with_reducible assumption
    | with_reducible first
        | apply issue_good | apply sandFault_good | apply firstAct_good | apply spadCheck_good | apply pushD_good
        | apply goodRes_next | apply goodAct_done | apply goodOAs_nil | apply goodOAs_cons
    | dsimp only
    | split

theorem finishDrain_good {s : State} {c : Fin 16} {d : DOp} (h0 : Good W q P s) : Good W q P (finishDrain s c d) := by
  unfold finishDrain
  repeat' first
    | with_reducible assumption
    | with_reducible first | apply spadWrite_good | apply modCore_good | apply setS_good | apply bump_good
    | dsimp only
    | split
    | intro _

theorem runFold_good {s : State} {c : Fin 16} {w : DWord} {v3 : SelDesc} {descPoison : Bool} (h0 : Good W q P s)
    : Good W q P (runFold s c w v3 descPoison) := by
  unfold runFold
  repeat' first
    | with_reducible assumption
    | with_reducible first | apply GoodCore.spad | apply spadWriteP_good | apply modCore_good | apply And.intro
    | simp only [goodCore_mk]

theorem execFold_good {c : Fin 16} {w : DWord} {s : State} (h2 : Good W q P s) : GoodRes W q P (execFold c w s) := by
  unfold execFold
  repeat' first
    | with_reducible assumption
    | with_reducible first
        | apply issue_good | apply descAct_good | apply selCheck_good | apply runFold_good | apply goodRes_next
        | apply goodAct_done
    | dsimp only
    | split
    | intro _

theorem finishSand_good {s : State} {c : Fin 16} {d : DOp} (h0 : Good W q P s) : Good W q P (finishSand s c d) := by
  unfold finishSand
  repeat' first
    | with_reducible assumption
    | with_reducible first
        | apply finishThr_good | apply finishSort_good | apply finishLadder_good | apply finishDrain_good
    | dsimp only
    | split

theorem execClassDCompletion_good {c : Fin 16} {s : State} (h1 : Good W q P s) : GoodRes W q P
    (execClassDCompletion c s) := by
  unfold execClassDCompletion
  repeat' first
    | with_reducible assumption
    | with_reducible first
        | apply modCore_good | apply GoodCore.spad | apply finishIndexed_good | apply finishErow_good
        | apply finishEmpld_good | apply finishMac_good | apply finishSand_good | apply goodRes_next | apply And.intro
    | simp only [goodCore_mk]
    | dsimp only
    | split

/-! ## Packer -/

theorem packAct_good {c : Fin 16} {w : DWord} {op : ℕ} {s : State} (h3 : Good W q P s) : GoodAct W q P
    (packAct c w op s) := by
  unfold packAct
  repeat' first
    | with_reducible assumption
    | with_reducible first
        | apply spadCheck_good | apply takeCtx_good | apply modCore_good | apply setS_good | apply GoodCore.spad
        | apply goodAct_wait | apply goodAct_done | apply And.intro
    | with_reducible refine goodAct_some_eq (by assumption) ?_
    | simp only [goodCore_mk]
    | dsimp only
    | split
    | intro _

theorem execPack_good {c : Fin 16} {w : DWord} {s : State} (h2 : Good W q P s) : GoodRes W q P (execPack c w s) := by
  unfold execPack
  repeat' first
    | with_reducible assumption
    | with_reducible first | apply issue_good | apply packAct_good | apply goodRes_next
    | dsimp only
    | split

theorem execUnpack_good {c : Fin 16} {w : DWord} {s : State} (h2 : Good W q P s) : GoodRes W q P (execUnpack c w s)
    := by
  unfold execUnpack
  repeat' first
    | with_reducible assumption
    | with_reducible first | apply issue_good | apply packAct_good | apply goodRes_next
    | dsimp only
    | split

theorem execPackHist_good {c : Fin 16} {w : DWord} {s : State} (h2 : Good W q P s) : GoodRes W q P
    (execPackHist c w s) := by
  unfold execPackHist
  repeat' first
    | with_reducible assumption
    | with_reducible first | apply issue_good | apply packAct_good | apply goodRes_next

theorem PackEnd.s_good {self : PackEnd} (h0 : Good W q P self.s) : Good W q P (PackEnd.s self) := by
  unfold PackEnd.s
  repeat' first
    | with_reducible assumption

theorem packRefuse_good {s : State} {c : Fin 16} {f : ℕ} {n : ℕ} {code : Byte} (h0 : Good W q P s) : Good W q P
    (packRefuse s c f n code).s := by
  unfold packRefuse
  repeat' first
    | with_reducible assumption
    | with_reducible first | apply countFenced_good
    | dsimp only
    | split

theorem packRead_good {s : State} {c : Fin 16} {f : ℕ} {n : ℕ} (h0 : Good W q P s) : GoodP2 W q P (packRead s c f n)
    := by
  unfold packRead
  repeat' first
    | with_reducible assumption
    | with_reducible first | apply devRead_good

theorem packWrite_good {s : State} {c : Fin 16} {f : ℕ} {bs : List PByte} (h0 : Good W q P s) : Good W q P
    (packWrite s c f bs) := by
  unfold packWrite
  repeat' first
    | with_reducible assumption
    | with_reducible first | apply devWrite_good

theorem writeStreams_good {c : Fin 16} {d : PackDesc} {poison : Bool} {v3 : ℕ} {v4 : List (Packed × ℕ)} {v5 : State}
    (h5 : Good W q P v5) : Good W q P (writeStreams c d poison v3 v4 v5).s := by
  induction v4 generalizing v3 v5 with
  | nil =>
    unfold writeStreams
    repeat' first
      | with_reducible assumption
      | with_reducible first
          | apply packRefuse_good | apply packWrite_good | apply bump_good | apply pulseIrq_good | apply modCore_good
          | apply GoodCore.spad | apply And.intro
  | cons a l ih =>
    unfold writeStreams
    repeat' first
      | with_reducible assumption
      | with_reducible first
          | apply ih | apply packRefuse_good | apply packWrite_good | apply bump_good | apply pulseIrq_good
          | apply modCore_good | apply GoodCore.spad | apply And.intro
      | simp only [goodCore_mk]
      | dsimp only
      | split

theorem packSource_error {s : State} {c : Fin 16} {d : PackDesc} {e : PackEnd} (h : Good W q P s)
    (he : packSource s c d = .error e) : Good W q P e.s := by
  unfold packSource at he
  dsimp only at he
  repeat' split at he
  all_goals cases he
  all_goals first
    | exact packRefuse_good h
    | exact packRead_good (packRead_good h)

theorem packSource_ok {s t : State} {c : Fin 16} {d : PackDesc} {es : List (Nat × Nat)} {b : Bool} (h : Good W q P s)
    (he : packSource s c d = .ok (t, es, b)) : Good W q P t := by
  unfold packSource at he
  dsimp only at he
  repeat' split at he
  all_goals cases he
  all_goals first
    | exact packRead_good h
    | exact packRead_good (packRead_good h)

theorem runPackCoded_good {s : State} {c : Fin 16} {d : PackDesc} {hist dirty : Bool} (h : Good W q P s) :
    Good W q P (runPackCoded s c d hist dirty).s := by
  unfold runPackCoded
  dsimp only
  split
  · exact h
  · split
    · exact h
    · split
      · exact h
      · split
        · exact packSource_error h ‹_›
        · have := packSource_ok h ‹_›
          refine writeStreams_good ?_
          split
          · exact pulseIrq_good (bump_good (cmWrite_good this))
          · exact this

theorem runPackLow_good {s : State} {c : Fin 16} {d : PackDesc} {dirty : Bool} (h0 : Good W q P s) : Good W q P
    (runPackLow s c d dirty).s := by
  unfold runPackLow
  repeat' first
    | with_reducible assumption
    | with_reducible first | apply packRefuse_good | apply packRead_good | apply writeStreams_good
    | simp only [good_snd]
    | dsimp only
    | split

theorem runPack_good {s : State} {c : Fin 16} {d : PackDesc} {hist : Bool} {dirty : Bool} (h0 : Good W q P s)
    : Good W q P (runPack s c d hist dirty).s := by
  unfold runPack
  repeat' first
    | with_reducible assumption
    | with_reducible first | apply runPackLow_good | apply runPackCoded_good
    | dsimp only
    | split

theorem runUnpack_good {s : State} {c : Fin 16} {d : PackDesc} {dirty : Bool} (h0 : Good W q P s) : Good W q P
    (runUnpack s c d dirty).s := by
  unfold runUnpack
  repeat' first
    | with_reducible assumption
    | with_reducible first | apply packRefuse_good | apply packRead_good | apply bump_good | apply packWrite_good
    | simp only [good_snd]
    | dsimp only
    | split

theorem execPackCompletion_good {c : Fin 16} {s : State} (h1 : Good W q P s) : GoodRes W q P
    (execPackCompletion c s) := by
  unfold execPackCompletion
  repeat' first
    | with_reducible assumption
    | with_reducible first
        | apply runUnpack_good | apply runPack_good | apply bump_good | apply pulseIrq_good | apply modCore_good
        | apply GoodCore.spad | apply captureError_good | apply finishCtx_good | apply goodRes_next | apply And.intro
    | simp only [goodCore_mk]
    | dsimp only
    | split

/-! ## Coherence -/

theorem lineRead_good {s : State} {line : ℕ} (h0 : Good W q P s) : Good W q P (lineRead s line) := by
  unfold lineRead
  repeat' first
    | with_reducible assumption
    | with_reducible first | apply pulseIrq_good | apply bump_good | apply cmFind_good
    | dsimp only
    | split

theorem recallOther_good {s : State} {line : ℕ} {v2 : ℕ} (h0 : Good W q P s) : Good W q P (recallOther s line v2)
    := by
  unfold recallOther
  repeat' first
    | with_reducible assumption
    | with_reducible first | apply cmMerge_good | apply bump_good
    | dsimp only
    | split

theorem grantS_good {s : State} {line : ℕ} {v2 : ℕ} (h0 : Good W q P s) : Good W q P (grantS s line v2) := by
  unfold grantS
  repeat' first
    | with_reducible assumption
    | with_reducible first | apply lineRead_good | apply recallOther_good | apply setDir_good
    | dsimp only
    | split

theorem grantM_good {s : State} {line : ℕ} {v2 : ℕ} (h0 : Good W q P s) : Good W q P (grantM s line v2) := by
  unfold grantM
  repeat' first
    | with_reducible assumption
    | with_reducible first | apply lineRead_good | apply recallOther_good | apply bump_good | apply setDir_good

theorem applyAtomic_good {s : State} {addr : ℕ} {v2 : ℕ} {op : AtomicOp} (h0 : Good W q P s) : Good W q P
    (applyAtomic s addr v2 op) := by
  unfold applyAtomic
  repeat' first
    | with_reducible assumption
    | with_reducible first
        | apply cmRecallAll_good | apply setDir_good | apply lineRead_good | apply Good.cm | apply bump_good
        | apply Good.hbm | apply Memory.wf_writeLE | apply Good.cores | apply Good.dir | apply Good.pages
        | apply Good.queue | apply Good.power | apply And.intro
    | simp only [good_mk]
    | dsimp only
    | split
    | intro _

theorem noteGrant_good {s : State} {line : ℕ} (h0 : Good W q P s) : Good W q P (noteGrant s line) := by
  unfold noteGrant
  repeat' first
    | with_reducible assumption
    | with_reducible first
        | apply Good.hbm | apply Good.cm | apply Good.cores | apply Good.dir | apply Good.pages | apply Good.queue
        | apply Good.power | apply And.intro
    | simp only [good_mk]

theorem grant_good {s : State} {line : ℕ} {v2 : ℕ} {v3 : DirReq} (h0 : Good W q P s) : Good W q P
    (grant s line v2 v3) := by
  unfold grant
  repeat' first
    | with_reducible assumption
    | with_reducible first | apply grantS_good | apply noteGrant_good | apply grantM_good | apply applyAtomic_good
    | dsimp only
    | split

theorem refuseRetry_good {s : State} {line : ℕ} {v2 : ℕ} (h0 : Good W q P s) : Good W q P (refuseRetry s line v2)
    := by
  unfold refuseRetry
  repeat' first
    | with_reducible assumption
    | with_reducible first | apply bump_good | apply setDir_good
    | dsimp only
    | split

theorem cmAsk_good {s : State} {line : ℕ} {v2 : ℕ} (h0 : Good W q P s) : Good W q P (cmAsk s line v2) := by
  unfold cmAsk
  repeat' first
    | with_reducible assumption
    | with_reducible first | apply bump_good | apply setDir_good
    | dsimp only

theorem request_good {s : State} {line : ℕ} {v2 : ℕ} {r : DirReq} (h0 : Good W q P s) : Good W q P
    (request s line v2 r) := by
  unfold request
  repeat' first
    | with_reducible assumption
    | with_reducible first | apply cmAsk_good | apply setDir_good | apply refuseRetry_good | apply grant_good
    | dsimp only
    | split

theorem execGets_good {v0 : Fin 19} {line : ℕ} {s : State} (h2 : Good W q P s) : GoodRes W q P (execGets v0 line s)
    := by
  unfold execGets
  repeat' first
    | with_reducible assumption
    | with_reducible first | apply request_good | apply goodRes_next

theorem execGetm_good {v0 : Fin 19} {line : ℕ} {s : State} (h2 : Good W q P s) : GoodRes W q P (execGetm v0 line s)
    := by
  unfold execGetm
  repeat' first
    | with_reducible assumption
    | with_reducible first | apply request_good | apply goodRes_next

theorem execAtomic_good {v0 : Fin 19} {addr : ℕ} {op : AtomicOp} {s : State} (h3 : Good W q P s) : GoodRes W q P
    (execAtomic v0 addr op s) := by
  unfold execAtomic
  repeat' first
    | with_reducible assumption
    | with_reducible first | apply request_good | apply goodRes_next

theorem execPutm_good {v0 : Fin 19} {line : ℕ} {merge : BitVec 512} {s : State} (h3 : Good W q P s) : GoodRes W q P
    (execPutm v0 line merge s) := by
  unfold execPutm
  repeat' first
    | with_reducible assumption
    | with_reducible first | apply bump_good | apply cmMerge_good | apply setDir_good | apply goodRes_next
    | dsimp only
    | split

theorem execPuts_good {v0 : Fin 19} {line : ℕ} {s : State} (h2 : Good W q P s) : GoodRes W q P (execPuts v0 line s)
    := by
  unfold execPuts
  repeat' first
    | with_reducible assumption
    | with_reducible first | apply bump_good | apply setDir_good | apply goodRes_next
    | dsimp only
    | split

theorem execRetry_good {v0 : Fin 19} {line : ℕ} {s : State} (h2 : Good W q P s) : GoodRes W q P
    (execRetry v0 line s) := by
  unfold execRetry
  repeat' first
    | with_reducible assumption
    | with_reducible first | apply setDir_good | apply goodRes_next
    | dsimp only
    | split

theorem execRecall_good {line : ℕ} {s : State} (h1 : Good W q P s) : GoodRes W q P (execRecall line s) := by
  unfold execRecall
  repeat' first
    | with_reducible assumption
    | with_reducible first
        | apply setDir_good | apply Good.hbm | apply Good.cm | apply grant_good | apply goodRes_next
        | apply Good.cores | apply Good.dir | apply Good.pages | apply Good.queue | apply Good.power | apply And.intro
    | simp only [good_mk]
    | dsimp only
    | split

theorem execReservationExpiry_good {line : ℕ} {s : State} (h1 : Good W q P s) : GoodRes W q P
    (execReservationExpiry line s) := by
  unfold execReservationExpiry
  repeat' first
    | with_reducible assumption
    | with_reducible first | apply bump_good | apply setDir_good | apply goodRes_next
    | dsimp only
    | split

theorem execParityError_good {v0 : Fin 19} {line : ℕ} {s : State} (h2 : Good W q P s) : GoodRes W q P
    (execParityError v0 line s) := by
  unfold execParityError
  repeat' first
    | with_reducible assumption
    | with_reducible first
        | apply bump_good | apply cmMerge_good | apply setDir_good | apply lineRead_good | apply goodRes_next
    | dsimp only
    | split

theorem answerWait_good {s : State} {line : ℕ} (h0 : Good W q P s) : Good W q P (answerWait s line) := by
  unfold answerWait
  repeat' first
    | with_reducible assumption
    | with_reducible first | apply grant_good | apply setDir_good
    | dsimp only
    | split

theorem fenceAgent_good {s : State} {v1 : ℕ} (h0 : Good W q P s) : Good W q P (fenceAgent s v1) := by
  unfold fenceAgent
  repeat' first
    | with_reducible assumption
    | with_reducible first
        | apply Good.hbm | apply Good.cm | apply setDir_good | apply Memory.wf_setMark | apply bump_good
        | apply pulseIrq_good | apply captureError_good | apply logFault_good | apply answerWait_good
        | apply good_foldl | apply Good.cores | apply Good.dir | apply Good.pages | apply Good.queue
        | apply Good.power | apply And.intro
    | simp only [good_mk]
    | dsimp only
    | split
    | intro _

theorem execAgentFence_good {v0 : Fin 19} {s : State} (h1 : Good W q P s) : GoodRes W q P (execAgentFence v0 s) := by
  unfold execAgentFence
  repeat' first
    | with_reducible assumption
    | with_reducible first | apply fenceAgent_good | apply goodRes_next

theorem cmAct_good {s : State} {c : Fin 16} {w : DWord} {write : Bool} {f : ℕ → Act} (h0 : Good W q P s) (h4
    : ∀ x00, GoodAct W q P ((f x00))) : GoodAct W q P (cmAct s c w write f) := by
  unfold cmAct
  repeat' first
    | with_reducible assumption
    | with_reducible first | apply h4 | apply goodAct_trap | apply goodAct_wait
    | dsimp only
    | split

theorem cmServe_good {s : State} {line : ℕ} {v2 : ℕ} {gets : Bool} {f : State → Act} (h0 : Good W q P s) (h4
    : ∀ x00, Good W q P x00 → GoodAct W q P (f x00)) : GoodAct W q P (cmServe s line v2 gets f) := by
  unfold cmServe
  repeat' first
    | with_reducible assumption
    | with_reducible first | apply h4 | apply refuseRetry_good | apply cmAsk_good | apply goodAct_wait
    | dsimp only
    | split

theorem execCmld_good {c : Fin 16} {w : DWord} {s : State} (h2 : Good W q P s) : GoodRes W q P (execCmld c w s) := by
  unfold execCmld
  repeat' first
    | with_reducible assumption
    | with_reducible first
        | apply issue_good | apply cmAct_good | apply cmServe_good | apply lineRead_good | apply grantS_good
        | apply doneS_good | apply goodRes_next | apply goodAct_trapIn
    | dsimp only
    | split
    | intro _

theorem storeOwned_good {s : State} {v1 : ℕ} {v : DWord} (h0 : Good W q P s) : Good W q P (storeOwned s v1 v) := by
  unfold storeOwned
  repeat' first
    | with_reducible assumption
    | with_reducible first | apply setDir_good

theorem execCmst_good {c : Fin 16} {w : DWord} {s : State} (h2 : Good W q P s) : GoodRes W q P (execCmst c w s) := by
  unfold execCmst
  repeat' first
    | with_reducible assumption
    | with_reducible first
        | apply issue_good | apply cmAct_good | apply cmServe_good | apply grantM_good | apply bump_good | apply storeOwned_good
        | apply goodRes_next | apply goodAct_done
    | dsimp only
    | split
    | intro _

theorem execCmadd_good {c : Fin 16} {w : DWord} {s : State} (h2 : Good W q P s) : GoodRes W q P (execCmadd c w s)
    := by
  unfold execCmadd
  repeat' first
    | with_reducible assumption
    | with_reducible first
        | apply issue_good | apply cmAct_good | apply cmServe_good | apply applyAtomic_good | apply bump_good | apply goodRes_next
        | apply goodAct_done
    | dsimp only
    | split
    | intro _

theorem execCmatom_good {c : Fin 16} {w : DWord} {s : State} (h2 : Good W q P s) : GoodRes W q P (execCmatom c w s)
    := by
  unfold execCmatom
  repeat' first
    | with_reducible assumption
    | with_reducible first
        | apply issue_good | apply cmAct_good | apply cmServe_good | apply lineRead_good | apply doneS_good | apply applyAtomic_good
        | apply bump_good | apply goodRes_next | apply goodAct_trapIn
    | dsimp only
    | split
    | intro _

end Sys2Proof.Machine
end

