-- ==== Sys2Proof/Laws/KeepRelay.lean ====
section
/-! SUPPORT. Links, recording, posting and the Relay: each keeps what `Good` says. -/

namespace Sys2Proof.Machine

open Sys2Proof

variable {W : Prop} {q : List Instr} {P : Power → Prop} {α : Type}

/-! ## Link -/

theorem setPort_good {s : State} {m : Fin 8} {p : Port} (h0 : Good W q P s) : Good W q P (setPort s m p) := by
  unfold setPort
  repeat' first
    | with_reducible assumption
    | with_reducible first
        | apply Good.hbm | apply Good.cm | apply Good.cores | apply Good.dir | apply Good.pages | apply Good.queue
        | apply Good.power | apply And.intro
    | simp only [good_mk]

theorem modPort_good {s : State} {m : Fin 8} {f : Port → Port} (h0 : Good W q P s) : Good W q P (modPort s m f) := by
  unfold modPort
  repeat' first
    | with_reducible assumption
    | with_reducible first | apply setPort_good

theorem modCls_good {s : State} {m : Fin 8} {c : Fin 3} {f : ClassState → ClassState} (h0 : Good W q P s)
    : Good W q P (modCls s m c f) := by
  unfold modCls
  repeat' first
    | with_reducible assumption
    | with_reducible first | apply modPort_good

theorem enqueue_good {s : State} {m : ℕ} {f : Frame} (h0 : Good W q P s) : Good W q P (enqueue s m f) := by
  unfold enqueue
  repeat' first
    | with_reducible assumption
    | with_reducible first | apply modCls_good
    | dsimp only
    | split

theorem originate_good {s : State} {f : Frame} (h0 : Good W q P s) : GoodO W q P (originate s f) := by
  unfold originate
  repeat' first
    | with_reducible assumption
    | with_reducible first | apply enqueue_good | apply goodO_map
    | dsimp only
    | split
    | intro _

theorem sendM_good {s : State} {f : Frame} (h0 : Good W q P s) : Good W q P (sendM s f) := by
  unfold sendM
  repeat' first
    | with_reducible assumption
    | with_reducible first | apply originate_good | apply good_getD

theorem sendControl_good {s : State} {m : Fin 8} {f : Frame} (h0 : Good W q P s) : Good W q P (sendControl s m f)
    := by
  unfold sendControl
  repeat' first
    | with_reducible assumption
    | with_reducible first | apply emit_good

theorem noteAck_good {s : State} {m : Fin 8} {c : Fin 3} (h0 : Good W q P s) : Good W q P (noteAck s m c) := by
  unfold noteAck
  repeat' first
    | with_reducible assumption
    | with_reducible first | apply modCls_good

theorem sendAckNak_good {s : State} {m : Fin 8} {c : Fin 3} {kind : ℕ} (h0 : Good W q P s) : Good W q P
    (sendAckNak s m c kind) := by
  unfold sendAckNak
  repeat' first
    | with_reducible assumption
    | with_reducible first | apply noteAck_good | apply sendControl_good

theorem sendPfc_good {s : State} {m : Fin 8} {c : Fin 3} {time : ℕ} (h0 : Good W q P s) : Good W q P
    (sendPfc s m c time) := by
  unfold sendPfc
  repeat' first
    | with_reducible assumption
    | with_reducible first | apply bump_good | apply emit_good

theorem flowCheck_good {s : State} {m : Fin 8} {c : Fin 3} (h0 : Good W q P s) : Good W q P (flowCheck s m c) := by
  unfold flowCheck
  repeat' first
    | with_reducible assumption
    | with_reducible first | apply sendPfc_good | apply modPort_good
    | dsimp only
    | split

theorem takeHead_good {s : State} {m : Fin 8} {c : Fin 3} {f : Frame} (h0 : Good W q P s) : Good W q P
    (takeHead s m c f) := by
  unfold takeHead
  repeat' first
    | with_reducible assumption
    | with_reducible first | apply flowCheck_good | apply modCls_good
    | dsimp only
    | split

theorem storeAccepted_good {s : State} {m : Fin 8} {f : Frame} (h0 : Good W q P s) : Good W q P
    (storeAccepted s m f) := by
  unfold storeAccepted
  repeat' first
    | with_reducible assumption
    | with_reducible first | apply modPort_good | apply modCls_good | apply flowCheck_good
    | dsimp only
    | split

/-! ## Record -/

theorem modRing_good {s : State} {p : ℕ} {r : ℕ} {f : Ring → Ring} (h0 : Good W q P s) : Good W q P
    (modRing s p r f) := by
  unfold modRing
  repeat' first
    | with_reducible assumption
    | with_reducible first
        | apply Good.hbm | apply Good.cm | apply Good.cores | apply Good.dir | apply Good.pages | apply Good.queue
        | apply Good.power | apply And.intro
    | simp only [good_mk]

theorem deliverBell_good {s : State} {p : ℕ} {r : ℕ} {cq : Bool} {v : ℕ} (h0 : Good W q P s) : Good W q P
    (deliverBell s p r cq v) := by
  unfold deliverBell
  repeat' first
    | with_reducible assumption
    | with_reducible first | apply captureOpen1_good | apply modRing_good
    | dsimp only
    | split

theorem presentWake_good {s : State} {code : ℕ} (h0 : Good W q P s) : Good W q P (presentWake s code) := by
  unfold presentWake
  repeat' first
    | with_reducible assumption
    | with_reducible first
        | apply levelIrq_good | apply Good.hbm | apply Good.cm | apply Good.cores | apply Good.dir | apply Good.pages
        | apply Good.queue | apply Good.power | apply And.intro
    | simp only [good_mk]

theorem recWrite_good {s : State} {off : ℕ} {bs : List Byte} (h0 : Good W q P s) : Good W q P (recWrite s off bs)
    := by
  unfold recWrite
  repeat' first
    | with_reducible assumption
    | with_reducible first | apply hbmWrite_good
    | dsimp only
    | split

theorem setRecSt_good {s : State} {st : RecSt} (h0 : Good W q P s) : Good W q P (setRecSt s st) := by
  unfold setRecSt
  repeat' first
    | with_reducible assumption
    | with_reducible first
        | apply Good.hbm | apply Good.cm | apply levelIrq_good | apply Good.cores | apply Good.dir | apply Good.pages
        | apply Good.queue | apply Good.power | apply And.intro
    | simp only [good_mk]

theorem appendRec_good {s : State} {r : RecInput} (h0 : Good W q P s) : Good W q P (appendRec s r) := by
  unfold appendRec
  repeat' first
    | with_reducible assumption
    | with_reducible first
        | apply bump_good | apply recWrite_good | apply Good.hbm | apply Good.cm | apply setRecSt_good
        | apply Good.cores | apply Good.dir | apply Good.pages | apply Good.queue | apply Good.power | apply And.intro
    | simp only [good_mk]
    | dsimp only
    | split

theorem deliver_good {s : State} {v1 : HeldInput} (h0 : Good W q P s) : Good W q P (deliver s v1) := by
  unfold deliver
  repeat' first
    | with_reducible assumption
    | with_reducible first | apply deliverBell_good | apply storeAccepted_good | apply presentWake_good
    | dsimp only
    | split

theorem endReplay_good {s : State} {st : RecSt} (h0 : Good W q P s) : Good W q P (endReplay s st) := by
  unfold endReplay
  repeat' first
    | with_reducible assumption
    | with_reducible first
        | apply setRecSt_good | apply Good.hbm | apply Good.cm | apply deliver_good | apply good_foldl
        | apply Good.cores | apply Good.dir | apply Good.pages | apply Good.queue | apply Good.power | apply And.intro
    | simp only [good_mk]

theorem stopAll_good {s : State} {code : ℕ} (h0 : Good W q P s) : Good W q P (stopAll s code) := by
  unfold stopAll
  repeat' first
    | with_reducible assumption
    | with_reducible first | apply stopCore_good | apply good_foldl
    | dsimp only
    | split
    | intro _

theorem diverge_good {s : State} (h0 : Good W q P s) : Good W q P (diverge s) := by
  unfold diverge
  repeat' first
    | with_reducible assumption
    | with_reducible first | apply endReplay_good | apply stopAll_good

theorem settleReplay_good {v0 : ℕ} {v1 : State} (h1 : Good W q P v1) : Good W q P (settleReplay v0 v1) := by
  induction v0 generalizing v1 with
  | zero =>
    unfold settleReplay
    repeat' first
      | with_reducible assumption
      | with_reducible first
          | apply endReplay_good | apply Good.hbm | apply Good.cm | apply Good.cores | apply Good.dir
          | apply Good.pages | apply Good.queue | apply Good.power | apply And.intro
  | succ n ih =>
    unfold settleReplay
    repeat' first
      | with_reducible assumption
      | with_reducible first
          | apply ih | apply endReplay_good | apply Good.hbm | apply Good.cm | apply Good.cores | apply Good.dir
          | apply Good.pages | apply Good.queue | apply Good.power | apply And.intro
      | simp only [good_mk]
      | dsimp only
      | split

theorem consumeRec_good {s : State} (h0 : Good W q P s) : Good W q P (consumeRec s) := by
  unfold consumeRec
  repeat' first
    | with_reducible assumption
    | with_reducible first
        | apply bump_good | apply Good.hbm | apply Good.cm | apply settleReplay_good | apply Good.cores
        | apply Good.dir | apply Good.pages | apply Good.queue | apply Good.power | apply And.intro
    | simp only [good_mk]

theorem liveInput_good {s : State} {i : HeldInput} (h0 : Good W q P s) : Good W q P (liveInput s i) := by
  unfold liveInput
  repeat' first
    | with_reducible assumption
    | with_reducible first
        | apply deliver_good | apply appendRec_good | apply Good.hbm | apply Good.cm | apply Good.cores
        | apply Good.dir | apply Good.pages | apply Good.queue | apply Good.power | apply And.intro
    | simp only [good_mk]
    | dsimp only
    | split

theorem markInput_good {s : State} {r : RecInput} (h0 : Good W q P s) : Good W q P (markInput s r) := by
  unfold markInput
  repeat' first
    | with_reducible assumption
    | with_reducible first | apply appendRec_good | apply consumeRec_good | apply diverge_good
    | dsimp only
    | split

theorem readInput_good {s : State} {part : ℕ} {tag : ℕ} {bs : List Byte} (h0 : Good W q P s) : Good W q P
    (readInput s part tag bs) := by
  unfold readInput
  repeat' first
    | with_reducible assumption
    | with_reducible first
        | apply appendRec_good | apply diverge_good | apply consumeRec_good | apply bump_good | apply Good.hbm
        | apply Good.cm | apply Good.cores | apply Good.dir | apply Good.pages | apply Good.queue | apply Good.power
        | apply And.intro
    | simp only [good_mk]
    | dsimp only
    | split

/-! ## Post -/

theorem noteFail_good {s : State} {queue : ℕ} {code : ℕ} {order : ℕ} (h0 : Good W q P s) : Good W q P
    (noteFail s queue code order) := by
  unfold noteFail
  repeat' first
    | with_reducible assumption
    | with_reducible first
        | apply Good.hbm | apply Good.cm | apply Good.cores | apply Good.dir | apply Good.pages | apply Good.queue
        | apply Good.power | apply And.intro
    | simp only [good_mk]
    | dsimp only
    | split

theorem noteRefused_good {s : State} {kind : CtxKind} {desc : List Byte} (h0 : Good W q P s) : Good W q P
    (noteRefused s kind desc) := by
  unfold noteRefused
  repeat' first
    | with_reducible assumption
    | with_reducible first
        | apply noteFail_good | apply Good.hbm | apply Good.cm | apply Good.cores | apply Good.dir | apply Good.pages
        | apply Good.queue | apply Good.power | apply And.intro
    | simp only [good_mk]
    | dsimp only
    | split

theorem putRecord_good {s : State} {c : Fin 16} {compl : ℕ} {record : List Byte} (h0 : Good W q P s) : Good W q P
    (putRecord s c compl record) := by
  unfold putRecord
  repeat' first
    | with_reducible assumption
    | with_reducible first | apply spadWrite_good
    | dsimp only
    | split

theorem refusePost_good {s : State} {c : Fin 16} {tag : ℕ} {v3 : ℕ} {kind : CtxKind} (h0 : Good W q P s)
    : Good W q P (refusePost s c tag v3 kind) := by
  unfold refusePost
  repeat' first
    | with_reducible assumption
    | with_reducible first | apply putRecord_good | apply finishCtx_good | apply noteRefused_good

theorem postAct_good {c : Fin 16} {w : DWord} {kind : CtxKind} {s : State} (h3 : Good W q P s) : GoodAct W q P
    (postAct c w kind s) := by
  unfold postAct
  repeat' first
    | with_reducible assumption
    | with_reducible first
        | apply spadCheck_good | apply takeCtx_good | apply refusePost_good | apply doneS_good | apply goodAct_wait
    | with_reducible refine goodAct_some_eq (by assumption) ?_
    | dsimp only
    | split

theorem execRpost_good {c : Fin 16} {w : DWord} {s : State} (h2 : Good W q P s) : GoodRes W q P (execRpost c w s)
    := by
  unfold execRpost
  repeat' first
    | with_reducible assumption
    | with_reducible first | apply issue_good | apply postAct_good | apply goodRes_next

theorem execSpost_good {c : Fin 16} {w : DWord} {s : State} (h2 : Good W q P s) : GoodRes W q P (execSpost c w s)
    := by
  unfold execSpost
  repeat' first
    | with_reducible assumption
    | with_reducible first | apply issue_good | apply postAct_good | apply goodRes_next

theorem startCtx_good {s : State} {tag : ℕ} (h0 : Good W q P s) : Good W q P (startCtx s tag) := by
  unfold startCtx
  repeat' first
    | with_reducible assumption
    | with_reducible first
        | apply Good.hbm | apply Good.cm | apply Good.cores | apply Good.dir | apply Good.pages | apply Good.queue
        | apply Good.power | apply And.intro
    | simp only [good_mk]
    | dsimp only
    | split

theorem completePost_good {s : State} {tag : ℕ} {compl : ℕ} {record : List Byte} {r : Result} (h0 : Good W q P s)
    : Good W q P (completePost s tag compl record r) := by
  unfold completePost
  repeat' first
    | with_reducible assumption
    | with_reducible first | apply putRecord_good | apply finishCtx_good
    | dsimp only
    | split

/-! ## Relay -/

theorem setGrp_good {s : State} {g : ℕ} {x : RGroup} (h0 : Good W q P s) : Good W q P (setGrp s g x) := by
  unfold setGrp
  repeat' first
    | with_reducible assumption
    | with_reducible first
        | apply Good.hbm | apply Good.cm | apply Good.cores | apply Good.dir | apply Good.pages | apply Good.queue
        | apply Good.power | apply And.intro
    | simp only [good_mk]

theorem modGrp_good {s : State} {g : ℕ} {f : RGroup → RGroup} (h0 : Good W q P s) : Good W q P (modGrp s g f) := by
  unfold modGrp
  repeat' first
    | with_reducible assumption
    | with_reducible first | apply setGrp_good

theorem sendRelayMsg_good {s : State} {g : ℕ} {dst : ℕ} {msg : ℕ} {payload : List Byte} (h0 : Good W q P s)
    : Good W q P (sendRelayMsg s g dst msg payload) := by
  unfold sendRelayMsg
  repeat' first
    | with_reducible assumption
    | with_reducible first | apply sendM_good

theorem sendRelayAll_good {s : State} {g : ℕ} {set : BitVec 256} {msg : ℕ} {payload : List Byte} (h0 : Good W q P s)
    : Good W q P (sendRelayAll s g set msg payload) := by
  unfold sendRelayAll
  repeat' first
    | with_reducible assumption
    | with_reducible first | apply sendRelayMsg_good | apply good_foldl
    | dsimp only
    | split
    | intro _

theorem sendSingle_good {s : State} {g : ℕ} {m : ℕ} {kind : ℕ} {step : ℕ} {payload : List Byte} (h0 : Good W q P s)
    : Good W q P (sendSingle s g m kind step payload) := by
  unfold sendSingle
  repeat' first
    | with_reducible assumption
    | with_reducible first | apply enqueue_good

theorem sendDown_good {s : State} {g : ℕ} {kind : ℕ} {step : ℕ} {payload : List Byte} (h0 : Good W q P s)
    : Good W q P (sendDown s g kind step payload) := by
  unfold sendDown
  repeat' first
    | with_reducible assumption
    | with_reducible first | apply sendSingle_good | apply good_foldl
    | dsimp only
    | split
    | intro _

theorem sendCredit_good {s : State} {g : ℕ} {l : LinkCredit} (h0 : Good W q P s) : Good W q P (sendCredit s g l) := by
  unfold sendCredit
  repeat' first
    | with_reducible assumption
    | with_reducible first | apply sendControl_good
    | dsimp only
    | split

theorem returnCredit_good {s : State} {g : ℕ} {m : ℕ} (h0 : Good W q P s) : Good W q P (returnCredit s g m) := by
  unfold returnCredit
  repeat' first
    | with_reducible assumption
    | with_reducible first | apply modGrp_good | apply sendCredit_good
    | dsimp only
    | split

theorem purgeGroup_good {s : State} {g : ℕ} (h0 : Good W q P s) : Good W q P (purgeGroup s g) := by
  unfold purgeGroup
  repeat' first
    | with_reducible assumption
    | with_reducible first | apply modPort_good | apply good_foldl
    | dsimp only
    | split
    | intro _

/-! ## RelayStep -/

theorem relRead_good {s : State} {st : StepState} {f : ℕ} {off : ℕ} {n : ℕ} (h0 : Good W q P s) : GoodP2 W q P
    (relRead s st f off n) := by
  unfold relRead
  repeat' first
    | with_reducible assumption
    | with_reducible first | apply devRead_good

theorem relWrite_good {s : State} {st : StepState} {f : ℕ} {off : ℕ} {bs : List PByte} (h0 : Good W q P s)
    : Good W q P (relWrite s st f off bs) := by
  unfold relWrite
  repeat' first
    | with_reducible assumption
    | with_reducible first | apply devWrite_good

theorem contribution_good {s : State} {st : StepState} (h0 : Good W q P s) : GoodP1 W q P (contribution s st) := by
  unfold contribution
  repeat' first
    | with_reducible assumption
    | with_reducible first | apply relRead_good
    | simp only [goodP1_mk, good_snd]
    | dsimp only
    | split

theorem modStep_good {s : State} {g : ℕ} {f : StepState → StepState} (h0 : Good W q P s) : Good W q P
    (modStep s g f) := by
  unfold modStep
  repeat' first
    | with_reducible assumption
    | with_reducible first | apply modGrp_good

theorem completeStep_good {s : State} {g : ℕ} {tag : ℕ} {compl : ℕ} {step : ℕ} {code : Byte} {detail : ℕ} (h0
    : Good W q P s) : Good W q P (completeStep s g tag compl step code detail) := by
  unfold completeStep
  repeat' first
    | with_reducible assumption
    | with_reducible first | apply completePost_good

theorem completeCmd_good {s : State} {g : ℕ} {tag : ℕ} {code : Byte} {detail : ℕ} (h0 : Good W q P s) : Good W q P
    (completeCmd s g tag code detail) := by
  unfold completeCmd
  repeat' first
    | with_reducible assumption
    | with_reducible first | apply completePost_good
    | dsimp only
    | split

theorem countStep_good {s : State} {g : ℕ} {code : Byte} {detail : ℕ} {number : ℕ} (h0 : Good W q P s) : Good W q P
    (countStep s g code detail number) := by
  unfold countStep
  repeat' first
    | with_reducible assumption
    | with_reducible first | apply bump_good | apply pulseIrq_good | apply captureError_good
    | dsimp only
    | split

theorem refuseStep_good {s : State} {g : ℕ} {tag : ℕ} {code : Byte} {detail : ℕ} (h0 : Good W q P s) : Good W q P
    (refuseStep s g tag code detail) := by
  unfold refuseStep
  repeat' first
    | with_reducible assumption
    | with_reducible first | apply countStep_good | apply completeCmd_good

theorem endPosted_good {s : State} {g : ℕ} {tag : ℕ} {number : ℕ} {code : Byte} {detail : ℕ} (h0 : Good W q P s)
    : Good W q P (endPosted s g tag number code detail) := by
  unfold endPosted
  repeat' first
    | with_reducible assumption
    | with_reducible first | apply countStep_good | apply completeStep_good
    | dsimp only
    | split

theorem endStep_good {s : State} {g : ℕ} {code : Byte} {detail : ℕ} (h0 : Good W q P s) : Good W q P
    (endStep s g code detail) := by
  unfold endStep
  repeat' first
    | with_reducible assumption
    | with_reducible first | apply completeStep_good | apply countStep_good | apply modGrp_good
    | dsimp only
    | split

theorem writeDst_good {s : State} {g : ℕ} {st : StepState} {off : ℕ} {bs : List PByte} (h0 : Good W q P s)
    : Good W q P (writeDst s g st off bs) := by
  unfold writeDst
  repeat' first
    | with_reducible assumption
    | with_reducible first | apply relWrite_good | apply modStep_good
    | dsimp only
    | split

theorem writeEntries_good {s : State} {g : ℕ} {k : ℕ} {es : List E56Entry} (h0 : Good W q P s) : Good W q P
    (writeEntries s g k es) := by
  unfold writeEntries
  repeat' first
    | with_reducible assumption
    | with_reducible first | apply writeDst_good
    | dsimp only
    | split

theorem writeHeader_good {s : State} {g : ℕ} {count : ℕ} (h0 : Good W q P s) : Good W q P (writeHeader s g count)
    := by
  unfold writeHeader
  repeat' first
    | with_reducible assumption
    | with_reducible first | apply writeDst_good
    | dsimp only
    | split

theorem releaseStep_good {s : State} {g : ℕ} (h0 : Good W q P s) : Good W q P (releaseStep s g) := by
  unfold releaseStep
  repeat' first
    | with_reducible assumption
    | with_reducible first | apply modGrp_good | apply endStep_good | apply sendDown_good
    | dsimp only
    | split

theorem tryDone_good {s : State} {g : ℕ} (h0 : Good W q P s) : Good W q P (tryDone s g) := by
  unfold tryDone
  repeat' first
    | with_reducible assumption
    | with_reducible first | apply modStep_good | apply sendSingle_good | apply releaseStep_good
    | dsimp only
    | split

theorem applyEnd_good {s : State} {g : ℕ} {status : ℕ} {detail : ℕ} {count : ℕ} {scales : List ℤ} {data : Bool} (h0
    : Good W q P s) : Good W q P (applyEnd s g status detail count scales data) := by
  unfold applyEnd
  repeat' first
    | with_reducible assumption
    | with_reducible first
        | apply modStep_good | apply writeHeader_good | apply modGrp_good | apply bump_good | apply sendDown_good
    | dsimp only
    | split

theorem failEarly_good {s : State} {g : ℕ} {code : Byte} {detail : ℕ} (h0 : Good W q P s) : Good W q P
    (failEarly s g code detail) := by
  unfold failEarly
  repeat' first
    | with_reducible assumption
    | with_reducible first | apply applyEnd_good | apply endStep_good | apply tryDone_good
    | dsimp only
    | split

theorem queueChunks_good {s : State} {g : ℕ} {m : ℕ} {kind : ℕ} {form : ℕ} {number : ℕ} {first : ℕ} {curlew : Bool}
    {status : ℕ} {detail : ℕ} {chunks : List (List PByte)} (h0 : Good W q P s) : Good W q P
    (queueChunks s g m kind form number first curlew status detail chunks) := by
  unfold queueChunks
  repeat' first
    | with_reducible assumption
    | with_reducible first | apply enqueue_good | apply good_foldl
    | dsimp only
    | split
    | intro _

theorem noteStatus_good {s : State} {g : ℕ} {x : ℕ × ℕ} (h0 : Good W q P s) : Good W q P (noteStatus s g x) := by
  unfold noteStatus
  repeat' first
    | with_reducible assumption
    | with_reducible first | apply modStep_good

theorem finishUp_good {s : State} {g : ℕ} (h0 : Good W q P s) : Good W q P (finishUp s g) := by
  unfold finishUp
  repeat' first
    | with_reducible assumption
    | with_reducible first
        | apply bump_good | apply noteStatus_good | apply modStep_good | apply queueChunks_good
        | apply writeEntries_good | apply tryDone_good | apply applyEnd_good | apply good_foldl
    | dsimp only
    | split
    | intro _

theorem tryUp_good {s : State} {g : ℕ} (h0 : Good W q P s) : Good W q P (tryUp s g) := by
  unfold tryUp
  repeat' first
    | with_reducible assumption
    | with_reducible first | apply finishUp_good
    | dsimp only
    | split

theorem tryCount_good {s : State} {g : ℕ} (h0 : Good W q P s) : Good W q P (tryCount s g) := by
  unfold tryCount
  repeat' first
    | with_reducible assumption
    | with_reducible first
        | apply modStep_good | apply sendSingle_good | apply failEarly_good | apply sendDown_good | apply tryUp_good
    | dsimp only
    | split

theorem beginStep_good {s : State} {g : ℕ} {tag : ℕ} {number : ℕ} (h0 : Good W q P s) : Good W q P
    (beginStep s g tag number) := by
  unfold beginStep
  repeat' first
    | with_reducible assumption
    | with_reducible first
        | apply modGrp_good | apply modStep_good | apply contribution_good | apply noteStatus_good
        | apply tryCount_good
    | simp only [good_fst]
    | dsimp only
    | split

/-! ## RelayForm -/

theorem failGroup_good {s : State} {g : ℕ} {code : Byte} {detail : ℕ} (h0 : Good W q P s) : Good W q P
    (failGroup s g code detail) := by
  unfold failGroup
  repeat' first
    | with_reducible assumption
    | with_reducible first
        | apply pulseIrq_good | apply modGrp_good | apply captureError_good | apply purgeGroup_good
        | apply endStep_good | apply endPosted_good | apply completeCmd_good | apply good_foldl
    | dsimp only
    | split
    | intro _

theorem buildTree_good {s : State} {g : ℕ} {members : BitVec 256} (h0 : Good W q P s) : GoodO W q P
    (buildTree s g members) := by
  unfold buildTree
  repeat' first
    | with_reducible assumption
    | with_reducible first
        | apply modGrp_good | apply sendCredit_good | apply good_foldl | apply goodO_some | apply goodO_none
    | dsimp only
    | split
    | intro _

theorem finishReform_good {s : State} {g : ℕ} (h0 : Good W q P s) : Good W q P (finishReform s g) := by
  unfold finishReform
  repeat' first
    | with_reducible assumption
    | with_reducible first
        | apply modGrp_good | apply endStep_good | apply pulseIrq_good | apply bump_good | apply completeCmd_good
        | apply good_foldl
    | dsimp only
    | split
    | intro _

theorem tryReady_good {s : State} {g : ℕ} (h0 : Good W q P s) : Good W q P (tryReady s g) := by
  unfold tryReady
  repeat' first
    | with_reducible assumption
    | with_reducible first
        | apply buildTree_good | apply completeCmd_good | apply setGrp_good | apply failGroup_good | apply modGrp_good
        | apply finishReform_good | apply good_foldl
    | with_reducible refine good_some_eq (by assumption) ?_
    | dsimp only
    | split
    | intro _

theorem sendCommit_good {s : State} {g : ℕ} {set : BitVec 256} (h0 : Good W q P s) : Good W q P (sendCommit s g set)
    := by
  unfold sendCommit
  repeat' first
    | with_reducible assumption
    | with_reducible first | apply sendRelayAll_good | apply modGrp_good | apply tryReady_good

theorem tryCommit_good {s : State} {g : ℕ} (h0 : Good W q P s) : Good W q P (tryCommit s g) := by
  unfold tryCommit
  repeat' first
    | with_reducible assumption
    | with_reducible first | apply sendCommit_good
    | dsimp only
    | split

theorem announce_good {s : State} {g : ℕ} {set : BitVec 256} (h0 : Good W q P s) : Good W q P (announce s g set) := by
  unfold announce
  repeat' first
    | with_reducible assumption
    | with_reducible first | apply modGrp_good | apply sendRelayAll_good

theorem beginAttempt_good {s : State} {g : ℕ} {e : BitVec 16} (h0 : Good W q P s) : Good W q P (beginAttempt s g e)
    := by
  unfold beginAttempt
  repeat' first
    | with_reducible assumption
    | with_reducible first
        | apply modGrp_good | apply bump_good | apply sendRelayAll_good | apply purgeGroup_good | apply announce_good

theorem nextAttempt_good {s : State} {g : ℕ} {e : BitVec 16} (h0 : Good W q P s) : Good W q P (nextAttempt s g e)
    := by
  unfold nextAttempt
  repeat' first
    | with_reducible assumption
    | with_reducible first | apply failGroup_good | apply beginAttempt_good
    | dsimp only
    | split

theorem startReform_good {s : State} {g : ℕ} {e : BitVec 16} (h0 : Good W q P s) : Good W q P (startReform s g e)
    := by
  unfold startReform
  repeat' first
    | with_reducible assumption
    | with_reducible first
        | apply beginAttempt_good | apply pulseIrq_good | apply modGrp_good | apply nextAttempt_good
    | dsimp only
    | split

theorem reformUp_good {s : State} {g : ℕ} (h0 : Good W q P s) : Good W q P (reformUp s g) := by
  unfold reformUp
  repeat' first
    | with_reducible assumption
    | with_reducible first | apply startReform_good

theorem fixCandidates_good {s : State} {g : ℕ} (h0 : Good W q P s) : Good W q P (fixCandidates s g) := by
  unfold fixCandidates
  repeat' first
    | with_reducible assumption
    | with_reducible first | apply sendCommit_good | apply failGroup_good
    | dsimp only
    | split

theorem applyRelayMsg_good {s : State} {f : Frame} (h0 : Good W q P s) : GoodO W q P (applyRelayMsg s f) := by
  unfold applyRelayMsg
  repeat' first
    | with_reducible assumption
    | with_reducible first
        | apply bump_good | apply startReform_good | apply tryCommit_good | apply modGrp_good | apply failGroup_good
        | apply tryReady_good | apply goodO_some | apply goodO_none
    | dsimp only
    | split

theorem modChild_good {s : State} {g : ℕ} {m : ℕ} {f : ChildState → ChildState} (h0 : Good W q P s) : Good W q P
    (modChild s g m f) := by
  unfold modChild
  repeat' first
    | with_reducible assumption
    | with_reducible first | apply modStep_good

theorem applyCount_good {s : State} {g : ℕ} {m : ℕ} {st : StepState} {f : Frame} (h0 : Good W q P s) : Good W q P
    (applyCount s g m st f) := by
  unfold applyCount
  repeat' first
    | with_reducible assumption
    | with_reducible first
        | apply modChild_good | apply tryCount_good | apply modStep_good | apply tryUp_good | apply sendDown_good
    | dsimp only
    | split

theorem applyRelayFrame_good {s : State} {m : Nat} {f : Frame} (h : Good W q P s) : GoodO W q P
    (applyRelayFrame s m f) := by
  unfold applyRelayFrame
  dsimp only
  repeat' first
    | with_reducible apply goodO_ite
    | with_reducible apply goodO_none
    | with_reducible apply goodO_some
    | with_reducible first | exact h | exact bump_good h | exact modGrp_good h | exact sendDown_good (modGrp_good h)
      | exact applyCount_good h | exact endStep_good (applyEnd_good h) | exact tryDone_good (applyEnd_good h)
      | exact tryDone_good (modChild_good h) | exact releaseStep_good h
    | split

theorem applyEarly_good {s : State} {m : ℕ} {f : Frame} (h0 : Good W q P s) : GoodO W q P (applyEarly s m f) := by
  unfold applyEarly
  repeat' first
    | with_reducible assumption
    | with_reducible first | apply applyRelayMsg_good | apply applyRelayFrame_good
    | dsimp only
    | split

theorem firstEarly_good {s : State} {g : ℕ} {v2 : List (ℕ × Frame)} {v3 : List (ℕ × Frame)} (h0 : Good W q P s)
    : GoodO W q P (firstEarly s g v2 v3) := by
  induction v3 generalizing v2 with
  | nil =>
    unfold firstEarly
    repeat' first
      | with_reducible assumption
      | with_reducible first | apply modGrp_good | apply applyEarly_good | apply goodO_some | apply goodO_none
  | cons a l ih =>
    unfold firstEarly
    repeat' first
      | with_reducible assumption
      | with_reducible first
          | apply ih | apply modGrp_good | apply applyEarly_good | apply goodO_some | apply goodO_none
      | with_reducible refine good_some_eq (by assumption) ?_
      | dsimp only
      | split

theorem startNext_good {s : State} {g : ℕ} (h0 : Good W q P s) : GoodO W q P (startNext s g) := by
  unfold startNext
  repeat' first
    | with_reducible assumption
    | with_reducible first
        | apply modGrp_good | apply endPosted_good | apply beginStep_good | apply goodO_some | apply goodO_none
    | dsimp only
    | split

theorem settleGrp_good {v0 : ℕ} {v1 : State} {v2 : ℕ} (h1 : Good W q P v1) : Good W q P (settleGrp v0 v1 v2) := by
  induction v0 generalizing v1 with
  | zero =>
    unfold settleGrp
    repeat' first
      | with_reducible assumption
      | with_reducible first | apply startNext_good | apply firstEarly_good
  | succ n ih =>
    unfold settleGrp
    repeat' first
      | with_reducible assumption
      | with_reducible first | apply ih | apply startNext_good | apply firstEarly_good
      | with_reducible refine good_some_eq (by assumption) ?_
      | dsimp only
      | split

theorem settle_good {s : State} {g : ℕ} (h0 : Good W q P s) : Good W q P (settle s g) := by
  unfold settle
  repeat' first
    | with_reducible assumption
    | with_reducible first | apply settleGrp_good

theorem relayInput_good {s : State} {g : ℕ} {m : ℕ} {f : Frame} (h0 : Good W q P s) : Good W q P
    (relayInput s g m f) := by
  unfold relayInput
  repeat' first
    | with_reducible assumption
    | with_reducible first | apply applyEarly_good | apply settle_good | apply modGrp_good
    | with_reducible refine good_some_eq (by assumption) ?_
    | dsimp only
    | split

theorem takeReady_good {s : State} {m : Fin 8} {fs : List Frame} (h0 : Good W q P s) : GoodOP2 W q P
    (takeReady s m fs) := by
  unfold takeReady
  repeat' first
    | with_reducible assumption
    | with_reducible first | apply modPort_good | apply goodOP2_none
    | simp only [goodOP2_some]
    | dsimp only
    | split

theorem applyUp_good {s : State} {g : ℕ} {m : ℕ} {st : StepState} {r : ReadyChunk} (h0 : Good W q P s) : Good W q P
    (applyUp s g m st r) := by
  unfold applyUp
  repeat' first
    | with_reducible assumption
    | with_reducible first
        | apply modChild_good | apply noteStatus_good | apply tryUp_good | apply returnCredit_good | apply bump_good

theorem applyDown_good {s : State} {g : ℕ} {m : ℕ} {st : StepState} {r : ReadyChunk} (h0 : Good W q P s)
    : Good W q P (applyDown s g m st r) := by
  unfold applyDown
  repeat' first
    | with_reducible assumption
    | with_reducible first
        | apply noteStatus_good | apply writeEntries_good | apply bump_good | apply modStep_good
        | apply queueChunks_good | apply returnCredit_good | apply good_foldl
    | dsimp only
    | split
    | intro _

theorem consumeChunk_good {s : State} {m : Fin 8} {kind : ℕ} {fs : List Frame} (h0 : Good W q P s) : Good W q P
    (consumeChunk s m kind fs) := by
  unfold consumeChunk
  repeat' first
    | with_reducible assumption
    | with_reducible first
        | apply takeReady_good | apply bump_good | apply settle_good | apply applyUp_good | apply applyDown_good
        | apply returnCredit_good
    | with_reducible refine good_some_snd_eq (by assumption) ?_
    | dsimp only
    | split

theorem execUp_good {m : Fin 8} {chunk : List Frame} {s : State} (h2 : Good W q P s) : GoodRes W q P
    (execUp m chunk s) := by
  unfold execUp
  repeat' first
    | with_reducible assumption
    | with_reducible first | apply consumeChunk_good | apply goodRes_next

theorem execDown_good {m : Fin 8} {chunk : List Frame} {s : State} (h2 : Good W q P s) : GoodRes W q P
    (execDown m chunk s) := by
  unfold execDown
  repeat' first
    | with_reducible assumption
    | with_reducible first | apply consumeChunk_good | apply goodRes_next

theorem singleInput_good {s : State} {m : Fin 8} {kind : ℕ} {f : Frame} (h0 : Good W q P s) : Good W q P
    (singleInput s m kind f) := by
  unfold singleInput
  repeat' first
    | with_reducible assumption
    | with_reducible first | apply relayInput_good | apply takeHead_good
    | dsimp only
    | split

theorem execCount_good {m : Fin 8} {f : Frame} {s : State} (h2 : Good W q P s) : GoodRes W q P (execCount m f s) := by
  unfold execCount
  repeat' first
    | with_reducible assumption
    | with_reducible first | apply singleInput_good | apply goodRes_next

theorem execEndFrame_good {m : Fin 8} {f : Frame} {s : State} (h2 : Good W q P s) : GoodRes W q P
    (execEndFrame m f s) := by
  unfold execEndFrame
  repeat' first
    | with_reducible assumption
    | with_reducible first | apply singleInput_good | apply goodRes_next

theorem execDoneFrame_good {m : Fin 8} {f : Frame} {s : State} (h2 : Good W q P s) : GoodRes W q P
    (execDoneFrame m f s) := by
  unfold execDoneFrame
  repeat' first
    | with_reducible assumption
    | with_reducible first | apply singleInput_good | apply goodRes_next

theorem execRelease_good {m : Fin 8} {f : Frame} {s : State} (h2 : Good W q P s) : GoodRes W q P (execRelease m f s)
    := by
  unfold execRelease
  repeat' first
    | with_reducible assumption
    | with_reducible first | apply singleInput_good | apply goodRes_next

theorem msgInput_good {s : State} {m : Fin 8} {msg : ℕ} {f : Frame} (h0 : Good W q P s) : Good W q P
    (msgInput s m msg f) := by
  unfold msgInput
  repeat' first
    | with_reducible assumption
    | with_reducible first | apply relayInput_good | apply takeHead_good
    | dsimp only
    | split

theorem execAbort_good {m : Fin 8} {f : Frame} {s : State} (h2 : Good W q P s) : GoodRes W q P (execAbort m f s) := by
  unfold execAbort
  repeat' first
    | with_reducible assumption
    | with_reducible first | apply msgInput_good | apply goodRes_next

theorem execTopo_good {m : Fin 8} {f : Frame} {s : State} (h2 : Good W q P s) : GoodRes W q P (execTopo m f s) := by
  unfold execTopo
  repeat' first
    | with_reducible assumption
    | with_reducible first | apply msgInput_good | apply goodRes_next

theorem execCommit_good {m : Fin 8} {f : Frame} {s : State} (h2 : Good W q P s) : GoodRes W q P (execCommit m f s)
    := by
  unfold execCommit
  repeat' first
    | with_reducible assumption
    | with_reducible first | apply msgInput_good | apply goodRes_next

theorem execFormWait_good {g : Fin 64} {s : State} (h1 : Good W q P s) : GoodRes W q P (execFormWait g s) := by
  unfold execFormWait
  repeat' first
    | with_reducible assumption
    | with_reducible first
        | apply settle_good | apply fixCandidates_good | apply nextAttempt_good | apply goodRes_next
    | dsimp only
    | split

theorem execCreateWait_good {g : Fin 64} {s : State} (h1 : Good W q P s) : GoodRes W q P (execCreateWait g s) := by
  unfold execCreateWait
  repeat' first
    | with_reducible assumption
    | with_reducible first | apply setGrp_good | apply completeCmd_good | apply good_foldl | apply goodRes_next
    | dsimp only
    | split
    | intro _

theorem execStepWait_good {g : Fin 64} {s : State} (h1 : Good W q P s) : GoodRes W q P (execStepWait g s) := by
  unfold execStepWait
  repeat' first
    | with_reducible assumption
    | with_reducible first | apply settle_good | apply failEarly_good | apply goodRes_next
    | dsimp only
    | split

theorem execLeaseExpiry_good {g : Fin 64} {m : Fin 8} {s : State} (h2 : Good W q P s) : GoodRes W q P
    (execLeaseExpiry g m s) := by
  unfold execLeaseExpiry
  repeat' first
    | with_reducible assumption
    | with_reducible first | apply settle_good | apply reformUp_good | apply bump_good | apply goodRes_next
    | dsimp only
    | split

theorem relayPortChange_good {s : State} {m : ℕ} (h0 : Good W q P s) : Good W q P (relayPortChange s m) := by
  unfold relayPortChange
  repeat' first
    | with_reducible assumption
    | with_reducible first
        | apply settle_good | apply reformUp_good | apply tryCommit_good | apply announce_good | apply good_foldl
    | dsimp only
    | split
    | intro _

theorem relayCoreFenced_good {s : State} {c : ℕ} (h0 : Good W q P s) : Good W q P (relayCoreFenced s c) := by
  unfold relayCoreFenced
  repeat' first
    | with_reducible assumption
    | with_reducible first
        | apply setGrp_good | apply completeCmd_good | apply modGrp_good | apply failGroup_good
        | apply sendRelayAll_good | apply good_foldl
    | dsimp only
    | split
    | intro _

theorem relayStackFenced_good {s : State} {k : ℕ} (h0 : Good W q P s) : Good W q P (relayStackFenced s k) := by
  unfold relayStackFenced
  repeat' first
    | with_reducible assumption
    | with_reducible first | apply settle_good | apply reformUp_good | apply modStep_good | apply good_foldl
    | dsimp only
    | split
    | intro _

theorem relayCmd_good {s : State} {tag : ℕ} {op : ℕ} {k : State → Ctx → RDesc → State} (h0 : Good W q P s) (h3
    : ∀ x00, Good W q P x00 → ∀ x01, ∀ x02, Good W q P ((k x00 x01 x02))) : Good W q P (relayCmd s tag op k) := by
  unfold relayCmd
  repeat' first
    | with_reducible assumption
    | with_reducible first | apply h3 | apply startCtx_good | apply refuseStep_good | apply completeCmd_good
    | dsimp only
    | split

theorem execRelayStep_good {tag : BitVec 12} {s : State} (h1 : Good W q P s) : GoodRes W q P (execRelayStep tag s)
    := by
  unfold execRelayStep
  repeat' first
    | with_reducible assumption
    | with_reducible first
        | apply relayCmd_good | apply refuseStep_good | apply settle_good | apply modGrp_good | apply goodRes_next
    | dsimp only
    | split
    | intro _

theorem execRelayCreate_good {tag : BitVec 12} {s : State} (h1 : Good W q P s) : GoodRes W q P
    (execRelayCreate tag s) := by
  unfold execRelayCreate
  repeat' first
    | with_reducible assumption
    | with_reducible first
        | apply relayCmd_good | apply completeCmd_good | apply devRead_good | apply setGrp_good | apply settle_good
        | apply tryCommit_good | apply announce_good | apply goodRes_next
    | simp only [good_snd]
    | dsimp only
    | split
    | intro _

theorem execRelayReform_good {tag : BitVec 12} {s : State} (h1 : Good W q P s) : GoodRes W q P
    (execRelayReform tag s) := by
  unfold execRelayReform
  repeat' first
    | with_reducible assumption
    | with_reducible first
        | apply relayCmd_good | apply completeCmd_good | apply modGrp_good | apply settle_good | apply reformUp_good
        | apply goodRes_next
    | dsimp only
    | split
    | intro _

theorem dissolveNow_good {s : State} {g : ℕ} (h0 : Good W q P s) : Good W q P (dissolveNow s g) := by
  unfold dissolveNow
  repeat' first
    | with_reducible assumption
    | with_reducible first | apply completeCmd_good | apply setGrp_good | apply endPosted_good | apply good_foldl
    | dsimp only
    | split
    | intro _

theorem execRelayDissolve_good {tag : BitVec 12} {s : State} (h1 : Good W q P s) : GoodRes W q P
    (execRelayDissolve tag s) := by
  unfold execRelayDissolve
  repeat' first
    | with_reducible assumption
    | with_reducible first
        | apply relayCmd_good | apply completeCmd_good | apply dissolveNow_good | apply modGrp_good
        | apply goodRes_next
    | dsimp only
    | split
    | intro _

theorem execDissolveRelease_good {g : Fin 64} {s : State} (h1 : Good W q P s) : GoodRes W q P
    (execDissolveRelease g s) := by
  unfold execDissolveRelease
  repeat' first
    | with_reducible assumption
    | with_reducible first | apply dissolveNow_good | apply goodRes_next

end Sys2Proof.Machine
end

