-- ==== Sys2Proof/Laws/KeepStork.lean ====
section
/-! SUPPORT. Stork and Baton: each keeps what `Good` says. -/

namespace Sys2Proof.Machine

open Sys2Proof

variable {W : Prop} {q : List Instr} {P : Power → Prop} {α : Type}

/-! ## Stork -/

theorem modStork_good {s : State} {f : Stork → Stork} (h0 : Good W q P s) : Good W q P (modStork s f) := by
  unfold modStork
  repeat' first
    | with_reducible assumption
    | with_reducible first
        | apply Good.hbm | apply Good.cm | apply Good.cores | apply Good.dir | apply Good.pages | apply Good.queue
        | apply Good.power | apply And.intro
    | simp only [good_mk]

theorem setWin_good {s : State} {w : ℕ} {x : Window} (h0 : Good W q P s) : Good W q P (setWin s w x) := by
  unfold setWin
  repeat' first
    | with_reducible assumption
    | with_reducible first | apply modStork_good

theorem storkEnd_good {s : State} {tag : ℕ} {d : SDesc} {code : Byte} {detail : ℕ} {gen : ℕ} {bytes : ℕ} (h0
    : Good W q P s) : Good W q P (storkEnd s tag d code detail gen bytes) := by
  unfold storkEnd
  repeat' first
    | with_reducible assumption
    | with_reducible first | apply completePost_good

theorem captureStork_good {s : State} {code : Byte} {detail : ℕ} {tag : ℕ} {window : ℕ} {chip : ℕ} (h0
    : Good W q P s) : Good W q P (captureStork s code detail tag window chip) := by
  unfold captureStork
  repeat' first
    | with_reducible assumption
    | with_reducible first | apply captureError_good

theorem refuseCmd_good {s : State} {tag : ℕ} {d : SDesc} {code : Byte} {detail : ℕ} (h0 : Good W q P s) : Good W q P
    (refuseCmd s tag d code detail) := by
  unfold refuseCmd
  repeat' first
    | with_reducible assumption
    | with_reducible first | apply bump_good | apply storkEnd_good | apply captureOpen1_good
    | dsimp only
    | split

theorem sealFrame_good {s : State} {slot : ℕ} {f : Frame} (h0 : Good W q P s) : GoodP2 W q P (sealFrame s slot f)
    := by
  unfold sealFrame
  repeat' first
    | with_reducible assumption
    | with_reducible first | apply bump_good | apply modStork_good
    | simp only [goodP2_mk]

theorem openFrame_good {s : State} {slot : ℕ} {f : Frame} (h0 : Good W q P s) : GoodP2 W q P (openFrame s slot f)
    := by
  unfold openFrame
  repeat' first
    | with_reducible assumption
    | with_reducible first | apply bump_good
    | simp only [goodP2_mk]

theorem sendStork_good {s : State} {f : Frame} (h0 : Good W q P s) : Good W q P (sendStork s f) := by
  unfold sendStork
  repeat' first
    | with_reducible assumption
    | with_reducible first | apply modStork_good | apply originate_good | apply good_getD
    | dsimp only
    | split

theorem setOp_good {s : State} {tag : ℕ} {f : StorkOp → StorkOp} (h0 : Good W q P s) : Good W q P (setOp s tag f)
    := by
  unfold setOp
  repeat' first
    | with_reducible assumption
    | with_reducible first | apply modStork_good

theorem finishOp_good {s : State} {o : StorkOp} (h0 : Good W q P s) : Good W q P (finishOp s o) := by
  unfold finishOp
  repeat' first
    | with_reducible assumption
    | with_reducible first
        | apply modStork_good | apply noteFail_good | apply captureStork_good | apply bump_good | apply storkEnd_good
    | dsimp only
    | split

theorem tryFinish_good {s : State} {tag : ℕ} (h0 : Good W q P s) : Good W q P (tryFinish s tag) := by
  unfold tryFinish
  repeat' first
    | with_reducible assumption
    | with_reducible first | apply finishOp_good
    | dsimp only
    | split

theorem failOp_good {s : State} {tag : ℕ} {code : Byte} {detail : ℕ} (h0 : Good W q P s) : Good W q P
    (failOp s tag code detail) := by
  unfold failOp
  repeat' first
    | with_reducible assumption
    | with_reducible first | apply finishOp_good
    | dsimp only
    | split

theorem opFrame_good {s : State} {o : StorkOp} {i : ℕ} {n : ℕ} (h0 : Good W q P s) : GoodP2 W q P (opFrame s o i n)
    := by
  unfold opFrame
  repeat' first
    | with_reducible assumption
    | with_reducible first | apply bump_good | apply sealFrame_good
    | simp only [goodP2_mk]
    | dsimp only
    | split

theorem pumpOp_good {v0 : ℕ} {v1 : State} {v2 : ℕ} (h1 : Good W q P v1) : Good W q P (pumpOp v0 v1 v2) := by
  induction v0 generalizing v1 with
  | zero =>
    unfold pumpOp
    repeat' first
      | with_reducible assumption
      | with_reducible first | apply opFrame_good | apply setOp_good | apply sendStork_good
  | succ n ih =>
    unfold pumpOp
    repeat' first
      | with_reducible assumption
      | with_reducible first | apply ih | apply opFrame_good | apply setOp_good | apply sendStork_good
      | simp only [good_snd]
      | dsimp only
      | split

theorem pump_good {s : State} {tag : ℕ} (h0 : Good W q P s) : Good W q P (pump s tag) := by
  unfold pump
  repeat' first
    | with_reducible assumption
    | with_reducible first | apply pumpOp_good

theorem writeSource_good {s : State} {x : Ctx} {d : SDesc} (h0 : Good W q P s) : GoodP1 W q P (writeSource s x d)
    := by
  unfold writeSource
  repeat' first
    | with_reducible assumption
    | with_reducible first | apply devRead_good
    | simp only [goodP1_mk, good_snd]
    | dsimp only
    | split

theorem addOp_good {s : State} {tag : ℕ} {x : Ctx} {d : SDesc} {data : List PByte} (h0 : Good W q P s) : Good W q P
    (addOp s tag x d data) := by
  unfold addOp
  repeat' first
    | with_reducible assumption
    | with_reducible first | apply modStork_good

theorem refuseOp_good {s : State} {tag : ℕ} {x : Ctx} {d : SDesc} {code : Byte} {detail : ℕ} (h0 : Good W q P s)
    : Good W q P (refuseOp s tag x d code detail) := by
  unfold refuseOp
  repeat' first
    | with_reducible assumption
    | with_reducible first | apply failOp_good | apply addOp_good

theorem refuseDesc_good {s : State} {tag : ℕ} {x : Ctx} {d : SDesc} {code : Byte} {detail : ℕ} (h0 : Good W q P s)
    : Good W q P (refuseDesc s tag x d code detail) := by
  unfold refuseDesc
  repeat' first
    | with_reducible assumption
    | with_reducible first
        | apply refuseOp_good | apply refuseCmd_good | apply bump_good | apply storkEnd_good | apply captureStork_good
    | dsimp only
    | split

theorem storkCmd_good {s : State} {tag : ℕ} {op : ℕ} {k : State → Ctx → SDesc → State} (h0 : Good W q P s) (h3
    : ∀ x00, Good W q P x00 → ∀ x01, ∀ x02, Good W q P ((k x00 x01 x02))) : Good W q P (storkCmd s tag op k) := by
  unfold storkCmd
  repeat' first
    | with_reducible assumption
    | with_reducible first | apply h3 | apply startCtx_good | apply refuseDesc_good
    | dsimp only
    | split

theorem execOpenWindow_good {tag : BitVec 12} {s : State} (h1 : Good W q P s) : GoodRes W q P (execOpenWindow tag s)
    := by
  unfold execOpenWindow
  repeat' first
    | with_reducible assumption
    | with_reducible first
        | apply storkCmd_good | apply refuseCmd_good | apply setWin_good | apply bump_good | apply storkEnd_good
        | apply goodRes_next
    | dsimp only
    | split
    | intro _

theorem execBindQueue_good {tag : BitVec 12} {s : State} (h1 : Good W q P s) : GoodRes W q P (execBindQueue tag s)
    := by
  unfold execBindQueue
  repeat' first
    | with_reducible assumption
    | with_reducible first
        | apply storkCmd_good | apply refuseCmd_good | apply modStork_good | apply bump_good | apply storkEnd_good
        | apply goodRes_next
    | dsimp only
    | split
    | intro _

theorem execPageUnmap_good {tag : BitVec 12} {s : State} (h1 : Good W q P s) : GoodRes W q P (execPageUnmap tag s)
    := by
  unfold execPageUnmap
  repeat' first
    | with_reducible assumption
    | with_reducible first
        | apply storkCmd_good | apply refuseCmd_good | apply modStork_good | apply bump_good | apply storkEnd_good
        | apply goodRes_next
    | dsimp only
    | split
    | intro _

theorem execStorkWrite_good {tag : BitVec 12} {s : State} (h1 : Good W q P s) : GoodRes W q P (execStorkWrite tag s)
    := by
  unfold execStorkWrite
  repeat' first
    | with_reducible assumption
    | with_reducible first
        | apply storkCmd_good | apply refuseOp_good | apply writeSource_good | apply pump_good | apply addOp_good
        | apply goodRes_next
    | simp only [good_fst]
    | dsimp only
    | split
    | intro _

theorem execStorkRead_good {tag : BitVec 12} {s : State} (h1 : Good W q P s) : GoodRes W q P (execStorkRead tag s)
    := by
  unfold execStorkRead
  repeat' first
    | with_reducible assumption
    | with_reducible first
        | apply storkCmd_good | apply refuseOp_good | apply pump_good | apply addOp_good | apply goodRes_next
    | dsimp only
    | split
    | intro _

theorem execStorkFlag_good {tag : BitVec 12} {s : State} (h1 : Good W q P s) : GoodRes W q P (execStorkFlag tag s)
    := by
  unfold execStorkFlag
  repeat' first
    | with_reducible assumption
    | with_reducible first | apply storkCmd_good | apply refuseOp_good | apply addOp_good | apply goodRes_next
    | dsimp only
    | split
    | intro _

theorem execFlagSend_good {tag : BitVec 12} {s : State} (h1 : Good W q P s) : GoodRes W q P (execFlagSend tag s) := by
  unfold execFlagSend
  repeat' first
    | with_reducible assumption
    | with_reducible first | apply setOp_good | apply failOp_good | apply pump_good | apply goodRes_next
    | dsimp only
    | split

theorem takeArrival_good {s : State} {v1 : Arrival} {f : Frame} (h0 : Good W q P s) : Good W q P
    (takeArrival s v1 f) := by
  unfold takeArrival
  repeat' first
    | with_reducible assumption
    | with_reducible first | apply takeHead_good | apply modStork_good
    | dsimp only
    | split

theorem takeResponse_good {s : State} {f : Frame} (h0 : Good W q P s) : Good W q P (takeResponse s f) := by
  unfold takeResponse
  repeat' first
    | with_reducible assumption
    | with_reducible first | apply bump_good | apply setOp_good | apply tryFinish_good | apply pump_good
    | dsimp only
    | split

theorem execResponse_good {v0 : Arrival} {f : Frame} {s : State} (h2 : Good W q P s) : GoodRes W q P
    (execResponse v0 f s) := by
  unfold execResponse
  repeat' first
    | with_reducible assumption
    | with_reducible first | apply takeResponse_good | apply takeArrival_good | apply goodRes_next
    | dsimp only
    | split

theorem takeReadData_good {s : State} {f : Frame} (h0 : Good W q P s) : Good W q P (takeReadData s f) := by
  unfold takeReadData
  repeat' first
    | with_reducible assumption
    | with_reducible first
        | apply bump_good | apply openFrame_good | apply failOp_good | apply tryFinish_good | apply setOp_good
        | apply devWrite_good | apply pump_good
    | simp only [goodP2_mk, good_snd]
    | dsimp only
    | split

theorem execReadData_good {v0 : Arrival} {f : Frame} {s : State} (h2 : Good W q P s) : GoodRes W q P
    (execReadData v0 f s) := by
  unfold execReadData
  repeat' first
    | with_reducible assumption
    | with_reducible first | apply takeReadData_good | apply takeArrival_good | apply goodRes_next
    | dsimp only
    | split

theorem needReplay_good {s : State} {o : StorkOp} (h0 : Good W q P s) : Good W q P (needReplay s o) := by
  unfold needReplay
  repeat' first
    | with_reducible assumption
    | with_reducible first | apply failOp_good | apply setOp_good
    | dsimp only
    | split

theorem execProgressTimeout_good {tag : BitVec 12} {s : State} (h1 : Good W q P s) : GoodRes W q P
    (execProgressTimeout tag s) := by
  unfold execProgressTimeout
  repeat' first
    | with_reducible assumption
    | with_reducible first | apply finishOp_good | apply needReplay_good | apply bump_good | apply goodRes_next
    | dsimp only
    | split

theorem execReplay_good {tag : BitVec 12} {s : State} (h1 : Good W q P s) : GoodRes W q P (execReplay tag s) := by
  unfold execReplay
  repeat' first
    | with_reducible assumption
    | with_reducible first | apply setOp_good | apply bump_good | apply pump_good | apply goodRes_next
    | dsimp only
    | split

theorem execRouteWaitExpiry_good {tag : BitVec 12} {s : State} (h1 : Good W q P s) : GoodRes W q P
    (execRouteWaitExpiry tag s) := by
  unfold execRouteWaitExpiry
  repeat' first
    | with_reducible assumption
    | with_reducible first | apply failOp_good | apply goodRes_next
    | dsimp only
    | split

theorem resendRange_good {o : StorkOp} {v1 : ℕ} {v2 : State} {v3 : ℕ} {v4 : ℕ} (h2 : Good W q P v2) : Good W q P
    (resendRange o v1 v2 v3 v4) := by
  induction v1 generalizing v2 v3 v4 with
  | zero =>
    unfold resendRange
    repeat' first
      | with_reducible assumption
      | with_reducible first | apply opFrame_good | apply sendStork_good
  | succ n ih =>
    unfold resendRange
    repeat' first
      | with_reducible assumption
      | with_reducible first | apply ih | apply opFrame_good | apply sendStork_good
      | simp only [good_snd]
      | dsimp only
      | split

theorem execResendRound_good {tag : BitVec 12} {s : State} (h1 : Good W q P s) : GoodRes W q P
    (execResendRound tag s) := by
  unfold execResendRound
  repeat' first
    | with_reducible assumption
    | with_reducible first
        | apply setOp_good | apply bump_good | apply resendRange_good | apply good_foldl | apply goodRes_next
    | dsimp only
    | split
    | intro _

theorem storkLinkDown_good {s : State} {gone : List Frame} (h0 : Good W q P s) : Good W q P (storkLinkDown s gone)
    := by
  unfold storkLinkDown
  repeat' first
    | with_reducible assumption
    | with_reducible first | apply needReplay_good | apply good_foldl
    | dsimp only
    | split
    | intro _

theorem keyWrite_good {load : Bool} {data : Word} {s : State} (h2 : Good W q P s) : Good W q P
    (keyWrite load data s) := by
  unfold keyWrite
  repeat' first
    | with_reducible assumption
    | with_reducible first | apply modStork_good | apply captureError_good
    | dsimp only
    | split

theorem execKeyLoad_good {v0 : Access} {data : Word} {s : State} (h2 : Good W q P s) : GoodRes W q P
    (execKeyLoad v0 data s) := by
  unfold execKeyLoad
  repeat' first
    | with_reducible assumption
    | with_reducible first | apply gated_good | apply keyWrite_good | apply goodRes_next
    | dsimp only
    | split
    | intro _

theorem execKeyClear_good {v0 : Access} {data : Word} {s : State} (h2 : Good W q P s) : GoodRes W q P
    (execKeyClear v0 data s) := by
  unfold execKeyClear
  repeat' first
    | with_reducible assumption
    | with_reducible first | apply gated_good | apply keyWrite_good | apply goodRes_next
    | dsimp only
    | split
    | intro _

theorem execKeyOpComplete_good {s : State} (h0 : Good W q P s) : GoodRes W q P (execKeyOpComplete s) := by
  unfold execKeyOpComplete
  repeat' first
    | with_reducible assumption
    | with_reducible first | apply modStork_good | apply goodRes_next
    | dsimp only
    | split

/-! ## StorkTarget -/

theorem storkLog_good {s : State} {p : ℕ} {miss : Bool} {f : Frame} {detail : ℕ} {off : ℕ} (h0 : Good W q P s)
    : Good W q P (storkLog s p miss f detail off) := by
  unfold storkLog
  repeat' first
    | with_reducible assumption
    | with_reducible first | apply cmWrite_good | apply modStork_good | apply bump_good | apply pulseIrq_good
    | dsimp only
    | split

theorem sendCoalesced_good {s : State} {c : Coalesce} (h0 : Good W q P s) : Good W q P (sendCoalesced s c) := by
  unfold sendCoalesced
  repeat' first
    | with_reducible assumption
    | with_reducible first | apply sendStork_good

theorem flushArrival_good {s : State} {v1 : Arrival} (h0 : Good W q P s) : Good W q P (flushArrival s v1) := by
  unfold flushArrival
  repeat' first
    | with_reducible assumption
    | with_reducible first | apply sendCoalesced_good | apply modStork_good
    | dsimp only
    | split

theorem answer_good {s : State} {v1 : Arrival} {f : Frame} {status : Byte} {bytes : ℕ} {k : ℕ} (h0 : Good W q P s)
    : Good W q P (answer s v1 f status bytes k) := by
  unfold answer
  repeat' first
    | with_reducible assumption
    | with_reducible first | apply flushArrival_good | apply modStork_good
    | dsimp only
    | split

theorem execResponseCoalesceTimer_good {v0 : Arrival} {s : State} (h1 : Good W q P s) : GoodRes W q P
    (execResponseCoalesceTimer v0 s) := by
  unfold execResponseCoalesceTimer
  repeat' first
    | with_reducible assumption
    | with_reducible first | apply flushArrival_good | apply goodRes_next

theorem targetInput_good {s : State} {v1 : Arrival} {f : Frame} {effect : State → State} (h0 : Good W q P s) (h3
    : ∀ x00, Good W q P x00 → Good W q P ((effect x00))) : Good W q P (targetInput s v1 f effect) := by
  unfold targetInput
  repeat' first
    | with_reducible assumption
    | with_reducible first | apply h3 | apply flushArrival_good
    | dsimp only
    | split

theorem answerFail_good {s : State} {v1 : Arrival} {f : Frame} {status : Byte} {detail : ℕ} {bytes : ℕ} {k : ℕ} (h0
    : Good W q P s) : Good W q P (answerFail s v1 f status detail bytes k) := by
  unfold answerFail
  repeat' first
    | with_reducible assumption
    | with_reducible first | apply answer_good | apply captureStork_good

theorem violation_good {s : State} {v1 : Arrival} {f : Frame} {detail : ℕ} {bytes : ℕ} {k : ℕ} (h0 : Good W q P s)
    : Good W q P (violation s v1 f detail bytes k) := by
  unfold violation
  repeat' first
    | with_reducible assumption
    | with_reducible first | apply bump_good | apply storkLog_good | apply answerFail_good

theorem translate_good {s : State} {w : ℕ} {v2 : List ℕ} (h0 : Good W q P s) : GoodP1 W q P (translate s w v2) := by
  induction v2 generalizing s with
  | nil =>
    unfold translate
    repeat' first
      | with_reducible assumption
      | with_reducible first | apply hbmRead_good | apply modStork_good
      | simp only [goodP1_mk, good_snd]
  | cons a l ih =>
    unfold translate
    repeat' first
      | with_reducible assumption
      | with_reducible first | apply ih | apply hbmRead_good | apply modStork_good
      | simp only [goodP1_mk, good_snd]
      | dsimp only
      | split

theorem checkRange_good {s : State} {f : Frame} {off : ℕ} {n : ℕ} {right : ℕ} (h0 : Good W q P s) : GoodP1 W q P
    (checkRange s f off n right) := by
  unfold checkRange
  repeat' first
    | with_reducible assumption
    | with_reducible first | apply translate_good
    | simp only [goodP1_mk, good_fst]
    | dsimp only
    | split

theorem unsealFrame_good {s : State} {f : Frame} (h0 : Good W q P s) : GoodP1 W q P (unsealFrame s f) := by
  unfold unsealFrame
  repeat' first
    | with_reducible assumption
    | with_reducible first | apply openFrame_good
    | simp only [goodP1_mk, good_snd]
    | dsimp only
    | split

theorem storeWindow_good {s : State} {w : ℕ} {off : ℕ} {bs : List PByte} (h0 : Good W q P s) : Good W q P
    (storeWindow s w off bs) := by
  unfold storeWindow
  repeat' first
    | with_reducible assumption
    | with_reducible first | apply hbmWrite_good | apply bump_good | apply goodP1_foldl
    | simp only [goodP1_mk, good_fst]
    | dsimp only
    | split
    | intro _

theorem loadWindow_good {s : State} {w : ℕ} {off : ℕ} {n : ℕ} (h0 : Good W q P s) : GoodP2 W q P
    (loadWindow s w off n) := by
  unfold loadWindow
  repeat' first
    | with_reducible assumption
    | with_reducible first | apply hbmRead_good | apply bump_good | apply goodP2_foldl
    | simp only [goodP2_mk, good_snd]
    | dsimp only
    | split
    | intro _

theorem sendReadData_good {f : Frame} {lastPiece : Bool} {v2 : ℕ} {v3 : State} {v4 : ℕ} {v5 : List PByte} (h3
    : Good W q P v3) : Good W q P (sendReadData f lastPiece v2 v3 v4 v5) := by
  induction v2 generalizing v3 v4 v5 with
  | zero =>
    unfold sendReadData
    repeat' first
      | with_reducible assumption
      | with_reducible first | apply sealFrame_good | apply sendStork_good
  | succ n ih =>
    unfold sendReadData
    repeat' first
      | with_reducible assumption
      | with_reducible first | apply ih | apply sealFrame_good | apply sendStork_good
      | simp only [good_snd]
      | dsimp only
      | split

theorem applyPiece_good {s : State} {v1 : Arrival} {f : Frame} {off : ℕ} {n : ℕ} {data : List Byte} (h0
    : Good W q P s) : Good W q P (applyPiece s v1 f off n data) := by
  unfold applyPiece
  repeat' first
    | with_reducible assumption
    | with_reducible first
        | apply loadWindow_good | apply sendReadData_good | apply answer_good | apply storeWindow_good
    | simp only [good_snd]
    | dsimp only
    | split

theorem pageFault_good {s : State} {v1 : Arrival} {f : Frame} {off : ℕ} {n : ℕ} {page : ℕ} {data : List Byte} (h0
    : Good W q P s) : Good W q P (pageFault s v1 f off n page data) := by
  unfold pageFault
  repeat' first
    | with_reducible assumption
    | with_reducible first | apply bump_good | apply storkLog_good | apply answerFail_good | apply modStork_good
    | dsimp only
    | split

theorem answerRevoked_good {s : State} {v1 : Arrival} {f : Frame} {n : ℕ} {k : ℕ} (h0 : Good W q P s) : Good W q P
    (answerRevoked s v1 f n k) := by
  unfold answerRevoked
  repeat' first
    | with_reducible assumption
    | with_reducible first | apply bump_good | apply pulseIrq_good | apply answerFail_good
    | dsimp only
    | split

theorem runPiece_good {s : State} {v1 : Arrival} {f : Frame} {off : ℕ} {n : ℕ} {data : List Byte} (h0
    : Good W q P s) : Good W q P (runPiece s v1 f off n data) := by
  unfold runPiece
  repeat' first
    | with_reducible assumption
    | with_reducible first
        | apply checkRange_good | apply applyPiece_good | apply violation_good | apply answerRevoked_good
        | apply pageFault_good | apply answerFail_good
    | simp only [good_fst]
    | dsimp only
    | split

theorem targetFrame_good {s : State} {v1 : Arrival} {f : Frame} {bytes : ℕ} {k : State → List Byte → State} (h0
    : Good W q P s) (h4 : ∀ x00, Good W q P x00 → ∀ x01, Good W q P ((k x00 x01))) : Good W q P
    (targetFrame s v1 f bytes k) := by
  unfold targetFrame
  repeat' first
    | with_reducible assumption
    | with_reducible first | apply h4 | apply answerFail_good | apply unsealFrame_good | apply violation_good
    | simp only [good_fst]
    | dsimp only
    | split

theorem countStream_good {s : State} {v1 : Arrival} {bytes : ℕ} {elems : ℕ} (h0 : Good W q P s) : Good W q P
    (countStream s v1 bytes elems) := by
  unfold countStream
  repeat' first
    | with_reducible assumption
    | with_reducible first | apply bump_good
    | dsimp only
    | split

theorem noteDamage_good {s : State} {v1 : Arrival} {detail : ℕ} {table : ℕ} (h0 : Good W q P s) : Good W q P
    (noteDamage s v1 detail table) := by
  unfold noteDamage
  repeat' first
    | with_reducible assumption
    | with_reducible first | apply modPort_good
    | dsimp only
    | split

theorem openAll_good {s : State} {slot : ℕ} {fs : List Frame} (h0 : Good W q P s) : GoodP2 W q P (openAll s slot fs)
    := by
  unfold openAll
  repeat' first
    | with_reducible assumption
    | with_reducible first | apply openFrame_good | apply goodP2_foldl
    | simp only [goodP2_mk, good_snd]
    | dsimp only
    | split
    | intro _

theorem storeStream_good {s : State} {v1 : Arrival} {f : Frame} {span : ℕ} {k : ℕ} {out : List PByte} (h0
    : Good W q P s) : Good W q P (storeStream s v1 f span k out) := by
  unfold storeStream
  repeat' first
    | with_reducible assumption
    | with_reducible first
        | apply checkRange_good | apply answer_good | apply bump_good | apply storeWindow_good | apply violation_good
        | apply answerRevoked_good | apply pageFault_good | apply answerFail_good
    | simp only [good_fst]
    | dsimp only
    | split

theorem applyCurlew_good {s : State} {v1 : Arrival} {t : SlotImage} {fs : List Frame} (h0 : Good W q P s)
    : Good W q P (applyCurlew s v1 t fs) := by
  unfold applyCurlew
  repeat' first
    | with_reducible assumption
    | with_reducible first
        | apply answerFail_good | apply violation_good | apply openAll_good | apply answerRevoked_good
        | apply countStream_good | apply noteDamage_good | apply storeStream_good
    | simp only [good_snd]
    | dsimp only
    | split

theorem curlewFrame_good {s : State} {v1 : Arrival} {f : Frame} (h0 : Good W q P s) : Good W q P
    (curlewFrame s v1 f) := by
  unfold curlewFrame
  repeat' first
    | with_reducible assumption
    | with_reducible first | apply applyCurlew_good | apply modStork_good
    | dsimp only
    | split

theorem execCompressedWriteDiscard_good {v0 : Arrival} {s : State} (h1 : Good W q P s) : GoodRes W q P
    (execCompressedWriteDiscard v0 s) := by
  unfold execCompressedWriteDiscard
  repeat' first
    | with_reducible assumption
    | with_reducible first | apply modStork_good | apply goodRes_next
    | dsimp only
    | split

theorem takeWrite_good {s : State} {v1 : Arrival} {f : Frame} (h0 : Good W q P s) : Good W q P (takeWrite s v1 f)
    := by
  unfold takeWrite
  repeat' first
    | with_reducible assumption
    | with_reducible first
        | apply targetInput_good | apply curlewFrame_good | apply targetFrame_good | apply runPiece_good
    | dsimp only
    | split
    | intro _

theorem execWriteData_good {v0 : Arrival} {f : Frame} {s : State} (h2 : Good W q P s) : GoodRes W q P
    (execWriteData v0 f s) := by
  unfold execWriteData
  repeat' first
    | with_reducible assumption
    | with_reducible first | apply takeWrite_good | apply takeArrival_good | apply goodRes_next
    | dsimp only
    | split

theorem takeFlag_good {s : State} {v1 : Arrival} {f : Frame} (h0 : Good W q P s) : Good W q P (takeFlag s v1 f) := by
  unfold takeFlag
  repeat' first
    | with_reducible assumption
    | with_reducible first | apply targetInput_good | apply targetFrame_good | apply runPiece_good
    | dsimp only
    | split
    | intro _

theorem execFlagFrame_good {v0 : Arrival} {f : Frame} {s : State} (h2 : Good W q P s) : GoodRes W q P
    (execFlagFrame v0 f s) := by
  unfold execFlagFrame
  repeat' first
    | with_reducible assumption
    | with_reducible first | apply takeFlag_good | apply takeArrival_good | apply goodRes_next
    | dsimp only
    | split

theorem takeReadReq_good {s : State} {v1 : Arrival} {f : Frame} (h0 : Good W q P s) : Good W q P
    (takeReadReq s v1 f) := by
  unfold takeReadReq
  repeat' first
    | with_reducible assumption
    | with_reducible first
        | apply targetInput_good | apply answerFail_good | apply unsealFrame_good | apply violation_good
        | apply runPiece_good | apply good_foldl
    | simp only [good_fst]
    | dsimp only
    | split
    | intro _

theorem execReadReq_good {v0 : Arrival} {f : Frame} {s : State} (h2 : Good W q P s) : GoodRes W q P
    (execReadReq v0 f s) := by
  unfold execReadReq
  repeat' first
    | with_reducible assumption
    | with_reducible first | apply takeReadReq_good | apply takeArrival_good | apply goodRes_next
    | dsimp only
    | split

theorem execStallExpiry_good {s : State} (h0 : Good W q P s) : GoodRes W q P (execStallExpiry s) := by
  unfold execStallExpiry
  repeat' first
    | with_reducible assumption
    | with_reducible first | apply bump_good | apply modStork_good | apply answerFail_good | apply goodRes_next
    | dsimp only
    | split

theorem runStalled_good {s : State} {x : Stalled} (h0 : Good W q P s) : Good W q P (runStalled s x) := by
  unfold runStalled
  repeat' first
    | with_reducible assumption
    | with_reducible first | apply storeStream_good | apply runPiece_good
    | dsimp only
    | split

theorem execPageReady_good {tag : BitVec 12} {s : State} (h1 : Good W q P s) : GoodRes W q P (execPageReady tag s)
    := by
  unfold execPageReady
  repeat' first
    | with_reducible assumption
    | with_reducible first
        | apply storkCmd_good | apply refuseCmd_good | apply modStork_good | apply runStalled_good | apply bump_good
        | apply storkEnd_good | apply good_foldl | apply goodRes_next
    | dsimp only
    | split
    | intro _

theorem revokeWindow_good {s : State} {w : ℕ} (h0 : Good W q P s) : Good W q P (revokeWindow s w) := by
  unfold revokeWindow
  repeat' first
    | with_reducible assumption
    | with_reducible first | apply setWin_good | apply modStork_good | apply answerRevoked_good | apply good_foldl
    | dsimp only
    | split
    | intro _

theorem execRevoke_good {tag : BitVec 12} {s : State} (h1 : Good W q P s) : GoodRes W q P (execRevoke tag s) := by
  unfold execRevoke
  repeat' first
    | with_reducible assumption
    | with_reducible first
        | apply storkCmd_good | apply refuseCmd_good | apply revokeWindow_good | apply bump_good | apply storkEnd_good
        | apply goodRes_next
    | dsimp only
    | split
    | intro _

/-! ## Baton -/

theorem portLevels_good {s : State} {m : Fin 8} (h0 : Good W q P s) : Good W q P (portLevels s m) := by
  unfold portLevels
  repeat' first
    | with_reducible assumption
    | with_reducible first | apply levelIrq_good

theorem setPortSt_good {s : State} {m : Fin 8} {st : PortSt} (h0 : Good W q P s) : Good W q P (setPortSt s m st) := by
  unfold setPortSt
  repeat' first
    | with_reducible assumption
    | with_reducible first | apply portLevels_good | apply modPort_good

theorem startBringup_good {s : State} {m : Fin 8} (h0 : Good W q P s) : Good W q P (startBringup s m) := by
  unfold startBringup
  repeat' first
    | with_reducible assumption
    | with_reducible first
        | apply portLevels_good | apply captureOpen_good | apply setPortSt_good | apply modPort_good
    | dsimp only
    | split

theorem reroute_good {s : State} {m : Fin 8} {f : Frame} (h0 : Good W q P s) : Good W q P (reroute s m f) := by
  unfold reroute
  repeat' first
    | with_reducible assumption
    | with_reducible first | apply enqueue_good | apply bump_good
    | dsimp only
    | split

theorem leaveUpTo_good {s : State} {m : Fin 8} {st : PortSt} {detail : ℕ} (h0 : Good W q P s) : Good W q P
    (leaveUpTo s m st detail) := by
  unfold leaveUpTo
  repeat' first
    | with_reducible assumption
    | with_reducible first
        | apply setPort_good | apply Good.hbm | apply Good.cm | apply reroute_good | apply bump_good
        | apply captureOpen_good | apply startBringup_good | apply relayPortChange_good | apply storkLinkDown_good
        | apply good_foldl | apply Good.cores | apply Good.dir | apply Good.pages | apply Good.queue
        | apply Good.power | apply And.intro
    | simp only [good_mk]
    | dsimp only
    | split
    | intro _

theorem leaveUp_good {s : State} {m : Fin 8} {detail : ℕ} (h0 : Good W q P s) : Good W q P (leaveUp s m detail) := by
  unfold leaveUp
  repeat' first
    | with_reducible assumption
    | with_reducible first | apply leaveUpTo_good

theorem takeDown_good {s : State} {m : Fin 8} {detail : ℕ} (h0 : Good W q P s) : Good W q P (takeDown s m detail)
    := by
  unfold takeDown
  repeat' first
    | with_reducible assumption
    | with_reducible first | apply leaveUp_good | apply startBringup_good | apply modPort_good
    | dsimp only
    | split

theorem portCtrlWrite_good {m : Fin 8} {data : Word} {s : State} (h2 : Good W q P s) : Good W q P
    (portCtrlWrite m data s) := by
  unfold portCtrlWrite
  repeat' first
    | with_reducible assumption
    | with_reducible first | apply putReg_good | apply noteLocked_good | apply takeDown_good | apply startBringup_good
    | dsimp only
    | split

theorem execLinkEnable_good {v0 : Access} {m : Fin 8} {data : Word} {s : State} (h3 : Good W q P s) : GoodRes W q P
    (execLinkEnable v0 m data s) := by
  unfold execLinkEnable
  repeat' first
    | with_reducible assumption
    | with_reducible first | apply gated_good | apply portCtrlWrite_good | apply goodRes_next
    | dsimp only
    | split
    | intro _

theorem execRetrain_good {v0 : Access} {m : Fin 8} {data : Word} {s : State} (h3 : Good W q P s) : GoodRes W q P
    (execRetrain v0 m data s) := by
  unfold execRetrain
  repeat' first
    | with_reducible assumption
    | with_reducible first | apply gated_good | apply portCtrlWrite_good | apply goodRes_next
    | dsimp only
    | split
    | intro _

theorem execAutonegComplete_good {m : Fin 8} {peerTypes : List PhyType} {s : State} (h2 : Good W q P s)
    : GoodRes W q P (execAutonegComplete m peerTypes s) := by
  unfold execAutonegComplete
  repeat' first
    | with_reducible assumption
    | with_reducible first | apply setPortSt_good | apply modPort_good | apply goodRes_next
    | dsimp only
    | split

theorem execLinkTrainingComplete_good {m : Fin 8} {s : State} (h1 : Good W q P s) : GoodRes W q P
    (execLinkTrainingComplete m s) := by
  unfold execLinkTrainingComplete
  repeat' first
    | with_reducible assumption
    | with_reducible first | apply setPortSt_good | apply goodRes_next
    | dsimp only
    | split

theorem execFecLock_good {m : Fin 8} {s : State} (h1 : Good W q P s) : GoodRes W q P (execFecLock m s) := by
  unfold execFecLock
  repeat' first
    | with_reducible assumption
    | with_reducible first | apply setPortSt_good | apply modPort_good | apply goodRes_next
    | dsimp only
    | split

theorem execBringupTimeout_good {m : Fin 8} {s : State} (h1 : Good W q P s) : GoodRes W q P (execBringupTimeout m s)
    := by
  unfold execBringupTimeout
  repeat' first
    | with_reducible assumption
    | with_reducible first | apply takeDown_good | apply bump_good | apply goodRes_next
    | dsimp only
    | split

theorem received_good {s : State} {m : Fin 8} {f : Frame} {kind : ℕ} {k : State} (h0 : Good W q P s) (h4
    : Good W q P k) : Good W q P (received s m f kind k) := by
  unfold received
  repeat' first
    | with_reducible assumption
    | with_reducible first | apply bump_good
    | dsimp only
    | split

theorem execForeignFrame_good {m : Fin 8} {f : Frame} {s : State} (h2 : Good W q P s) : GoodRes W q P
    (execForeignFrame m f s) := by
  unfold execForeignFrame
  repeat' first
    | with_reducible assumption
    | with_reducible first | apply bump_good | apply goodRes_next
    | dsimp only
    | split

theorem enterUp_good {s : State} {m : Fin 8} (h0 : Good W q P s) : Good W q P (enterUp s m) := by
  unfold enterUp
  repeat' first
    | with_reducible assumption
    | with_reducible first | apply modPort_good | apply relayPortChange_good | apply setPortSt_good

theorem takeHello_good {s : State} {m : Fin 8} {f : Frame} (h0 : Good W q P s) : Good W q P (takeHello s m f) := by
  unfold takeHello
  repeat' first
    | with_reducible assumption
    | with_reducible first
        | apply modPort_good | apply leaveUpTo_good | apply setPortSt_good | apply enterUp_good
        | apply captureOpen_good
    | dsimp only
    | split

theorem execHello_good {m : Fin 8} {f : Frame} {s : State} (h2 : Good W q P s) : GoodRes W q P (execHello m f s) := by
  unfold execHello
  repeat' first
    | with_reducible assumption
    | with_reducible first | apply received_good | apply takeHello_good | apply goodRes_next

theorem execHelloTimer_good {m : Fin 8} {s : State} (h1 : Good W q P s) : GoodRes W q P (execHelloTimer m s) := by
  unfold execHelloTimer
  repeat' first
    | with_reducible assumption
    | with_reducible first | apply sendControl_good | apply goodRes_next
    | dsimp only
    | split

theorem execIdleHello_good {m : Fin 8} {s : State} (h1 : Good W q P s) : GoodRes W q P (execIdleHello m s) := by
  unfold execIdleHello
  repeat' first
    | with_reducible assumption
    | with_reducible first | apply sendControl_good | apply goodRes_next
    | dsimp only
    | split

theorem execLiveness_good {m : Fin 8} {s : State} (h1 : Good W q P s) : GoodRes W q P (execLiveness m s) := by
  unfold execLiveness
  repeat' first
    | with_reducible assumption
    | with_reducible first | apply leaveUp_good | apply goodRes_next
    | dsimp only
    | split

theorem execPcsLoss_good {m : Fin 8} {s : State} (h1 : Good W q P s) : GoodRes W q P (execPcsLoss m s) := by
  unfold execPcsLoss
  repeat' first
    | with_reducible assumption
    | with_reducible first | apply leaveUp_good | apply goodRes_next
    | dsimp only
    | split

theorem freeAcked_good {s : State} {m : Fin 8} {c : Fin 3} {n : ℕ} (h0 : Good W q P s) : Good W q P
    (freeAcked s m c n) := by
  unfold freeAcked
  repeat' first
    | with_reducible assumption
    | with_reducible first | apply modCls_good
    | dsimp only
    | split

theorem takeAck_good {s : State} {m : Fin 8} {c : Fin 3} {ack : BitVec 16} (h0 : Good W q P s) : Good W q P
    (takeAck s m c ack) := by
  unfold takeAck
  repeat' first
    | with_reducible assumption
    | with_reducible first | apply freeAcked_good
    | dsimp only
    | split

theorem goBack_good {s : State} {m : Fin 8} {c : Fin 3} (h0 : Good W q P s) : Good W q P (goBack s m c) := by
  unfold goBack
  repeat' first
    | with_reducible assumption
    | with_reducible first | apply leaveUp_good | apply modCls_good
    | dsimp only
    | split

theorem execAck_good {m : Fin 8} {f : Frame} {s : State} (h2 : Good W q P s) : GoodRes W q P (execAck m f s) := by
  unfold execAck
  repeat' first
    | with_reducible assumption
    | with_reducible first | apply received_good | apply takeAck_good | apply goodRes_next
    | dsimp only
    | split

theorem execNak_good {m : Fin 8} {f : Frame} {s : State} (h2 : Good W q P s) : GoodRes W q P (execNak m f s) := by
  unfold execNak
  repeat' first
    | with_reducible assumption
    | with_reducible first
        | apply received_good | apply goBack_good | apply freeAcked_good | apply bump_good | apply goodRes_next
    | dsimp only
    | split

theorem execRetransmitTimeout_good {m : Fin 8} {c : Fin 3} {s : State} (h2 : Good W q P s) : GoodRes W q P
    (execRetransmitTimeout m c s) := by
  unfold execRetransmitTimeout
  repeat' first
    | with_reducible assumption
    | with_reducible first | apply goBack_good | apply bump_good | apply goodRes_next
    | dsimp only
    | split

theorem execAckDelayTimer_good {m : Fin 8} {c : Fin 3} {s : State} (h2 : Good W q P s) : GoodRes W q P
    (execAckDelayTimer m c s) := by
  unfold execAckDelayTimer
  repeat' first
    | with_reducible assumption
    | with_reducible first | apply sendAckNak_good | apply goodRes_next
    | dsimp only
    | split

theorem acceptData_good {s : State} {m : Fin 8} {f : Frame} (h0 : Good W q P s) : Good W q P (acceptData s m f) := by
  unfold acceptData
  repeat' first
    | with_reducible assumption
    | with_reducible first | apply bump_good | apply liveInput_good | apply storeAccepted_good
    | dsimp only
    | split

theorem sequenceData_good {s : State} {m : Fin 8} {f : Frame} (h0 : Good W q P s) : Good W q P (sequenceData s m f)
    := by
  unfold sequenceData
  repeat' first
    | with_reducible assumption
    | with_reducible first
        | apply modCls_good | apply bump_good | apply acceptData_good | apply sendAckNak_good | apply modPort_good
    | dsimp only
    | split

theorem execData_good {m : Fin 8} {f : Frame} {s : State} (h2 : Good W q P s) : GoodRes W q P (execData m f s) := by
  unfold execData
  repeat' first
    | with_reducible assumption
    | with_reducible first | apply received_good | apply takeAck_good | apply sequenceData_good | apply goodRes_next
    | dsimp only
    | split

theorem execCredit_good {m : Fin 8} {f : Frame} {s : State} (h2 : Good W q P s) : GoodRes W q P (execCredit m f s)
    := by
  unfold execCredit
  repeat' first
    | with_reducible assumption
    | with_reducible first | apply received_good | apply relayInput_good | apply goodRes_next
    | dsimp only
    | split

theorem setPaused_good {s : State} {m : Fin 8} {c : Fin 3} {v : Bool} (h0 : Good W q P s) : Good W q P
    (setPaused s m c v) := by
  unfold setPaused
  repeat' first
    | with_reducible assumption
    | with_reducible first | apply portLevels_good | apply modPort_good

theorem execPfc_good {m : Fin 8} {p : PfcFrame} {s : State} (h2 : Good W q P s) : GoodRes W q P (execPfc m p s) := by
  unfold execPfc
  repeat' first
    | with_reducible assumption
    | with_reducible first | apply setPaused_good | apply bump_good | apply good_foldl | apply goodRes_next
    | dsimp only
    | split
    | intro _

theorem execPause_good {m : Fin 8} {s : State} (h1 : Good W q P s) : GoodRes W q P (execPause m s) := by
  unfold execPause
  repeat' first
    | with_reducible assumption
    | with_reducible first | apply bump_good | apply goodRes_next

theorem execPauseExpiry_good {m : Fin 8} {c : Fin 3} {s : State} (h2 : Good W q P s) : GoodRes W q P
    (execPauseExpiry m c s) := by
  unfold execPauseExpiry
  repeat' first
    | with_reducible assumption
    | with_reducible first | apply setPaused_good | apply goodRes_next
    | dsimp only
    | split

theorem execPfcRepeat_good {m : Fin 8} {c : Fin 3} {s : State} (h2 : Good W q P s) : GoodRes W q P
    (execPfcRepeat m c s) := by
  unfold execPfcRepeat
  repeat' first
    | with_reducible assumption
    | with_reducible first | apply sendPfc_good | apply goodRes_next
    | dsimp only
    | split

theorem transmit_good {s : State} {m : Fin 8} {c : Fin 3} {f : Frame} {now : ℕ} (h0 : Good W q P s) : Good W q P
    (transmit s m c f now) := by
  unfold transmit
  repeat' first
    | with_reducible assumption
    | with_reducible first | apply modPort_good | apply emit_good | apply noteAck_good | apply bump_good
    | dsimp only
    | split

theorem spendCredit_good {s : State} {m : Fin 8} {f : Frame} (h0 : Good W q P s) : Good W q P (spendCredit s m f)
    := by
  unfold spendCredit
  repeat' first
    | with_reducible assumption
    | with_reducible first | apply modPort_good | apply bump_good | apply modGrp_good
    | dsimp only
    | split

theorem execDataFrameStart_good {m : Fin 8} {c : Fin 3} {now : ℕ} {s : State} (h3 : Good W q P s) : GoodRes W q P
    (execDataFrameStart m c now s) := by
  unfold execDataFrameStart
  repeat' first
    | with_reducible assumption
    | with_reducible first
        | apply setPort_good | apply modCls_good | apply modPort_good | apply bump_good | apply transmit_good
        | apply spendCredit_good | apply goodRes_next
    | dsimp only
    | split

theorem refuseChunk_good {s : State} {m : Fin 8} {first : BitVec 16} (h0 : Good W q P s) : Good W q P
    (refuseChunk s m first) := by
  unfold refuseChunk
  repeat' first
    | with_reducible assumption
    | with_reducible first
        | apply modPort_good | apply modCls_good | apply Good.hbm | apply Good.cm | apply flowCheck_good
        | apply sendAckNak_good | apply bump_good | apply Good.cores | apply Good.dir | apply Good.pages
        | apply Good.queue | apply Good.power | apply And.intro
    | simp only [good_mk]

theorem handOn_good {s : State} {m : Fin 8} {v2 : HeldChunk} {damaged : Option ℕ} {poisoned : Bool} {entries
    : List E56Entry} {next : ℕ} (h0 : Good W q P s) : Good W q P (handOn s m v2 damaged poisoned entries next) := by
  unfold handOn
  repeat' first
    | with_reducible assumption
    | with_reducible first | apply modPort_good | apply flowCheck_good | apply bump_good | apply sendAckNak_good
    | dsimp only
    | split

theorem execChunkCheck_good {m : Fin 8} {s : State} (h1 : Good W q P s) : GoodRes W q P (execChunkCheck m s) := by
  unfold execChunkCheck
  repeat' first
    | with_reducible assumption
    | with_reducible first
        | apply bump_good | apply handOn_good | apply modPort_good | apply refuseChunk_good | apply pulseIrq_good
        | apply captureError_good | apply goodRes_next
    | dsimp only
    | split

/-! ## Switch -/

theorem forwardFrame_good {s : State} {m : Fin 8} {c : Fin 3} {f : Frame} (h0 : Good W q P s) : Good W q P
    (forwardFrame s m c f) := by
  unfold forwardFrame
  repeat' first
    | with_reducible assumption
    | with_reducible first | apply takeHead_good | apply bump_good | apply enqueue_good
    | dsimp only
    | split

theorem execFrameForward_good {m : Fin 8} {c : Fin 3} {s : State} (h2 : Good W q P s) : GoodRes W q P
    (execFrameForward m c s) := by
  unfold execFrameForward
  repeat' first
    | with_reducible assumption
    | with_reducible first | apply takeHead_good | apply forwardFrame_good | apply goodRes_next
    | dsimp only
    | split

theorem execStallDrop_good {m : Fin 8} {c : Fin 3} {s : State} (h2 : Good W q P s) : GoodRes W q P
    (execStallDrop m c s) := by
  unfold execStallDrop
  repeat' first
    | with_reducible assumption
    | with_reducible first | apply bump_good | apply takeHead_good | apply goodRes_next
    | dsimp only
    | split

theorem execIdentReq_good {m : Fin 8} {f : Frame} {s : State} (h2 : Good W q P s) : GoodRes W q P
    (execIdentReq m f s) := by
  unfold execIdentReq
  repeat' first
    | with_reducible assumption
    | with_reducible first | apply takeHead_good | apply sendM_good | apply goodRes_next
    | dsimp only
    | split

end Sys2Proof.Machine
end

