-- ==== Sys2Proof/Laws/KeepHost.lean ====
section
/-! SUPPORT. Gun, Pacer, recorder, host rings, fencing and background services: each keeps what `Good` says. -/

namespace Sys2Proof.Machine

open Sys2Proof

variable {W : Prop} {q : List Instr} {P : Power → Prop} {α : Type}

/-! ## Gun -/

theorem photoFinishWrite_good {data : Word} {s : State} (h1 : Good W q P s) : Good W q P (photoFinishWrite data s)
    := by
  unfold photoFinishWrite
  repeat' first
    | with_reducible assumption
    | with_reducible first
        | apply putReg_good | apply Good.hbm | apply Good.cm | apply Good.cores | apply Good.dir | apply Good.pages
        | apply Good.queue | apply Good.power | apply And.intro
    | simp only [good_mk]

theorem execPhotoFinish_good {v0 : Access} {data : Word} {s : State} (h2 : Good W q P s) : GoodRes W q P
    (execPhotoFinish v0 data s) := by
  unfold execPhotoFinish
  repeat' first
    | with_reducible assumption
    | with_reducible first | apply gated_good | apply photoFinishWrite_good | apply goodRes_next
    | dsimp only
    | split
    | intro _

theorem setPhotoFinish_good {s : State} {v : Bool} (h0 : Good W q P s) : Good W q P (setPhotoFinish s v) := by
  unfold setPhotoFinish
  repeat' first
    | with_reducible assumption
    | with_reducible first
        | apply Good.hbm | apply Good.cm | apply pulseIrq_good | apply markInput_good | apply Good.cores
        | apply Good.dir | apply Good.pages | apply Good.queue | apply Good.power | apply And.intro
    | simp only [good_mk]
    | dsimp only
    | split

theorem execPhotoFinishActivation_good {s : State} (h0 : Good W q P s) : GoodRes W q P (execPhotoFinishActivation s)
    := by
  unfold execPhotoFinishActivation
  repeat' first
    | with_reducible assumption
    | with_reducible first | apply setPhotoFinish_good | apply goodRes_next
    | dsimp only
    | split

theorem modGun_good {s : State} {f : Gun → Gun} (h0 : Good W q P s) : Good W q P (modGun s f) := by
  unfold modGun
  repeat' first
    | with_reducible assumption
    | with_reducible first
        | apply Good.hbm | apply Good.cm | apply Good.cores | apply Good.dir | apply Good.pages | apply Good.queue
        | apply Good.power | apply And.intro
    | simp only [good_mk]

theorem setGunSt_good {s : State} {st : GunSt} (h0 : Good W q P s) : Good W q P (setGunSt s st) := by
  unfold setGunSt
  repeat' first
    | with_reducible assumption
    | with_reducible first | apply levelIrq_good | apply modGun_good

theorem gunFail_good {s : State} {detail : ℕ} (h0 : Good W q P s) : Good W q P (gunFail s detail) := by
  unfold gunFail
  repeat' first
    | with_reducible assumption
    | with_reducible first | apply bump_good | apply captureOpen_good | apply setGunSt_good | apply modGun_good
    | dsimp only
    | split

theorem sendAbort_good {s : State} (h0 : Good W q P s) : Good W q P (sendAbort s) := by
  unfold sendAbort
  repeat' first
    | with_reducible assumption
    | with_reducible first | apply sendM_good | apply good_foldl
    | dsimp only
    | split
    | intro _

theorem gunCtrlWrite_good {data : Word} {s : State} (h1 : Good W q P s) : Good W q P (gunCtrlWrite data s) := by
  unfold gunCtrlWrite
  repeat' first
    | with_reducible assumption
    | with_reducible first | apply setGunSt_good | apply modGun_good | apply sendAbort_good
    | dsimp only
    | split

theorem execGunArm_good {v0 : Access} {data : Word} {s : State} (h2 : Good W q P s) : GoodRes W q P
    (execGunArm v0 data s) := by
  unfold execGunArm
  repeat' first
    | with_reducible assumption
    | with_reducible first | apply gated_good | apply gunCtrlWrite_good | apply goodRes_next
    | dsimp only
    | split
    | intro _

theorem execGunAbort_good {v0 : Access} {data : Word} {s : State} (h2 : Good W q P s) : GoodRes W q P
    (execGunAbort v0 data s) := by
  unfold execGunAbort
  repeat' first
    | with_reducible assumption
    | with_reducible first | apply gated_good | apply gunCtrlWrite_good | apply goodRes_next
    | dsimp only
    | split
    | intro _

theorem masterCheck_good {s : State} {now : ℕ} (h0 : Good W q P s) : Good W q P (masterCheck s now) := by
  unfold masterCheck
  repeat' first
    | with_reducible assumption
    | with_reducible first | apply modGun_good | apply sendM_good | apply good_foldl
    | dsimp only
    | split
    | intro _

theorem noteReady_good {s : State} {m : ℕ} (h0 : Good W q P s) : Good W q P (noteReady s m) := by
  unfold noteReady
  repeat' first
    | with_reducible assumption
    | with_reducible first | apply modGun_good

theorem execGunReady_good {now : ℕ} {s : State} (h1 : Good W q P s) : GoodRes W q P (execGunReady now s) := by
  unfold execGunReady
  repeat' first
    | with_reducible assumption
    | with_reducible first
        | apply modGun_good | apply masterCheck_good | apply noteReady_good | apply sendM_good | apply goodRes_next
    | dsimp only
    | split

theorem execReady_good {m : Fin 8} {f : Frame} {now : ℕ} {s : State} (h3 : Good W q P s) : GoodRes W q P
    (execReady m f now s) := by
  unfold execReady
  repeat' first
    | with_reducible assumption
    | with_reducible first | apply masterCheck_good | apply noteReady_good | apply takeHead_good | apply goodRes_next
    | dsimp only
    | split

theorem linkDelay_good {s : State} {m : Fin 8} (h0 : Good W q P s) : GoodP2 W q P (linkDelay s m) := by
  unfold linkDelay
  repeat' first
    | with_reducible assumption
    | with_reducible first | apply drawFree_good
    | simp only [goodP2_mk, good_snd]
    | dsimp only
    | split

theorem execFire_good {m : Fin 8} {f : Frame} {arrival : ℕ} {s : State} (h3 : Good W q P s) : GoodRes W q P
    (execFire m f arrival s) := by
  unfold execFire
  repeat' first
    | with_reducible assumption
    | with_reducible first
        | apply linkDelay_good | apply takeHead_good | apply modGun_good | apply captureOpen_good
        | apply forwardFrame_good | apply goodRes_next
    | simp only [good_snd]
    | dsimp only
    | split

theorem execGunAbortMessage_good {m : Fin 8} {f : Frame} {s : State} (h2 : Good W q P s) : GoodRes W q P
    (execGunAbortMessage m f s) := by
  unfold execGunAbortMessage
  repeat' first
    | with_reducible assumption
    | with_reducible first | apply gunFail_good | apply takeHead_good | apply goodRes_next
    | dsimp only
    | split

theorem execGunFire_good {now : ℕ} {s : State} (h1 : Good W q P s) : GoodRes W q P (execGunFire now s) := by
  unfold execGunFire
  repeat' first
    | with_reducible assumption
    | with_reducible first
        | apply modGun_good | apply setGunSt_good | apply bump_good | apply markInput_good | apply Good.hbm
        | apply Good.cm | apply goodRes_next | apply Good.cores | apply Good.dir | apply Good.pages | apply Good.queue
        | apply Good.power | apply And.intro
    | simp only [good_mk]
    | dsimp only
    | split

theorem execGunArmWait_good {s : State} (h0 : Good W q P s) : GoodRes W q P (execGunArmWait s) := by
  unfold execGunArmWait
  repeat' first
    | with_reducible assumption
    | with_reducible first | apply gunFail_good | apply sendAbort_good | apply goodRes_next
    | dsimp only
    | split

theorem execGunNoFire_good {s : State} (h0 : Good W q P s) : GoodRes W q P (execGunNoFire s) := by
  unfold execGunNoFire
  repeat' first
    | with_reducible assumption
    | with_reducible first | apply gunFail_good | apply goodRes_next
    | dsimp only
    | split

theorem execDelayMeasurement_good {m : Fin 8} {now : ℕ} {s : State} (h2 : Good W q P s) : GoodRes W q P
    (execDelayMeasurement m now s) := by
  unfold execDelayMeasurement
  repeat' first
    | with_reducible assumption
    | with_reducible first | apply enqueue_good | apply modPort_good | apply goodRes_next
    | dsimp only
    | split

theorem execDelayReq_good {m : Fin 8} {f : Frame} {t2 : ℕ} {t3 : ℕ} {s : State} (h4 : Good W q P s) : GoodRes W q P
    (execDelayReq m f t2 t3 s) := by
  unfold execDelayReq
  repeat' first
    | with_reducible assumption
    | with_reducible first | apply takeHead_good | apply enqueue_good | apply goodRes_next
    | dsimp only
    | split

theorem execDelayResp_good {m : Fin 8} {f : Frame} {t4 : ℕ} {s : State} (h3 : Good W q P s) : GoodRes W q P
    (execDelayResp m f t4 s) := by
  unfold execDelayResp
  repeat' first
    | with_reducible assumption
    | with_reducible first | apply takeHead_good | apply modPort_good | apply bump_good | apply goodRes_next
    | dsimp only
    | split

/-! ## Pacer -/

theorem modPacer_good {s : State} {f : Pacer → Pacer} (h0 : Good W q P s) : Good W q P (modPacer s f) := by
  unfold modPacer
  repeat' first
    | with_reducible assumption
    | with_reducible first
        | apply Good.hbm | apply Good.cm | apply Good.cores | apply Good.dir | apply Good.pages | apply Good.queue
        | apply Good.power | apply And.intro
    | simp only [good_mk]

theorem setPacerSt_good {s : State} {st : PacerSt} (h0 : Good W q P s) : Good W q P (setPacerSt s st) := by
  unfold setPacerSt
  repeat' first
    | with_reducible assumption
    | with_reducible first | apply levelIrq_good | apply modPacer_good

theorem sendPartner_good {s : State} {msg : ℕ} {value : ℕ} {arg : ℕ} (h0 : Good W q P s) : Good W q P
    (sendPartner s msg value arg) := by
  unfold sendPartner
  repeat' first
    | with_reducible assumption
    | with_reducible first | apply enqueue_good

theorem dropBells_good {s : State} (h0 : Good W q P s) : Good W q P (dropBells s) := by
  unfold dropBells
  repeat' first
    | with_reducible assumption
    | with_reducible first | apply liveInput_good | apply modPacer_good | apply good_foldl
    | dsimp only
    | split
    | intro _

theorem stopPacer_good {s : State} {cause : ℕ} (h0 : Good W q P s) : Good W q P (stopPacer s cause) := by
  unfold stopPacer
  repeat' first
    | with_reducible assumption
    | with_reducible first | apply dropBells_good | apply setPacerSt_good | apply stopAll_good | apply modPacer_good
    | dsimp only
    | split

theorem pacerFields_good {data : Word} {s : State} (h1 : Good W q P s) : Good W q P (pacerFields data s) := by
  unfold pacerFields
  repeat' first
    | with_reducible assumption
    | with_reducible first | apply putReg_good | apply noteLocked_good

theorem pacerStart_good {s : State} {x : PartnerMasks} (h0 : Good W q P s) : Good W q P (pacerStart s x) := by
  unfold pacerStart
  repeat' first
    | with_reducible assumption
    | with_reducible first
        | apply modPacer_good | apply setPacerSt_good | apply Good.hbm | apply Good.cm | apply captureOpen_good
        | apply Good.cores | apply Good.dir | apply Good.pages | apply Good.queue | apply Good.power | apply And.intro
    | simp only [good_mk]
    | dsimp only
    | split

theorem pacerEnd_good {s : State} (h0 : Good W q P s) : Good W q P (pacerEnd s) := by
  unfold pacerEnd
  repeat' first
    | with_reducible assumption
    | with_reducible first | apply dropBells_good | apply setPacerSt_good | apply modPacer_good

theorem execPacerEnable_good {v0 : Access} {data : Word} {partner : PartnerMasks} {s : State} (h3 : Good W q P s)
    : GoodRes W q P (execPacerEnable v0 data partner s) := by
  unfold execPacerEnable
  repeat' first
    | with_reducible assumption
    | with_reducible first
        | apply gated_good | apply pacerFields_good | apply pacerStart_good | apply pacerEnd_good | apply goodRes_next
    | dsimp only
    | split
    | intro _

theorem execPacerDisable_good {v0 : Access} {data : Word} {s : State} (h2 : Good W q P s) : GoodRes W q P
    (execPacerDisable v0 data s) := by
  unfold execPacerDisable
  repeat' first
    | with_reducible assumption
    | with_reducible first | apply gated_good | apply pacerFields_good | apply pacerEnd_good | apply goodRes_next
    | dsimp only
    | split
    | intro _

theorem execPacerResponseDelivery_good {present : Bool} {s : State} (h1 : Good W q P s) : GoodRes W q P
    (execPacerResponseDelivery present s) := by
  unfold execPacerResponseDelivery
  repeat' first
    | with_reducible assumption
    | with_reducible first | apply stopPacer_good | apply goodRes_next
    | dsimp only
    | split

theorem paceBell_good {s : State} {p : ℕ} {r : ℕ} {cq : Bool} {v : Word} (h0 : Good W q P s) : Good W q P
    (paceBell s p r cq v) := by
  unfold paceBell
  repeat' first
    | with_reducible assumption
    | with_reducible first | apply sendPartner_good | apply modPacer_good

theorem execPace_good {m : Fin 8} {f : Frame} {s : State} (h2 : Good W q P s) : GoodRes W q P (execPace m f s) := by
  unfold execPace
  repeat' first
    | with_reducible assumption
    | with_reducible first | apply takeHead_good | apply modPacer_good | apply goodRes_next
    | dsimp only
    | split

theorem execPacedDoorbell_good {p : Fin 4} {r : Fin 16} {s : State} (h2 : Good W q P s) : GoodRes W q P
    (execPacedDoorbell p r s) := by
  unfold execPacedDoorbell
  repeat' first
    | with_reducible assumption
    | with_reducible first
        | apply stopPacer_good | apply modPacer_good | apply bump_good | apply liveInput_good | apply goodRes_next
    | dsimp only
    | split

theorem compareWindow_good {s : State} {w : ℕ} (h0 : Good W q P s) : Good W q P (compareWindow s w) := by
  unfold compareWindow
  repeat' first
    | with_reducible assumption
    | with_reducible first | apply bump_good | apply modPacer_good
    | dsimp only
    | split

theorem execPacerWindowEnd_good {trace : List DWord} {s : State} (h1 : Good W q P s) : GoodRes W q P
    (execPacerWindowEnd trace s) := by
  unfold execPacerWindowEnd
  repeat' first
    | with_reducible assumption
    | with_reducible first
        | apply modPacer_good | apply compareWindow_good | apply sendPartner_good | apply goodRes_next
    | dsimp only
    | split

theorem execDigest_good {m : Fin 8} {f : Frame} {s : State} (h2 : Good W q P s) : GoodRes W q P (execDigest m f s)
    := by
  unfold execDigest
  repeat' first
    | with_reducible assumption
    | with_reducible first | apply takeHead_good | apply modPacer_good | apply compareWindow_good | apply goodRes_next
    | dsimp only
    | split

theorem execPacerStop_good {s : State} (h0 : Good W q P s) : GoodRes W q P (execPacerStop s) := by
  unfold execPacerStop
  repeat' first
    | with_reducible assumption
    | with_reducible first | apply modPacer_good | apply captureOpen_good | apply stopPacer_good | apply goodRes_next
    | dsimp only
    | split

/-! ## Recorder -/

theorem recCountWrite_good {s : State} (h0 : Good W q P s) : Good W q P (recCountWrite s) := by
  unfold recCountWrite
  repeat' first
    | with_reducible assumption
    | with_reducible first | apply recWrite_good

theorem recordStart_good {s : State} (h0 : Good W q P s) : Good W q P (recordStart s) := by
  unfold recordStart
  repeat' first
    | with_reducible assumption
    | with_reducible first
        | apply recWrite_good | apply setRecSt_good | apply Good.hbm | apply Good.cm | apply Good.cores
        | apply Good.dir | apply Good.pages | apply Good.queue | apply Good.power | apply And.intro
    | simp only [good_mk]

theorem replayStart_good {s : State} (h0 : Good W q P s) : Good W q P (replayStart s) := by
  unfold replayStart
  repeat' first
    | with_reducible assumption
    | with_reducible first
        | apply settleReplay_good | apply setRecSt_good | apply Good.hbm | apply Good.cm | apply Good.cores
        | apply Good.dir | apply Good.pages | apply Good.queue | apply Good.power | apply And.intro
    | simp only [good_mk]

theorem recStop_good {s : State} (h0 : Good W q P s) : Good W q P (recStop s) := by
  unfold recStop
  repeat' first
    | with_reducible assumption
    | with_reducible first
        | apply recWrite_good | apply recCountWrite_good | apply setRecSt_good | apply endReplay_good
    | dsimp only
    | split

theorem recCtrlWrite_good {data : Word} {s : State} (h1 : Good W q P s) : Good W q P (recCtrlWrite data s) := by
  unfold recCtrlWrite
  repeat' first
    | with_reducible assumption
    | with_reducible first
        | apply badAccess_good | apply putReg_good | apply recStop_good | apply recordStart_good
        | apply replayStart_good
    | dsimp only
    | split

theorem execRecordStart_good {v0 : Access} {data : Word} {s : State} (h2 : Good W q P s) : GoodRes W q P
    (execRecordStart v0 data s) := by
  unfold execRecordStart
  repeat' first
    | with_reducible assumption
    | with_reducible first | apply gated_good | apply recCtrlWrite_good | apply goodRes_next
    | dsimp only
    | split
    | intro _

theorem execReplayStart_good {v0 : Access} {data : Word} {s : State} (h2 : Good W q P s) : GoodRes W q P
    (execReplayStart v0 data s) := by
  unfold execReplayStart
  repeat' first
    | with_reducible assumption
    | with_reducible first | apply gated_good | apply recCtrlWrite_good | apply goodRes_next
    | dsimp only
    | split
    | intro _

theorem execRecStop_good {v0 : Access} {data : Word} {s : State} (h2 : Good W q P s) : GoodRes W q P
    (execRecStop v0 data s) := by
  unfold execRecStop
  repeat' first
    | with_reducible assumption
    | with_reducible first | apply gated_good | apply recCtrlWrite_good | apply goodRes_next
    | dsimp only
    | split
    | intro _

theorem execRecordCountRewrite_good {s : State} (h0 : Good W q P s) : GoodRes W q P (execRecordCountRewrite s) := by
  unfold execRecordCountRewrite
  repeat' first
    | with_reducible assumption
    | with_reducible first | apply recCountWrite_good | apply goodRes_next
    | dsimp only
    | split

theorem execReplayRelease_good {s : State} (h0 : Good W q P s) : GoodRes W q P (execReplayRelease s) := by
  unfold execReplayRelease
  repeat' first
    | with_reducible assumption
    | with_reducible first
        | apply consumeRec_good | apply presentWake_good | apply Good.hbm | apply Good.cm | apply deliver_good
        | apply diverge_good | apply goodRes_next | apply Good.cores | apply Good.dir | apply Good.pages
        | apply Good.queue | apply Good.power | apply And.intro
    | simp only [good_mk]
    | dsimp only
    | split

theorem execReplayInputTimeout_good {s : State} (h0 : Good W q P s) : GoodRes W q P (execReplayInputTimeout s) := by
  unfold execReplayInputTimeout
  repeat' first
    | with_reducible assumption
    | with_reducible first | apply diverge_good | apply goodRes_next
    | dsimp only
    | split

/-! ## Host -/

theorem ringLevels_good {s : State} {p : ℕ} (h0 : Good W q P s) : Good W q P (ringLevels s p) := by
  unfold ringLevels
  repeat' first
    | with_reducible assumption
    | with_reducible first | apply levelIrq_good

theorem ringFault_good {s : State} {p : ℕ} {r : ℕ} (h0 : Good W q P s) : Good W q P (ringFault s p r) := by
  unfold ringFault
  repeat' first
    | with_reducible assumption
    | with_reducible first
        | apply ringLevels_good | apply modRing_good | apply captureOpen1_good | apply logFault_good
    | dsimp only
    | split

theorem bellWrite_good {s : State} {p : ℕ} {r : ℕ} {cq : Bool} {data : Word} (h0 : Good W q P s) : Good W q P
    (bellWrite s p r cq data) := by
  unfold bellWrite
  repeat' first
    | with_reducible assumption
    | with_reducible first | apply badAccess_good | apply paceBell_good | apply liveInput_good
    | dsimp only
    | split

theorem execSqDb_good {v0 : Access} {partition : Fin 4} {ring : Fin 16} {data : Word} {s : State} (h4
    : Good W q P s) : GoodRes W q P (execSqDb v0 partition ring data s) := by
  unfold execSqDb
  repeat' first
    | with_reducible assumption
    | with_reducible first | apply gated_good | apply bellWrite_good | apply goodRes_next
    | dsimp only
    | split
    | intro _

theorem execCqDb_good {v0 : Access} {partition : Fin 4} {ring : Fin 16} {data : Word} {s : State} (h4
    : Good W q P s) : GoodRes W q P (execCqDb v0 partition ring data s) := by
  unfold execCqDb
  repeat' first
    | with_reducible assumption
    | with_reducible first | apply gated_good | apply bellWrite_good | apply goodRes_next
    | dsimp only
    | split
    | intro _

theorem ringCfgWrite_good {p : ℕ} {r : ℕ} {data : Word} {s : State} (h3 : Good W q P s) : Good W q P
    (ringCfgWrite p r data s) := by
  unfold ringCfgWrite
  repeat' first
    | with_reducible assumption
    | with_reducible first | apply badAccess_good | apply putReg_good | apply captureOpen1_good | apply modRing_good
    | dsimp only
    | split

theorem execRingCfgEnable_good {v0 : Access} {partition : Fin 4} {ring : Fin 16} {data : Word} {s : State} (h4
    : Good W q P s) : GoodRes W q P (execRingCfgEnable v0 partition ring data s) := by
  unfold execRingCfgEnable
  repeat' first
    | with_reducible assumption
    | with_reducible first | apply gated_good | apply ringCfgWrite_good | apply goodRes_next
    | dsimp only
    | split
    | intro _

theorem execRingCfgDisable_good {v0 : Access} {partition : Fin 4} {ring : Fin 16} {data : Word} {s : State} (h4
    : Good W q P s) : GoodRes W q P (execRingCfgDisable v0 partition ring data s) := by
  unfold execRingCfgDisable
  repeat' first
    | with_reducible assumption
    | with_reducible first | apply gated_good | apply ringCfgWrite_good | apply goodRes_next
    | dsimp only
    | split
    | intro _

theorem takeDescriptor_good {s : State} {p : Fin 4} {r : ℕ} {tag : ℕ} {bytes : List Byte} (h0 : Good W q P s)
    : Good W q P (takeDescriptor s p r tag bytes) := by
  unfold takeDescriptor
  repeat' first
    | with_reducible assumption
    | with_reducible first
        | apply readInput_good | apply takeCtx_good | apply finishCtx_good | apply noteRefused_good
        | apply modRing_good | apply Good.hbm | apply Good.cm | apply bump_good | apply Good.cores | apply Good.dir
        | apply Good.pages | apply Good.queue | apply Good.power | apply And.intro
    | simp only [good_mk]
    | dsimp only
    | split

theorem execDescriptorFetch_good {p : Fin 4} {answer : HostRead} {s : State} (h2 : Good W q P s) : GoodRes W q P
    (execDescriptorFetch p answer s) := by
  unfold execDescriptorFetch
  repeat' first
    | with_reducible assumption
    | with_reducible first | apply takeDescriptor_good | apply ringFault_good | apply goodRes_next
    | dsimp only
    | split

theorem ringMessage_good {s : State} {p : ℕ} {r : ℕ} (h0 : Good W q P s) : Good W q P (ringMessage s p r) := by
  unfold ringMessage
  repeat' first
    | with_reducible assumption
    | with_reducible first | apply modRing_good | apply bump_good | apply sendMsi_good

theorem writeEntry_good {s : State} {tag : ℕ} {x : Ctx} {res : Result} {p : ℕ} {r : ℕ} {slot : ℕ} (h0
    : Good W q P s) : Good W q P (writeEntry s tag x res p r slot) := by
  unfold writeEntry
  repeat' first
    | with_reducible assumption
    | with_reducible first
        | apply emit_good | apply freeCtx_good | apply modRing_good | apply bump_good | apply ringMessage_good
    | dsimp only
    | split

theorem execCompletionWrite_good {tag : BitVec 12} {s : State} (h1 : Good W q P s) : GoodRes W q P
    (execCompletionWrite tag s) := by
  unfold execCompletionWrite
  repeat' first
    | with_reducible assumption
    | with_reducible first | apply ringFault_good | apply writeEntry_good | apply goodRes_next
    | dsimp only
    | split

theorem execCoalesceTimer_good {p : Fin 4} {ring : Fin 16} {s : State} (h2 : Good W q P s) : GoodRes W q P
    (execCoalesceTimer p ring s) := by
  unfold execCoalesceTimer
  repeat' first
    | with_reducible assumption
    | with_reducible first | apply ringMessage_good | apply goodRes_next
    | dsimp only
    | split

theorem hostEnd_good {s : State} {tag : ℕ} {code : Byte} {detail : ℕ} {value : ℕ} (h0 : Good W q P s) : Good W q P
    (hostEnd s tag code detail value) := by
  unfold hostEnd
  repeat' first
    | with_reducible assumption
    | with_reducible first | apply finishCtx_good

theorem execHostNop_good {tag : BitVec 12} {s : State} (h1 : Good W q P s) : GoodRes W q P (execHostNop tag s) := by
  unfold execHostNop
  repeat' first
    | with_reducible assumption
    | with_reducible first | apply hostEnd_good | apply goodRes_next
    | dsimp only
    | split

theorem copyIn_good {s : State} {tag : ℕ} {p : ℕ} {d : BitVec 512} {dev : Byte} {answer : HostRead} (h0
    : Good W q P s) : Good W q P (copyIn s tag p d dev answer) := by
  unfold copyIn
  repeat' first
    | with_reducible assumption
    | with_reducible first
        | apply hostEnd_good | apply bump_good | apply readInput_good | apply countFenced_good | apply devWrite_good
    | dsimp only
    | split

theorem copyOut_good {s : State} {tag : ℕ} {p : ℕ} {d : BitVec 512} {dev : Byte} (h0 : Good W q P s) : Good W q P
    (copyOut s tag p d dev) := by
  unfold copyOut
  repeat' first
    | with_reducible assumption
    | with_reducible first
        | apply hostEnd_good | apply countFenced_good | apply devRead_good | apply emit_good | apply bump_good
    | simp only [good_snd]
    | dsimp only
    | split

theorem execCopy_good {tag : BitVec 12} {answer : HostRead} {s : State} (h2 : Good W q P s) : GoodRes W q P
    (execCopy tag answer s) := by
  unfold execCopy
  repeat' first
    | with_reducible assumption
    | with_reducible first
        | apply hostEnd_good | apply ringFault_good | apply copyIn_good | apply copyOut_good | apply goodRes_next
    | dsimp only
    | split

theorem launchAll_good {s : State} {cs : List (Fin 16)} {pc : ℕ} (h0 : Good W q P s) : Good W q P
    (launchAll s cs pc) := by
  unfold launchAll
  repeat' first
    | with_reducible assumption
    | with_reducible first | apply runCore_good | apply putReg_good | apply good_foldl
    | dsimp only
    | split
    | intro _

theorem execLaunch_good {tag : BitVec 12} {s : State} (h1 : Good W q P s) : GoodRes W q P (execLaunch tag s) := by
  unfold execLaunch
  repeat' first
    | with_reducible assumption
    | with_reducible first | apply hostEnd_good | apply launchAll_good | apply startCtx_good | apply goodRes_next
    | dsimp only
    | split

theorem execRepartition_good {tag : BitVec 12} {s : State} (h1 : Good W q P s) : GoodRes W q P
    (execRepartition tag s) := by
  unfold execRepartition
  repeat' first
    | with_reducible assumption
    | with_reducible first
        | apply hostEnd_good | apply startCtx_good | apply Good.hbm | apply Good.cm | apply goodRes_next
        | apply Good.cores | apply Good.dir | apply Good.pages | apply Good.queue | apply Good.power | apply And.intro
    | simp only [good_mk]
    | dsimp only
    | split

/-! ## Fence -/

theorem noteFence_good {s : State} {pg : PageId} {detail : ℕ} (h0 : Good W q P s) : Good W q P
    (noteFence s pg detail) := by
  unfold noteFence
  repeat' first
    | with_reducible assumption
    | with_reducible first
        | apply Good.hbm | apply Good.cm | apply logFault_good | apply Good.cores | apply Good.dir | apply Good.pages
        | apply Good.queue | apply Good.power | apply And.intro
    | simp only [good_mk]
    | dsimp only
    | split

theorem fencePage_good {s : State} {pg : PageId} (h0 : Good W q P s) : Good W q P (fencePage s pg) := by
  unfold fencePage
  repeat' first
    | with_reducible assumption
    | with_reducible first | apply modPage_good | apply GoodPage.regs | apply GoodPage.ctrs | apply And.intro
    | simp only [goodPage_mk]
    | dsimp only
    | split
    | intro _

theorem endTransfer_good {s : State} {survivor : ℕ} {add : Bool} {group : ℕ} (h0 : Good W q P s) : Good W q P
    (endTransfer s survivor add group) := by
  unfold endTransfer
  repeat' first
    | with_reducible assumption
    | with_reducible first | apply captureOpen_good | apply takeTrap_good
    | dsimp only
    | split

theorem endChains_good {s : State} {c : ℕ} (h0 : Good W q P s) : Good W q P (endChains s c) := by
  unfold endChains
  repeat' first
    | with_reducible assumption
    | with_reducible first
        | apply Good.hbm | apply Good.cm | apply endTransfer_good | apply good_foldl | apply Good.cores
        | apply Good.dir | apply Good.pages | apply Good.queue | apply Good.power | apply And.intro
    | simp only [good_mk]
    | dsimp only
    | split
    | intro _

theorem fenceCore_good {s : State} {c : Fin 16} (h0 : Good W q P s) : Good W q P (fenceCore s c) := by
  unfold fenceCore
  repeat' first
    | with_reducible assumption
    | with_reducible first
        | apply Good.hbm | apply Good.cm | apply takeTrap_good | apply fencePage_good | apply modCore_good
        | apply GoodCore.spad | apply noteFence_good | apply relayCoreFenced_good | apply endChains_good
        | apply fenceAgent_good | apply good_foldl | apply Good.cores | apply Good.dir | apply Good.pages
        | apply Good.queue | apply Good.power | apply And.intro
    | simp only [good_mk, goodCore_mk]
    | dsimp only
    | split
    | intro _

theorem fenceStack_good {s : State} {k : Fin 12} {detail : ℕ} (h0 : Good W q P s) : Good W q P
    (fenceStack s k detail) := by
  unfold fenceStack
  repeat' first
    | with_reducible assumption
    | with_reducible first
        | apply Good.hbm | apply Good.cm | apply levelIrq_good | apply fencePage_good | apply captureOpen_good
        | apply relayStackFenced_good | apply noteFence_good | apply Good.cores | apply Good.dir | apply Good.pages
        | apply Good.queue | apply Good.power | apply And.intro
    | simp only [good_mk]
    | dsimp only
    | split

theorem fenceSlice_good {s : State} {j : Fin 16} (h0 : Good W q P s) : Good W q P (fenceSlice s j) := by
  unfold fenceSlice
  repeat' first
    | with_reducible assumption
    | with_reducible first
        | apply Good.hbm | apply Good.cm | apply noteFence_good | apply captureOpen_good | apply fencePage_good
        | apply Good.cores | apply Good.dir | apply Good.pages | apply Good.queue | apply Good.power | apply And.intro
    | simp only [good_mk]
    | dsimp only
    | split

theorem fencePort_good {s : State} {m : Fin 8} (h0 : Good W q P s) : Good W q P (fencePort s m) := by
  unfold fencePort
  repeat' first
    | with_reducible assumption
    | with_reducible first
        | apply Good.hbm | apply Good.cm | apply fencePage_good | apply noteFence_good | apply takeDown_good
        | apply Good.cores | apply Good.dir | apply Good.pages | apply Good.queue | apply Good.power | apply And.intro
    | simp only [good_mk]
    | dsimp only
    | split

theorem execUnitFence_good {unit : UnitName} {s : State} (h1 : Good W q P s) : GoodRes W q P (execUnitFence unit s)
    := by
  unfold execUnitFence
  repeat' first
    | with_reducible assumption
    | with_reducible first
        | apply fenceCore_good | apply fenceStack_good | apply fenceSlice_good | apply fencePort_good
        | apply goodRes_next
    | dsimp only
    | split

theorem execStackPhyFail_good {stack : Fin 12} {s : State} (h1 : Good W q P s) : GoodRes W q P
    (execStackPhyFail stack s) := by
  unfold execStackPhyFail
  repeat' first
    | with_reducible assumption
    | with_reducible first | apply fenceStack_good | apply goodRes_next
    | dsimp only
    | split

theorem execHbmPhyTrainingLoss_good {stack : Fin 12} {retrained : Bool} {s : State} (h2 : Good W q P s)
    : GoodRes W q P (execHbmPhyTrainingLoss stack retrained s) := by
  unfold execHbmPhyTrainingLoss
  repeat' first
    | with_reducible assumption
    | with_reducible first
        | apply bump_good | apply Good.hbm | apply Good.cm | apply goodRes_next | apply Good.cores | apply Good.dir
        | apply Good.pages | apply Good.queue | apply Good.power | apply And.intro
    | simp only [good_mk]
    | dsimp only
    | split

theorem execMinimumServiceSetFailure_any {unit : VitalUnit} {s : State} (h1 : Good W q (Legal false) s)
    : GoodRes W q (Legal false) (execMinimumServiceSetFailure unit s) := by
  unfold execMinimumServiceSetFailure
  repeat' first
    | with_reducible assumption
    | with_reducible first
        | apply Good.hbm | apply Good.cm | apply logFault_good | apply goodRes_next | apply Good.cores
        | apply Good.dir | apply Good.pages | apply Good.queue | apply And.intro
    | simp only [good_mk]
    | exact legal_false
    | dsimp only
    | split

theorem execMinimumServiceSetFailure_good {lb : Bool} {s : State} {unit : VitalUnit} (h : Good W q (Legal lb) s)
    : GoodRes W q (Legal lb) (execMinimumServiceSetFailure unit s) := by
  unfold execMinimumServiceSetFailure
  apply goodRes_next
  have h1 : Good W q (Legal lb) { s with power := { s.power with vitalFailed := some unit, phase := .noFunction } }
      := by
    refine ⟨h.queue, fun hb => ?_, h.hbm, h.cm, h.cores, h.dir, h.pages⟩
    have := h.power hb
    simp [powerLegal] at *; grind
  cases unit <;> first | exact h1 | exact logFault_good h1

theorem putSummary_good {s : State} {c : Fin 16} {f : FoldPend} {b : List Byte} (h0 : Good W q P s) : Good W q P
    (putSummary s c f b) := by
  unfold putSummary
  repeat' first
    | with_reducible assumption
    | with_reducible first | apply spadWriteP_good

theorem foldCounts_good {s : State} {c : Fin 16} {f : FoldPend} (h0 : Good W q P s) : Good W q P (foldCounts s c f)
    := by
  unfold foldCounts
  repeat' first
    | with_reducible assumption
    | with_reducible first | apply bump_good

theorem foldOk_good {s : State} {c : Fin 16} {f : FoldPend} (h0 : Good W q P s) : Good W q P (foldOk s c f) := by
  unfold foldOk
  repeat' first
    | with_reducible assumption
    | with_reducible first
        | apply putSummary_good | apply foldCounts_good | apply modCore_good | apply setS_good | apply GoodCore.spad
        | apply selReport_good | apply And.intro
    | simp only [goodCore_mk]
    | dsimp only
    | split
    | intro _

theorem foldFail_good {s : State} {c : Fin 16} {f : FoldPend} {diff : ℤ} (h0 : Good W q P s) : Good W q P
    (foldFail s c f diff) := by
  unfold foldFail
  repeat' first
    | with_reducible assumption
    | with_reducible first
        | apply drawFree_good | apply foldCounts_good | apply putSummary_good | apply modCore_good
        | apply GoodCore.spad | apply bump_good | apply selReport_good | apply captureError_good | apply levelIrq_good
        | apply logFault_good | apply takeTrap_good | apply fenceCore_good | apply And.intro
    | simp only [goodCore_mk, good_snd]
    | dsimp only
    | split

theorem execConservationCheck_good {c : Fin 16} {fault : BitVec 640} {s : State} (h2 : Good W q P s) : GoodRes W q P
    (execConservationCheck c fault s) := by
  unfold execConservationCheck
  repeat' first
    | with_reducible assumption
    | with_reducible first | apply foldOk_good | apply foldFail_good | apply goodRes_next
    | dsimp only
    | split

/-! ## Background -/

theorem modMgmt_good {s : State} {f : Mgmt → Mgmt} (h0 : Good W q P s) : Good W q P (modMgmt s f) := by
  unfold modMgmt
  repeat' first
    | with_reducible assumption
    | with_reducible first
        | apply Good.hbm | apply Good.cm | apply Good.cores | apply Good.dir | apply Good.pages | apply Good.queue
        | apply Good.power | apply And.intro
    | simp only [good_mk]

theorem ueFence_good {s : State} {k : Fin 12} (h0 : Good W q P s) : Good W q P (ueFence s k) := by
  unfold ueFence
  repeat' first
    | with_reducible assumption
    | with_reducible first | apply fenceStack_good
    | dsimp only
    | split

theorem scrubHard_good {s : State} {k : Fin 12} {v2 : ℕ} (h0 : Good W q P s) : Good W q P (scrubHard s k v2) := by
  unfold scrubHard
  repeat' first
    | with_reducible assumption
    | with_reducible first
        | apply freeBytes_good | apply ueFence_good | apply hbmUncorrectable_good | apply Memory.wf_write
        | apply Good.hbm | apply Good.cm | apply Good.cores | apply Good.dir | apply Good.pages | apply Good.queue
        | apply Good.power | apply And.intro
    | simp only [good_mk, good_snd]
    | dsimp only
    | split
    | intro _

theorem upset_good {s : State} (h0 : Good W q P s) : Good W q P (upset s) := by
  unfold upset
  repeat' first
    | with_reducible assumption
    | with_reducible first
        | apply drawFree_good | apply freeBytes_good | apply modCore_good | apply Memory.wf_store
        | apply GoodCore.spad | apply Memory.wf_write | apply Good.hbm | apply Good.cm | apply bump_good
        | apply Good.cores | apply Good.dir | apply Good.pages | apply Good.queue | apply Good.power | apply And.intro
    | simp only [good_mk, goodCore_mk, goodP2_mk, good_snd]
    | dsimp only
    | split
    | intro _

theorem endPass_good {s : State} (h0 : Good W q P s) : Good W q P (endPass s) := by
  unfold endPass
  repeat' first
    | with_reducible assumption
    | with_reducible first | apply pulseIrq_good | apply bump_good | apply modMgmt_good
    | dsimp only
    | split

theorem execHbmScrub_good {stack : Fin 12} {result : EccResult} {s : State} (h2 : Good W q P s) : GoodRes W q P
    (execHbmScrub stack result s) := by
  unfold execHbmScrub
  repeat' first
    | with_reducible assumption
    | with_reducible first
        | apply bump_good | apply ueFence_good | apply hbmFind_good | apply hbmCorrectable_good | apply scrubHard_good
        | apply endPass_good | apply modMgmt_good | apply goodRes_next
    | dsimp only
    | split

theorem execCmScrub_good {slice : Fin 16} {result : EccResult} {s : State} (h2 : Good W q P s) : GoodRes W q P
    (execCmScrub slice result s) := by
  unfold execCmScrub
  repeat' first
    | with_reducible assumption
    | with_reducible first
        | apply cmFind_good | apply bump_good | apply freeBytes_good | apply captureOpen1_good | apply Good.hbm
        | apply Memory.wf_store | apply Good.cm | apply modMgmt_good | apply goodRes_next | apply Good.cores
        | apply Good.dir | apply Good.pages | apply Good.queue | apply Good.power | apply And.intro
    | simp only [good_mk, good_snd]
    | dsimp only
    | split
    | intro _

theorem execSerdesRecalibration_good {port : Fin 8} {lane : Fin 8} {s : State} (h2 : Good W q P s) : GoodRes W q P
    (execSerdesRecalibration port lane s) := by
  unfold execSerdesRecalibration
  repeat' first
    | with_reducible assumption
    | with_reducible first | apply bump_good | apply goodRes_next
    | dsimp only
    | split

theorem execSensorCalibration_good {begins : Bool} {s : State} (h1 : Good W q P s) : GoodRes W q P
    (execSensorCalibration begins s) := by
  unfold execSensorCalibration
  repeat' first
    | with_reducible assumption
    | with_reducible first | apply modMgmt_good | apply bump_good | apply goodRes_next
    | dsimp only
    | split

theorem execFlashWear_good {action : WearAction} {s : State} (h1 : Good W q P s) : GoodRes W q P
    (execFlashWear action s) := by
  unfold execFlashWear
  repeat' first
    | with_reducible assumption
    | with_reducible first | apply bump_good | apply modMgmt_good | apply goodRes_next
    | dsimp only
    | split

theorem bgPauseWrite_good {data : Word} {s : State} (h1 : Good W q P s) : Good W q P (bgPauseWrite data s) := by
  unfold bgPauseWrite
  repeat' first
    | with_reducible assumption
    | with_reducible first | apply putReg_good

theorem execBgPause_good {v0 : Access} {data : Word} {s : State} (h2 : Good W q P s) : GoodRes W q P
    (execBgPause v0 data s) := by
  unfold execBgPause
  repeat' first
    | with_reducible assumption
    | with_reducible first | apply gated_good | apply bgPauseWrite_good | apply goodRes_next
    | dsimp only
    | split
    | intro _

theorem execAutoResume_good {service : Fin 5} {s : State} (h1 : Good W q P s) : GoodRes W q P
    (execAutoResume service s) := by
  unfold execAutoResume
  repeat' first
    | with_reducible assumption
    | with_reducible first | apply putReg_good | apply pulseIrq_good | apply bump_good | apply goodRes_next
    | dsimp only
    | split

theorem updateThrottle_good {s : State} (h0 : Good W q P s) : Good W q P (updateThrottle s) := by
  unfold updateThrottle
  repeat' first
    | with_reducible assumption
    | with_reducible first | apply modMgmt_good | apply bump_good | apply levelIrq_good
    | dsimp only
    | split

theorem readPanelTemp_good {s : State} {t : ℤ} (h0 : Good W q P s) : Good W q P (readPanelTemp s t) := by
  unfold readPanelTemp
  repeat' first
    | with_reducible assumption
    | with_reducible first | apply modMgmt_good

theorem execTelemetrySample_good {t : Telemetry} {s : State} (h1 : Good W q P s) : GoodRes W q P
    (execTelemetrySample t s) := by
  unfold execTelemetrySample
  repeat' first
    | with_reducible assumption
    | with_reducible first
        | apply bump_good | apply readPanelTemp_good | apply modMgmt_good | apply updateThrottle_good
        | apply goodRes_next
    | dsimp only
    | split

end Sys2Proof.Machine
end

