-- ==== Sys2Proof/Laws/KeepPower.lean ====
section
/-! SUPPORT. Power, PCIe, mailbox, Bittern, panel, register writes and the tick: each keeps what `Good` says. -/

namespace Sys2Proof.Machine

open Sys2Proof

variable {W : Prop} {q : List Instr} {P : Power → Prop} {α : Type}

/-! ## Power -/

theorem modPower_good {s : State} {f : Power → Power} (h : Good W q P s) (hf : P (f s.power)) : Good W q P
    (modPower s f) :=
  ⟨h.queue, hf, h.hbm, h.cm, h.cores, h.dir, h.pages⟩

theorem clearedPage_good {i : ℕ} {p : Page} (h1 : GoodPage W p) : GoodPage W (clearedPage i p) := by
  unfold clearedPage
  repeat' first
    | with_reducible assumption
    | with_reducible first
        | apply GoodPage.regs | apply GoodPage.ctrs | apply mwf_filter | apply mwf_nil | apply And.intro
    | simp only [goodPage_mk]
    | dsimp only
    | split
    | intro _

theorem goodPages_cleared {s : State} (h : GoodPages W s.pages) : GoodPages W (clearedPages s) := by
  intro i
  show GoodPage W (clearedPages s)[i.val]
  unfold clearedPages clearedPage
  rw [Vector.getElem_ofFn]
  have hi : GoodPage W s.pages[i.val] := h i
  split
  · exact hi
  · split
    · exact ⟨fun w => mwf_filter _ (hi.regs w), hi.ctrs⟩
    · exact ⟨fun _ => rfl, fun _ => rfl⟩

theorem goodCores_reset : GoodCores W State.reset.cores := by
  intro i
  show GoodCore W (Vector.replicate 16 ({} : Core))[i.val]
  rw [Vector.getElem_replicate]; exact fun _ => rfl

theorem goodPages_reset : GoodPages W State.reset.pages := by
  intro i
  show GoodPage W (Vector.replicate pageCount ({} : Page))[i.val]
  rw [Vector.getElem_replicate]; exact ⟨fun _ => rfl, fun _ => rfl⟩

theorem clearMain_good {s : State} {cfg : Bool} (h : Good W q P s) (hp : P (offPower s.power)) : Good W q P
    (clearMain s cfg) :=
  ⟨h.queue, hp, h.hbm, fun _ => rfl, goodCores_reset, fun _ => rfl, goodPages_cleared h.pages⟩

theorem startReset_good {s : State} {kind : Nat} (h : Good W q P s) (hp : P (offPower s.power)) :
    Good W q P (startReset s kind) := by
  refine clearMain_good (logOpen_good (bump_good h)) ?_
  rw [logOpen_power, bump_power]; exact hp

theorem startReset_power (s : State) (kind : Nat) : (startReset s kind).power = offPower s.power := by
  show offPower _ = _
  rw [logOpen_power, bump_power]


theorem resetLinkUp_any {s : State} {kind : ℕ} (h0 : Good W q (Legal false) s) : Good W q (Legal false)
    (resetLinkUp s kind) := by
  unfold resetLinkUp
  repeat' first
    | with_reducible assumption
    | with_reducible first | apply modPower_good | apply startReset_good
    | exact legal_false

theorem resetLinkUp_power (s : State) (kind : Nat) :
    (resetLinkUp s kind).power =
      { offPower s.power with phase := .resetting, announce := true, internalReset := kind = 2 } := by
  show { (startReset s kind).power with phase := .resetting, announce := true, internalReset := kind = 2 } = _
  rw [startReset_power]

/-- A device that is on has its rails, and keeps a legal power state when it resets or boots again. -/
theorem legal_on {p : Power} {f : Phase} {a b : Bool} (h : powerLegal p = true)
    (hp : p.phase = .ready ∨ p.phase = .booting ∨ p.phase = .resetting) (hf : f = .booting ∨ f = .resetting) :
    powerLegal { offPower p with phase := f, announce := a, internalReset := b } = true := by
  rcases hf with rfl | rfl <;> simp [powerLegal, offPower] at * <;> grind

/-- What stands with the device off is legal whatever has gone. -/
theorem legal_off {p : Power} {f : Phase} {a : Bool} (h : powerLegal p = true) (hf : f = .held ∨ f = .noFunction) :
    powerLegal { offPower p with phase := f, announce := a } = true := by
  rcases hf with rfl | rfl <;> simp [powerLegal, offPower] at * <;> grind

theorem isOn_iff {s : State} : isOn s = true ↔ s.power.phase = .ready ∨ s.power.phase = .booting ∨ s.power.phase =
    .resetting := by
  simp [isOn, or_assoc]

theorem resetLinkUp_good {lb : Bool} {s : State} {kind : Nat} (h : Good W q (Legal lb) s) (hp : isOn s = true) :
    Good W q (Legal lb) (resetLinkUp s kind) := by
  refine (resetLinkUp_any h.any).withPower ?_
  rw [resetLinkUp_power]
  exact fun hb => legal_on (h.power hb) (isOn_iff.1 hp) (.inr rfl)

theorem wakePinCheck_any {s : State} (h0 : Good W q (Legal false) s) : Good W q (Legal false) (wakePinCheck s) := by
  unfold wakePinCheck
  repeat' first
    | with_reducible assumption
    | with_reducible first | apply bump_good | apply modPower_good
    | exact legal_false
    | dsimp only
    | split

theorem wakePinCheck_legal (s : State) : powerLegal (wakePinCheck s).power = powerLegal s.power := by
  unfold wakePinCheck
  split
  · rw [bump_power]; rfl
  · rfl

theorem wakePinCheck_good {lb : Bool} {s : State} (h : Good W q (Legal lb) s) : Good W q (Legal lb) (wakePinCheck s)
    := by
  refine (wakePinCheck_any h.any).withPower ?_
  intro hb; rw [wakePinCheck_legal]; exact h.power hb

theorem coldState_any {s : State} (h : Good W q (Legal false) s) : Good W q (Legal false) (coldState s) :=
  ⟨h.queue, legal_false, fun _ => rfl, fun _ => rfl, goodCores_reset, fun _ => rfl, goodPages_reset⟩

theorem coldState_good {lb : Bool} {s : State} (h : Good W q (Legal lb) s) : Good W q (Legal lb) (coldState s) := by
  refine (coldState_any h.any).withPower ?_
  intro hb; simp [powerLegal, coldState, State.reset]

theorem execStandbyPowerUp_any {s : State} (h0 : Good W q (Legal false) s) : GoodRes W q (Legal false)
    (execStandbyPowerUp s) := by
  unfold execStandbyPowerUp
  repeat' first
    | with_reducible assumption
    | with_reducible first | apply modMgmt_good | apply coldState_any | apply goodRes_next

theorem execStandbyPowerUp_good {lb : Bool} {s : State} (h : Good W q (Legal lb) s) : GoodRes W q (Legal lb)
    (execStandbyPowerUp s) := by
  exact GoodRes.withPower (execStandbyPowerUp_any h.any) (coldState_good h).power

theorem execStandbyPowerLoss_any {s : State} (h0 : Good W q (Legal false) s) : GoodRes W q (Legal false)
    (execStandbyPowerLoss s) := by
  unfold execStandbyPowerLoss
  repeat' first
    | with_reducible assumption
    | with_reducible first | apply modPower_good | apply coldState_any | apply goodRes_next
    | exact legal_false

theorem execStandbyPowerLoss_good {lb : Bool} {s : State} (h : Good W q (Legal lb) s) : GoodRes W q (Legal lb)
    (execStandbyPowerLoss s) := by
  refine GoodRes.withPower (execStandbyPowerLoss_any h.any) ?_
  intro hb; simp [powerLegal, coldState, modPower, State.reset]

theorem execMainPowerArrival_any {sense0Open : Bool} {sense1Open : Bool} {s : State} (h2 : Good W q (Legal false) s)
    : GoodRes W q (Legal false) (execMainPowerArrival sense0Open sense1Open s) := by
  unfold execMainPowerArrival
  repeat' first
    | with_reducible assumption
    | with_reducible first | apply modPower_good | apply logOpen_good | apply putReg_good | apply goodRes_next
    | exact legal_false
    | dsimp only
    | split

theorem execMainPowerArrival_good {lb : Bool} {s : State} {a b : Bool} (h : Good W q (Legal lb) s) : GoodRes W q
    (Legal lb) (execMainPowerArrival a b s) := by
  refine GoodRes.withPower (execMainPowerArrival_any h.any) ?_
  intro hb
  have := h.power hb
  split
  · exact this
  · dsimp only
    split
    · rw [logOpen_power]
      cases a <;> cases b <;> simp [powerLegal, modPower, senseTable] at * <;> grind
    · cases a <;> cases b <;> simp [powerLegal, modPower, putReg_power, senseTable] at * <;> grind

theorem beginBoot_any {s : State} (h0 : Good W q (Legal false) s) : Good W q (Legal false) (beginBoot s) := by
  unfold beginBoot
  repeat' first
    | with_reducible assumption
    | with_reducible first | apply modPower_good | apply startReset_good
    | exact legal_false
    | dsimp only
    | split

theorem beginBoot_good {lb : Bool} {s : State} (h : Good W q (Legal lb) s) (hg : s.power.railsGood = true)
    (hp : s.power.perst = false) : Good W q (Legal lb) (beginBoot s) := by
  refine (beginBoot_any h.any).withPower ?_
  intro hb
  have := h.power hb
  unfold beginBoot
  split
  · exact this
  · rw [modPower_power, startReset_power]
    simp [powerLegal, offPower] at *; grind

theorem execRailsGood_any {s : State} (h0 : Good W q (Legal false) s) : GoodRes W q (Legal false) (execRailsGood s)
    := by
  unfold execRailsGood
  repeat' first
    | with_reducible assumption
    | with_reducible first | apply modPower_good | apply beginBoot_any | apply goodRes_next
    | exact legal_false
    | dsimp only
    | split

theorem railStep_good {lb : Bool} {s : State} (h : Good W q (Legal lb) s) : Good W q (Legal lb) (railStep s) := by
  have h1 : Good W q (Legal lb) (drawFree s).2 := good_snd.mpr (drawFree_good h)
  unfold railStep
  split
  · dsimp only
    split
    · refine logOpen_good (modPower_good h1 fun hb => ?_)
      have h2 := h1.power hb
      have h3 : (drawFree s).2.power.railsGood = false := by
        have h4 : railsDue s.power = true := ‹_›
        simp only [railsDue, Bool.and_eq_true, Bool.not_eq_true'] at h4
        simpa using h4.1.2
      simp [powerLegal, h3] at *; grind
    · exact h1
  · exact h

theorem execRailsGood_good {lb : Bool} {s : State} (h : Good W q (Legal lb) s) : GoodRes W q (Legal lb)
    (execRailsGood s) := by
  unfold execRailsGood
  apply goodRes_next
  dsimp only
  split
  · exact h
  · have h1 : Good W q (Legal lb) (modPower s (fun p => { p with railsGood := true })) := by
      refine modPower_good h fun hb => ?_
      have := h.power hb
      simp [powerLegal, railsDue] at *; grind
    split
    · exact h1
    · exact beginBoot_good h1 rfl (by simpa [modPower] using ‹¬s.power.perst = true›)

theorem railsDown_any {s : State} (h0 : Good W q (Legal false) s) : Good W q (Legal false) (railsDown s) := by
  unfold railsDown
  repeat' first
    | with_reducible assumption
    | with_reducible first
        | apply modPower_good | apply clearMain_good | apply Good.cm | apply Good.cores | apply Good.dir
        | apply Good.pages | apply Memory.wf_empty | apply Good.queue | apply Good.power | apply And.intro
    | simp only [good_mk]
    | exact legal_false
    | dsimp only
    | split
    | intro _

theorem railsDown_power (s : State) : (railsDown s).power = { offPower s.power with
    railsGood := false, needPerst := 2, announce := false,
    phase := if s.power.phase = .noFunction then .noFunction else .held } := rfl

theorem railsDown_good {lb : Bool} {s : State} (h : Good W q (Legal lb) s) : Good W q (Legal lb) (railsDown s) := by
  refine (railsDown_any h.any).withPower ?_
  intro hb
  have := h.power hb
  rw [railsDown_power]
  split <;> simp [powerLegal, offPower] at * <;> grind

theorem execMainPowerLoss_any {s : State} (h0 : Good W q (Legal false) s) : GoodRes W q (Legal false)
    (execMainPowerLoss s) := by
  unfold execMainPowerLoss
  repeat' first
    | with_reducible assumption
    | with_reducible first
        | apply modPower_good | apply railsDown_any | apply wakePinCheck_any | apply logOpen_good | apply goodRes_next
    | exact legal_false
    | dsimp only
    | split

theorem execMainPowerLoss_good {lb : Bool} {s : State} (h : Good W q (Legal lb) s) : GoodRes W q (Legal lb)
    (execMainPowerLoss s) := by
  refine GoodRes.withPower (execMainPowerLoss_any h.any) ?_
  intro hb
  have := h.power hb
  split
  · exact this
  · dsimp only
    rw [wakePinCheck_legal, logOpen_power, modPower_power, railsDown_power]
    split <;> simp [powerLegal, offPower] at * <;> grind

theorem execThermalTrip_any {s : State} (h0 : Good W q (Legal false) s) : GoodRes W q (Legal false)
    (execThermalTrip s) := by
  unfold execThermalTrip
  repeat' first
    | with_reducible assumption
    | with_reducible first
        | apply modPower_good | apply railsDown_any | apply wakePinCheck_any | apply logOpen_good | apply goodRes_next
    | exact legal_false
    | dsimp only
    | split

theorem execThermalTrip_good {lb : Bool} {s : State} (h : Good W q (Legal lb) s) : GoodRes W q (Legal lb)
    (execThermalTrip s) := by
  refine GoodRes.withPower (execThermalTrip_any h.any) ?_
  intro hb
  have := h.power hb
  split
  · exact this
  · dsimp only
    rw [wakePinCheck_legal, logOpen_power, modPower_power, railsDown_power]
    split <;> simp [powerLegal, offPower] at * <;> grind

theorem execPerstAssert_any {s : State} (h0 : Good W q (Legal false) s) : GoodRes W q (Legal false)
    (execPerstAssert s) := by
  unfold execPerstAssert
  repeat' first
    | with_reducible assumption
    | with_reducible first | apply modPower_good | apply clearMain_good | apply goodRes_next
    | exact legal_false
    | dsimp only
    | split

theorem execPerstAssert_good {lb : Bool} {s : State} (h : Good W q (Legal lb) s) : GoodRes W q (Legal lb)
    (execPerstAssert s) := by
  refine GoodRes.withPower (execPerstAssert_any h.any) ?_
  intro hb
  have := h.power hb
  split
  · exact this
  · dsimp only
    rw [modPower_power, clearMain_power]
    split <;> simp [powerLegal, offPower] at * <;> grind

theorem execPerstDeassert_any {s : State} (h0 : Good W q (Legal false) s) : GoodRes W q (Legal false)
    (execPerstDeassert s) := by
  unfold execPerstDeassert
  repeat' first
    | with_reducible assumption
    | with_reducible first | apply modPower_good | apply beginBoot_any | apply goodRes_next
    | exact legal_false
    | dsimp only
    | split

theorem execPerstDeassert_good {lb : Bool} {s : State} (h : Good W q (Legal lb) s) : GoodRes W q (Legal lb)
    (execPerstDeassert s) := by
  unfold execPerstDeassert
  apply goodRes_next
  split
  · exact h
  · next hc =>
    dsimp only
    have h1 : Good W q (Legal lb) (modPower s (fun p =>
        { p with perst := false, wakePin := false, needPerst := if p.needPerst = 1 then 0 else p.needPerst })) := by
      refine modPower_good h fun hb => ?_
      have := h.power hb
      simp [powerLegal] at *; grind
    split
    · exact beginBoot_good h1 ‹_› rfl
    · exact h1

theorem execLinkInitiatedReset_any {s : State} (h0 : Good W q (Legal false) s) : GoodRes W q (Legal false)
    (execLinkInitiatedReset s) := by
  unfold execLinkInitiatedReset
  repeat' first
    | with_reducible assumption
    | with_reducible first | apply modPower_good | apply startReset_good | apply goodRes_next
    | exact legal_false
    | dsimp only
    | split

theorem execLinkInitiatedReset_good {lb : Bool} {s : State} (h : Good W q (Legal lb) s) : GoodRes W q (Legal lb)
    (execLinkInitiatedReset s) := by
  refine GoodRes.withPower (execLinkInitiatedReset_any h.any) ?_
  intro hb
  have := h.power hb
  split
  · rw [modPower_power, startReset_power]; exact legal_on this (isOn_iff.1 ‹_›) (.inl rfl)
  · exact this

theorem execRootLockLoss_any {s : State} (h0 : Good W q (Legal false) s) : GoodRes W q (Legal false)
    (execRootLockLoss s) := by
  unfold execRootLockLoss
  repeat' first
    | with_reducible assumption
    | with_reducible first
        | apply resetLinkUp_any | apply logOpen_good | apply bump_good | apply modPower_good | apply goodRes_next
    | exact legal_false
    | dsimp only
    | split

theorem execRootLockLoss_good {lb : Bool} {s : State} (h : Good W q (Legal lb) s) : GoodRes W q (Legal lb)
    (execRootLockLoss s) := by
  refine GoodRes.withPower (execRootLockLoss_any h.any) ?_
  intro hb
  have := h.power hb
  split
  · exact this
  · next hc =>
    have ho : isOn s = true := by cases h : isOn s <;> simp_all
    dsimp only
    split
    · rw [modPower_power, resetLinkUp_power, logOpen_power, bump_power]; exact legal_on (p := s.power) this
        (isOn_iff.1 ho) (.inl rfl)
    · rw [resetLinkUp_power, logOpen_power, bump_power]; exact legal_on (p := s.power) this (isOn_iff.1 ho) (.inr rfl)

theorem execDividerRelease_any {refCoincides : Bool} {refInPresent : Bool} {s : State} (h2 : Good W q
    (Legal false) s) : GoodRes W q (Legal false) (execDividerRelease refCoincides refInPresent s) := by
  unfold execDividerRelease
  repeat' first
    | with_reducible assumption
    | with_reducible first
        | apply modPower_good | apply modPage_good | apply goodRes_next | apply GoodPage.regs | apply GoodPage.ctrs
        | apply mwf_mdel | apply And.intro
    | simp only [goodPage_mk]
    | exact legal_false
    | dsimp only
    | split
    | intro _

theorem execDividerRelease_good {lb : Bool} {s : State} {a b : Bool} (h : Good W q (Legal lb) s) : GoodRes W q
    (Legal lb) (execDividerRelease a b s) := by
  refine GoodRes.withPower (execDividerRelease_any h.any) ?_
  intro hb
  have := h.power hb
  split
  · exact this
  · next hc =>
    have hr : ∀ (r : Nat) (x y : Bool), r = 0 ∨ r = 24 → powerLegal { s.power with
        rootLocked := true, released := true, mgmtOnSclk := true, spreadActive := x, refOffset := r, phaseValid
            := true,
        refExt := y } = true := by
      intro r x y h0
      simp [powerLegal] at *; grind
    exact hr _ _ _ (by cases a <;> simp)

theorem logTest_good {s : State} {t : SelfTest} (h0 : Good W q P s) : Good W q P (logTest s t) := by
  unfold logTest
  repeat' first
    | with_reducible assumption
    | with_reducible first | apply logFault_good | apply good_foldl
    | dsimp only
    | split
    | intro _

theorem logRecovery_good {s : State} (h0 : Good W q P s) : Good W q P (logRecovery s) := by
  unfold logRecovery
  repeat' first
    | with_reducible assumption
    | with_reducible first | apply logFault_good
    | dsimp only
    | split

theorem announceReady_good {s : State} (h0 : Good W q P s) : Good W q P (announceReady s) := by
  unfold announceReady
  repeat' first
    | with_reducible assumption
    | with_reducible first | apply sendMsi_good | apply good_foldl
    | dsimp only
    | split
    | intro _

theorem presentBittern_good {s : State} (h0 : Good W q P s) : Good W q P (presentBittern s) := by
  unfold presentBittern
  repeat' first
    | with_reducible assumption
    | with_reducible first | apply bump_good | apply deliverSrc_good
    | dsimp only
    | split

theorem execStatusReady_any {test : SelfTest} {s : State} (h1 : Good W q (Legal false) s) : GoodRes W q
    (Legal false) (execStatusReady test s) := by
  unfold execStatusReady
  repeat' first
    | with_reducible assumption
    | with_reducible first
        | apply logTest_good | apply Good.hbm | apply Good.cm | apply logRecovery_good | apply modPage_good
        | apply modPower_good | apply presentBittern_good | apply announceReady_good | apply good_foldl
        | apply goodRes_next | apply Good.cores | apply Good.dir | apply Good.pages | apply GoodPage.regs
        | apply GoodPage.ctrs | apply Good.queue | apply Good.power | apply And.intro
    | simp only [good_mk, goodPage_mk]
    | exact legal_false
    | dsimp only
    | split
    | intro _

theorem execStatusReady_good {lb : Bool} {s : State} {test : SelfTest} (h : Good W q (Legal lb) s) : GoodRes W q
    (Legal lb) (execStatusReady test s) := by
  unfold execStatusReady
  apply goodRes_next
  split
  · exact h
  · next hc =>
    dsimp only
    have h1 : Good W q (fun p => p = s.power) ((servicePages (logRecovery (logTest
        { s with units := serviceUnits s.units test } test))).foldl
        (fun s pg => modPage s pg (fun p => { p with enable := true, ready := true }))
        (logRecovery (logTest { s with units := serviceUnits s.units test } test))) :=
      good_foldl (logRecovery_good (logTest_good ⟨h.queue, rfl, h.hbm, h.cm, h.cores, h.dir, h.pages⟩))
        (fun t pg ht => modPage_good ht (fun p hp => hp))
    have h2 : ∀ x, Good W q (fun p => p = s.power) x →
        Good W q (Legal lb) (modPower x (fun p => { p with phase := .ready, announce := false })) := by
      intro x h1
      refine ⟨h1.queue, fun hb => ?_, h1.hbm, h1.cm, h1.cores, h1.dir, h1.pages⟩
      rw [modPower_power, h1.power]
      have := h.power hb
      simp [powerLegal] at *; grind
    refine presentBittern_good ?_
    split
    · exact announceReady_good (h2 _ h1)
    · exact h2 _ h1

theorem drainLevels_good {s : State} (h0 : Good W q P s) : Good W q P (drainLevels s) := by
  unfold drainLevels
  repeat' first
    | with_reducible assumption
    | with_reducible first | apply levelIrq_good | apply good_foldl
    | dsimp only
    | split
    | intro _

theorem requestedReset_any {s : State} (h0 : Good W q (Legal false) s) : Good W q (Legal false) (requestedReset s)
    := by
  unfold requestedReset
  repeat' first
    | with_reducible assumption
    | with_reducible first
        | apply resetLinkUp_any | apply Good.hbm | apply Good.cm | apply Good.cores | apply Good.dir
        | apply Good.pages | apply Good.queue | apply Good.power | apply And.intro
    | simp only [good_mk]
    | exact legal_false
    | dsimp only
    | split

theorem requestedReset_good {lb : Bool} {s : State} (h : Good W q (Legal lb) s) : Good W q (Legal lb)
    (requestedReset s) := by
  have h1 : Good W q (Legal lb) { s with drain := none } := ⟨h.queue, h.power, h.hbm, h.cm, h.cores, h.dir, h.pages⟩
  unfold requestedReset
  split
  · exact resetLinkUp_good h1 ‹_›
  · exact h1

theorem startDrain_good {lb : Bool} {s : State} {origin : ℕ} (h0 : Good W q (Legal lb) s) : Good W q (Legal lb)
    (startDrain s origin) := by
  unfold startDrain
  repeat' first
    | with_reducible assumption
    | with_reducible first
        | apply requestedReset_good | apply drainLevels_good | apply Good.hbm | apply Good.cm | apply Good.cores
        | apply Good.dir | apply Good.pages | apply Good.queue | apply Good.power | apply And.intro
    | simp only [good_mk]
    | dsimp only
    | split

theorem ackDrain_good {lb : Bool} {s : State} {p : ℕ} (h0 : Good W q (Legal lb) s) : Good W q (Legal lb)
    (ackDrain s p) := by
  unfold ackDrain
  repeat' first
    | with_reducible assumption
    | with_reducible first
        | apply requestedReset_good | apply Good.hbm | apply Good.cm | apply Good.cores | apply Good.dir
        | apply Good.pages | apply Good.queue | apply Good.power | apply And.intro
    | simp only [good_mk]
    | dsimp only
    | split

theorem requestFull_good {lb : Bool} {s : State} {p : ℕ} (h0 : Good W q (Legal lb) s) : Good W q (Legal lb)
    (requestFull s p) := by
  unfold requestFull
  repeat' first
    | with_reducible assumption
    | with_reducible first
        | apply Good.hbm | apply Good.cm | apply startDrain_good | apply ackDrain_good | apply Good.cores | apply Good.dir
        | apply Good.pages | apply Good.queue | apply Good.power | apply And.intro
    | simp only [good_mk]
    | dsimp only
    | split

theorem fullResetWrite_good {lb : Bool} {data : Word} {s : State} (h1 : Good W q (Legal lb) s) : Good W q (Legal lb)
    (fullResetWrite data s) := by
  unfold fullResetWrite
  repeat' first
    | with_reducible assumption
    | with_reducible first | apply requestFull_good
    | dsimp only
    | split

theorem execFullReset_good {lb : Bool} {v0 : Access} {data : Word} {s : State} (h2 : Good W q (Legal lb) s)
    : GoodRes W q (Legal lb) (execFullReset v0 data s) := by
  unfold execFullReset
  repeat' first
    | with_reducible assumption
    | with_reducible first | apply gated_good | apply fullResetWrite_good | apply goodRes_next
    | dsimp only
    | split
    | intro _

theorem resetRequestWrite_good {lb : Bool} {p : ℕ} {data : Word} {s : State} (h2 : Good W q (Legal lb) s) : Good W q
    (Legal lb) (resetRequestWrite p data s) := by
  unfold resetRequestWrite
  repeat' first
    | with_reducible assumption
    | with_reducible first | apply requestFull_good | apply bump_good
    | dsimp only
    | split

theorem execResetRequest_good {lb : Bool} {v0 : Access} {partition : Fin 4} {data : Word} {s : State} (h3 : Good W q
    (Legal lb) s) : GoodRes W q (Legal lb) (execResetRequest v0 partition data s) := by
  unfold execResetRequest
  repeat' first
    | with_reducible assumption
    | with_reducible first | apply bump_good | apply gated_good | apply resetRequestWrite_good | apply goodRes_next
    | dsimp only
    | split
    | intro _

theorem execDrainAck_good {lb : Bool} {v0 : Access} {partition : Fin 4} {data : Word} {s : State} (h3 : Good W q
    (Legal lb) s) : GoodRes W q (Legal lb) (execDrainAck v0 partition data s) := by
  unfold execDrainAck
  repeat' first
    | with_reducible assumption
    | with_reducible first | apply gated_good | apply ackDrain_good | apply goodRes_next
    | dsimp only
    | split
    | intro _

theorem execDrainPeriodEnd_good {lb : Bool} {s : State} (h0 : Good W q (Legal lb) s) : GoodRes W q (Legal lb)
    (execDrainPeriodEnd s) := by
  unfold execDrainPeriodEnd
  repeat' first
    | with_reducible assumption
    | with_reducible first | apply requestedReset_good | apply goodRes_next
    | dsimp only
    | split

theorem zeroedCore_good {k : Core} (h0 : GoodCore W k) : GoodCore W (zeroedCore k) := by
  unfold zeroedCore
  repeat' first
    | with_reducible assumption
    | with_reducible first | apply Memory.wf_empty | apply And.intro
    | simp only [goodCore_mk]
    | dsimp only
    | split
    | intro _

theorem clearStork_good {s : State} (h0 : Good W q P s) : Good W q P (clearStork s) := by
  unfold clearStork
  repeat' first
    | with_reducible assumption
    | with_reducible first | apply modStork_good | apply revokeWindow_good | apply good_foldl

theorem zeroTables_good {s : State} (h : Good W q P s) : Good W q P (zeroTables s) := by
  refine ⟨h.queue, h.power, h.hbm, ?_, h.cores, fun w => mwf_filter _ (h.dir w), h.pages⟩
  intro w
  obtain ⟨h1, h2, h3⟩ := (Memory.wf_iff _).1 (h.cm w)
  exact (Memory.wf_iff _).2 ⟨mwf_filter _ h1, fun c hc => h2 c (List.mem_filter.1 hc).1, nwf_filter _ h3⟩

theorem resetRings_good {s : State} (h0 : Good W q P s) : Good W q P (resetRings s) := by
  unfold resetRings
  repeat' first
    | with_reducible assumption
    | with_reducible first
        | apply Good.hbm | apply Good.cm | apply modPage_good | apply good_foldl | apply Good.cores | apply Good.dir
        | apply Good.pages | apply GoodPage.regs | apply GoodPage.ctrs | apply mwf_filter | apply Good.queue
        | apply Good.power | apply And.intro
    | simp only [good_mk, goodPage_mk]
    | dsimp only
    | split
    | intro _

theorem newPartitions_good {s : State} {day : Bool} {zero : Bool} (h0 : Good W q P s) : Good W q P
    (newPartitions s day zero) := by
  unfold newPartitions
  repeat' first
    | with_reducible assumption
    | with_reducible first
        | apply zeroTables_good | apply clearStork_good | apply zeroedCore_good | apply Good.hbm | apply Good.cm
        | apply goodCores_map | apply Good.cores | apply Good.dir | apply Good.pages | apply Memory.wf_empty
        | apply Good.queue | apply Good.power | apply And.intro
    | simp only [good_mk]
    | dsimp only
    | split
    | intro _

theorem afterRepartition_good {lb : Bool} {s : State} (h0 : Good W q (Legal lb) s) : Good W q (Legal lb)
    (afterRepartition s) := by
  unfold afterRepartition
  repeat' first
    | with_reducible assumption
    | with_reducible first
        | apply resetRings_good | apply startDrain_good | apply Good.hbm | apply Good.cm | apply Good.cores
        | apply Good.dir | apply Good.pages | apply Good.queue | apply Good.power | apply And.intro
    | simp only [good_mk]
    | dsimp only
    | split

theorem endRepartition_good {lb : Bool} {s : State} {tag : ℕ} {day : Bool} {zero : Bool} {x : Ctx} {p : ℕ} {r : ℕ}
    {slot : ℕ} (h0 : Good W q (Legal lb) s) : Good W q (Legal lb) (endRepartition s tag day zero x p r slot) := by
  unfold endRepartition
  repeat' first
    | with_reducible assumption
    | with_reducible first | apply afterRepartition_good | apply writeEntry_good | apply newPartitions_good

theorem execRepartitionComplete.endRepartFault_good {lb : Bool} {s : State} {p : ℕ} {r : ℕ} {tag : ℕ} {day : Bool}
    {zero : Bool} (h0 : Good W q (Legal lb) s) : Good W q (Legal lb)
    (execRepartitionComplete.endRepartFault s p r tag day zero) := by
  unfold execRepartitionComplete.endRepartFault
  repeat' first
    | with_reducible assumption
    | with_reducible first
        | apply afterRepartition_good | apply finishCtx_good | apply newPartitions_good | apply ringFault_good

theorem execRepartitionComplete_good {lb : Bool} {s : State} (h0 : Good W q (Legal lb) s) : GoodRes W q (Legal lb)
    (execRepartitionComplete s) := by
  unfold execRepartitionComplete
  repeat' first
    | with_reducible assumption
    | with_reducible first
        | apply Good.hbm | apply Good.cm | apply execRepartitionComplete.endRepartFault_good
        | apply endRepartition_good | apply goodRes_next | apply Good.cores | apply Good.dir | apply Good.pages
        | apply Good.queue | apply Good.power | apply And.intro
    | simp only [good_mk]
    | dsimp only
    | split

/-! ## Pcie -/

theorem modFn_good {s : State} {fn : Fin 4} {f : PcieFn → PcieFn} (h0 : Good W q P s) : Good W q P (modFn s fn f)
    := by
  unfold modFn
  repeat' first
    | with_reducible assumption
    | with_reducible first
        | apply Good.hbm | apply Good.cm | apply Good.cores | apply Good.dir | apply Good.pages | apply Good.queue
        | apply Good.power | apply And.intro
    | simp only [good_mk]

theorem dropBusMaster_good {s : State} {fn : Fin 4} (h0 : Good W q P s) : Good W q P (dropBusMaster s fn) := by
  unfold dropBusMaster
  repeat' first
    | with_reducible assumption
    | with_reducible first | apply modFn_good | apply ringFault_good | apply good_foldl
    | dsimp only
    | split
    | intro _

theorem cfgWrite_good {s : State} {fn : Fin 4} {r : ConfigReg} {w : Word} (h0 : Good W q P s) : Good W q P
    (cfgWrite s fn r w) := by
  unfold cfgWrite
  repeat' first
    | with_reducible assumption
    | with_reducible first | apply flushFn_good | apply modFn_good | apply dropBusMaster_good
    | dsimp only
    | split

theorem execConfigRequest_good {fn : Fin 4} {reg : ConfigReg} {write : Option Word} {s : State} (h3 : Good W q P s)
    : GoodRes W q P (execConfigRequest fn reg write s) := by
  unfold execConfigRequest
  repeat' first
    | with_reducible assumption
    | with_reducible first | apply cfgWrite_good | apply emit_good | apply goodRes_next
    | dsimp only
    | split

theorem execD3hotEntry_good {fn : Fin 4} {s : State} (h1 : Good W q P s) : GoodRes W q P (execD3hotEntry fn s) := by
  unfold execD3hotEntry
  repeat' first
    | with_reducible assumption
    | with_reducible first | apply modFn_good | apply goodRes_next
    | dsimp only
    | split

theorem execD0Return_good {fn : Fin 4} {s : State} (h1 : Good W q P s) : GoodRes W q P (execD0Return fn s) := by
  unfold execD0Return
  repeat' first
    | with_reducible assumption
    | with_reducible first | apply flushFn_good | apply modFn_good | apply goodRes_next
    | dsimp only
    | split

theorem execMsixUnmask_good {fn : Fin 4} {vector : Fin 64} {s : State} (h2 : Good W q P s) : GoodRes W q P
    (execMsixUnmask fn vector s) := by
  unfold execMsixUnmask
  repeat' first
    | with_reducible assumption
    | with_reducible first | apply flushVector_good | apply modFn_good | apply goodRes_next
    | dsimp only
    | split

theorem execBusMasterDisable_good {fn : Fin 4} {s : State} (h1 : Good W q P s) : GoodRes W q P
    (execBusMasterDisable fn s) := by
  unfold execBusMasterDisable
  repeat' first
    | with_reducible assumption
    | with_reducible first | apply dropBusMaster_good | apply goodRes_next
    | dsimp only
    | split

/-! ## Mailbox -/

theorem modBox_good {s : State} {f : Mailbox → Mailbox} (h0 : Good W q P s) : Good W q P (modBox s f) := by
  unfold modBox
  repeat' first
    | with_reducible assumption
    | with_reducible first
        | apply Good.hbm | apply Good.cm | apply Good.cores | apply Good.dir | apply Good.pages | apply Good.queue
        | apply Good.power | apply And.intro
    | simp only [good_mk]

theorem boxStart_good {s : State} (h0 : Good W q P s) : Good W q P (boxStart s) := by
  unfold boxStart
  repeat' first
    | with_reducible assumption
    | with_reducible first
        | apply levelIrq_good | apply Good.hbm | apply Good.cm | apply Good.cores | apply Good.dir | apply Good.pages
        | apply Good.queue | apply Good.power | apply And.intro
    | simp only [good_mk]

theorem boxDone_good {s : State} {code : Byte} {detail : ℕ} {data : List Byte} (h0 : Good W q P s) : Good W q P
    (boxDone s code detail data) := by
  unfold boxDone
  repeat' first
    | with_reducible assumption
    | with_reducible first | apply modBox_good | apply bump_good | apply levelIrq_good
    | dsimp only
    | split

theorem boxRefuse_good {s : State} {detail : ℕ} (h0 : Good W q P s) : Good W q P (boxRefuse s detail) := by
  unfold boxRefuse
  repeat' first
    | with_reducible assumption
    | with_reducible first | apply boxDone_good

theorem readLog_good {s : State} (h0 : Good W q P s) : Good W q P (readLog s) := by
  unfold readLog
  repeat' first
    | with_reducible assumption
    | with_reducible first | apply boxRefuse_good | apply boxDone_good
    | dsimp only
    | split

theorem readRecord_good {s : State} (h0 : Good W q P s) : Good W q P (readRecord s) := by
  unfold readRecord
  repeat' first
    | with_reducible assumption
    | with_reducible first | apply boxRefuse_good | apply boxDone_good
    | dsimp only
    | split

theorem readReturnCode_good {s : State} (h0 : Good W q P s) : Good W q P (readReturnCode s) := by
  unfold readReturnCode
  repeat' first
    | with_reducible assumption
    | with_reducible first | apply boxDone_good | apply boxRefuse_good
    | dsimp only
    | split

theorem remoteIdent_good {s : State} (h0 : Good W q P s) : Good W q P (remoteIdent s) := by
  unfold remoteIdent
  repeat' first
    | with_reducible assumption
    | with_reducible first | apply boxRefuse_good | apply modMgmt_good | apply sendM_good
    | dsimp only
    | split

theorem boxRun_good {s : State} (h0 : Good W q P s) : Good W q P (boxRun s) := by
  unfold boxRun
  repeat' first
    | with_reducible assumption
    | with_reducible first
        | apply boxRefuse_good | apply boxDone_good | apply readLog_good | apply readRecord_good
        | apply readReturnCode_good | apply remoteIdent_good
    | dsimp only
    | split

theorem boxGo_good {s : State} (h0 : Good W q P s) : Good W q P (boxGo s) := by
  unfold boxGo
  repeat' first
    | with_reducible assumption
    | with_reducible first | apply badAccess_good | apply boxStart_good | apply boxRun_good
    | dsimp only
    | split

theorem boxResume_good {s : State} (h0 : Good W q P s) : Good W q P (boxResume s) := by
  unfold boxResume
  repeat' first
    | with_reducible assumption
    | with_reducible first | apply boxRun_good
    | dsimp only
    | split

theorem boxCommand_good {v0 : Access} {op : ℕ} {s : State} (h2 : Good W q P s) : Good W q P (boxCommand v0 op s) := by
  unfold boxCommand
  repeat' first
    | with_reducible assumption
    | with_reducible first | apply gated_good | apply boxGo_good
    | dsimp only
    | split
    | intro _

theorem execMbNop_good {v0 : Access} {s : State} (h1 : Good W q P s) : GoodRes W q P (execMbNop v0 s) := by
  unfold execMbNop
  repeat' first
    | with_reducible assumption
    | with_reducible first | apply boxCommand_good | apply goodRes_next

theorem execMbLogInfo_good {v0 : Access} {s : State} (h1 : Good W q P s) : GoodRes W q P (execMbLogInfo v0 s) := by
  unfold execMbLogInfo
  repeat' first
    | with_reducible assumption
    | with_reducible first | apply boxCommand_good | apply goodRes_next

theorem execMbReadLog_good {v0 : Access} {s : State} (h1 : Good W q P s) : GoodRes W q P (execMbReadLog v0 s) := by
  unfold execMbReadLog
  repeat' first
    | with_reducible assumption
    | with_reducible first | apply boxCommand_good | apply goodRes_next

theorem execMbReadRecord_good {v0 : Access} {s : State} (h1 : Good W q P s) : GoodRes W q P (execMbReadRecord v0 s)
    := by
  unfold execMbReadRecord
  repeat' first
    | with_reducible assumption
    | with_reducible first | apply boxCommand_good | apply goodRes_next

theorem execMbReadReturnCode_good {v0 : Access} {s : State} (h1 : Good W q P s) : GoodRes W q P
    (execMbReadReturnCode v0 s) := by
  unfold execMbReadReturnCode
  repeat' first
    | with_reducible assumption
    | with_reducible first | apply boxCommand_good | apply goodRes_next

theorem execMbRemoteIdent_good {v0 : Access} {s : State} (h1 : Good W q P s) : GoodRes W q P
    (execMbRemoteIdent v0 s) := by
  unfold execMbRemoteIdent
  repeat' first
    | with_reducible assumption
    | with_reducible first | apply boxCommand_good | apply goodRes_next

theorem execRemoteIdentTimeout_good {s : State} (h0 : Good W q P s) : GoodRes W q P (execRemoteIdentTimeout s) := by
  unfold execRemoteIdentTimeout
  repeat' first
    | with_reducible assumption
    | with_reducible first | apply boxDone_good | apply modMgmt_good | apply goodRes_next
    | dsimp only
    | split

theorem execIdentResp_good {m : Fin 8} {f : Frame} {s : State} (h2 : Good W q P s) : GoodRes W q P
    (execIdentResp m f s) := by
  unfold execIdentResp
  repeat' first
    | with_reducible assumption
    | with_reducible first | apply takeHead_good | apply boxDone_good | apply modMgmt_good | apply goodRes_next
    | dsimp only
    | split

/-! ## Bittern -/

theorem modBit_good {s : State} {f : Bittern → Bittern} (h0 : Good W q P s) : Good W q P (modBit s f) := by
  unfold modBit
  repeat' first
    | with_reducible assumption
    | with_reducible first
        | apply Good.hbm | apply Good.cm | apply Good.cores | apply Good.dir | apply Good.pages | apply Good.queue
        | apply Good.power | apply And.intro
    | simp only [good_mk]

theorem modChan_good {s : State} {c : Fin 4} {f : Chan → Chan} (h0 : Good W q P s) : Good W q P (modChan s c f) := by
  unfold modChan
  repeat' first
    | with_reducible assumption
    | with_reducible first | apply modBit_good

theorem bitLevels_good {s : State} (h0 : Good W q P s) : Good W q P (bitLevels s) := by
  unfold bitLevels
  repeat' first
    | with_reducible assumption
    | with_reducible first | apply levelIrq_good

theorem wake_good {lb : Bool} {s : State} {code : ℕ} (h0 : Good W q (Legal lb) s) : Good W q (Legal lb)
    (wake s code) := by
  unfold wake
  repeat' first
    | with_reducible assumption
    | with_reducible first
        | apply bump_good | apply logOpen_good | apply modBit_good | apply liveInput_good | apply wakePinCheck_good
        | apply presentWake_good
    | dsimp only
    | split

theorem detect_good {s : State} {x : Option ℤ} (h0 : Good W q P s) : Good W q P (detect s x) := by
  unfold detect
  repeat' first
    | with_reducible assumption
    | with_reducible first | apply modBit_good

theorem setOvr_good {lb : Bool} {s : State} {c : Fin 4} (h0 : Good W q (Legal lb) s) : Good W q (Legal lb)
    (setOvr s c) := by
  unfold setOvr
  repeat' first
    | with_reducible assumption
    | with_reducible first | apply bitLevels_good | apply modBit_good
    | dsimp only
    | split

theorem disturb_good {s : State} {c : Fin 4} (h0 : Good W q P s) : Good W q P (disturb s c) := by
  unfold disturb
  repeat' first
    | with_reducible assumption
    | with_reducible first | apply modChan_good | apply bump_good
    | dsimp only
    | split

theorem bandStep_good {lb : Bool} {xs : List ℤ} {s : State} {b : ℕ} (h1 : Good W q (Legal lb) s) : Good W q
    (Legal lb) (bandStep xs s b) := by
  unfold bandStep
  repeat' first
    | with_reducible assumption
    | with_reducible first | apply modBit_good | apply wake_good
    | dsimp only
    | split

theorem endFrame_good {lb : Bool} {s : State} (h0 : Good W q (Legal lb) s) : Good W q (Legal lb) (endFrame s) := by
  unfold endFrame
  repeat' first
    | with_reducible assumption
    | with_reducible first | apply modBit_good | apply bandStep_good | apply good_foldl
    | dsimp only
    | split

theorem execBandFrame_good {lb : Bool} {s : State} (h0 : Good W q (Legal lb) s) : GoodRes W q (Legal lb)
    (execBandFrame s) := goodRes_next (endFrame_good h0)

theorem toneStep_good {lb : Bool} {xs : List ℤ} {s : State} {t : ℕ} (h1 : Good W q (Legal lb) s) : Good W q
    (Legal lb) (toneStep xs s t) := by
  unfold toneStep
  repeat' first
    | with_reducible assumption
    | with_reducible first | apply modBit_good | apply wake_good
    | dsimp only
    | split

theorem endBlock_good {lb : Bool} {s : State} (h0 : Good W q (Legal lb) s) : Good W q (Legal lb) (endBlock s) := by
  unfold endBlock
  repeat' first
    | with_reducible assumption
    | with_reducible first | apply modBit_good | apply toneStep_good | apply good_foldl
    | dsimp only
    | split

theorem execToneBlock_good {lb : Bool} {s : State} (h0 : Good W q (Legal lb) s) : GoodRes W q (Legal lb)
    (execToneBlock s) := goodRes_next (endBlock_good (endFrame_good h0))

theorem ovrStep_good {lb : Bool} {s : State} (h0 : Good W q (Legal lb) s) : Good W q (Legal lb) (ovrStep s) := by
  unfold ovrStep
  repeat' first
    | with_reducible assumption
    | with_reducible first
        | apply endBlock_good | apply endFrame_good | apply modBit_good | apply wake_good | apply good_foldl
    | dsimp only
    | split
    | intro _

theorem endInstant_good {lb : Bool} {c : Fin 4} {s : State} (h0 : Good W q (Legal lb) s) : Good W q (Legal lb)
    (endInstant c s) := by
  unfold endInstant
  split
  · exact ovrStep_good h0
  · exact h0

theorem takeSample_good {lb : Bool} {chan : Fin 4} {x : ℤ} {overRange : ℕ} {s : State} (h3 : Good W q (Legal lb) s)
    : Good W q (Legal lb) (takeSample chan x overRange s) := by
  unfold takeSample
  repeat' first
    | with_reducible assumption
    | with_reducible first
        | apply disturb_good | apply modChan_good | apply bump_good | apply detect_good | apply setOvr_good
        | apply endInstant_good
    | dsimp only
    | split

theorem execSample_good {lb : Bool} {chan : Fin 4} {inputs : List ℤ} {overRange : ℕ} {s : State} (h3 : Good W q
    (Legal lb) s) : GoodRes W q (Legal lb) (execSample chan inputs overRange s) := by
  unfold execSample
  repeat' first
    | with_reducible assumption
    | with_reducible first | apply takeSample_good | apply modChan_good | apply goodRes_next
    | dsimp only
    | split

theorem execLevelUpdate_good {s : State} (h0 : Good W q P s) : GoodRes W q P (execLevelUpdate s) := by
  unfold execLevelUpdate
  repeat' first
    | with_reducible assumption
    | with_reducible first | apply modBit_good | apply goodRes_next
    | dsimp only
    | split

theorem settleBoth_good {s : State} (h0 : Good W q P s) : Good W q P (settleBoth s) := by
  unfold settleBoth
  repeat' first
    | with_reducible assumption
    | with_reducible first | apply modChan_good | apply good_foldl
    | dsimp only
    | split
    | intro _

theorem biasWrite_good {data : Word} {s : State} (h1 : Good W q P s) : Good W q P (biasWrite data s) := by
  unfold biasWrite
  repeat' first
    | with_reducible assumption
    | with_reducible first | apply putReg_good | apply settleBoth_good | apply modChan_good | apply good_foldl
    | dsimp only
    | split
    | intro _

theorem execBiasChange_good {v0 : Access} {data : Word} {s : State} (h2 : Good W q P s) : GoodRes W q P
    (execBiasChange v0 data s) := by
  unfold execBiasChange
  repeat' first
    | with_reducible assumption
    | with_reducible first | apply gated_good | apply biasWrite_good | apply goodRes_next
    | dsimp only
    | split
    | intro _

theorem execBiasFault_good {input : Fin 2} {s : State} (h1 : Good W q P s) : GoodRes W q P (execBiasFault input s)
    := by
  unfold execBiasFault
  repeat' first
    | with_reducible assumption
    | with_reducible first
        | apply settleBoth_good | apply putReg_good | apply captureOpen1_good | apply modChan_good
        | apply goodRes_next
    | dsimp only
    | split

theorem execPdmStuck_good {s : State} (h0 : Good W q P s) : GoodRes W q P (execPdmStuck s) := by
  unfold execPdmStuck
  repeat' first
    | with_reducible assumption
    | with_reducible first | apply captureOpen1_good | apply modBit_good | apply goodRes_next
    | dsimp only
    | split

theorem execPdmTransitionsResume_good {s : State} (h0 : Good W q P s) : GoodRes W q P (execPdmTransitionsResume s)
    := by
  unfold execPdmTransitionsResume
  repeat' first
    | with_reducible assumption
    | with_reducible first | apply modBit_good | apply goodRes_next

theorem putBlock_good {s : State} {c : ℕ} {ys : List Smp} (h0 : Good W q P s) : Good W q P (putBlock s c ys) := by
  unfold putBlock
  repeat' first
    | with_reducible assumption
    | with_reducible first | apply bump_good | apply modBit_good

theorem ringStep_good {s : State} {c : Fin 4} (h0 : Good W q P s) : Good W q P (ringStep s c) := by
  unfold ringStep
  repeat' first
    | with_reducible assumption
    | with_reducible first | apply modChan_good | apply putBlock_good
    | dsimp only
    | split

theorem execRingBlockWrite_good {s : State} (h0 : Good W q P s) : GoodRes W q P (execRingBlockWrite s) := by
  unfold execRingBlockWrite
  repeat' first
    | with_reducible assumption
    | with_reducible first | apply ringStep_good | apply good_foldl | apply goodRes_next

theorem execPostfillEnd_good {s : State} (h0 : Good W q P s) : GoodRes W q P (execPostfillEnd s) := by
  unfold execPostfillEnd
  repeat' first
    | with_reducible assumption
    | with_reducible first | apply bitLevels_good | apply modBit_good | apply goodRes_next
    | dsimp only
    | split

theorem clearRing_good {s : State} {st : WakeRing} (h0 : Good W q P s) : Good W q P (clearRing s st) := by
  unfold clearRing
  repeat' first
    | with_reducible assumption
    | with_reducible first | apply bitLevels_good | apply modBit_good

theorem ringCtrlWrite_good {data : Word} {s : State} (h1 : Good W q P s) : Good W q P (ringCtrlWrite data s) := by
  unfold ringCtrlWrite
  repeat' first
    | with_reducible assumption
    | with_reducible first | apply putReg_good | apply noteLocked_good | apply clearRing_good
    | dsimp only
    | split

theorem execRingEn_good {v0 : Access} {data : Word} {s : State} (h2 : Good W q P s) : GoodRes W q P
    (execRingEn v0 data s) := by
  unfold execRingEn
  repeat' first
    | with_reducible assumption
    | with_reducible first | apply gated_good | apply ringCtrlWrite_good | apply goodRes_next
    | dsimp only
    | split
    | intro _

theorem execRingEnClear_good {v0 : Access} {data : Word} {s : State} (h2 : Good W q P s) : GoodRes W q P
    (execRingEnClear v0 data s) := by
  unfold execRingEnClear
  repeat' first
    | with_reducible assumption
    | with_reducible first | apply gated_good | apply ringCtrlWrite_good | apply goodRes_next
    | dsimp only
    | split
    | intro _

theorem ringReleaseWrite_good {data : Word} {s : State} (h1 : Good W q P s) : Good W q P (ringReleaseWrite data s)
    := by
  unfold ringReleaseWrite
  repeat' first
    | with_reducible assumption
    | with_reducible first | apply bump_good | apply clearRing_good
    | dsimp only
    | split

theorem execRingRelease_good {v0 : Access} {data : Word} {s : State} (h2 : Good W q P s) : GoodRes W q P
    (execRingRelease v0 data s) := by
  unfold execRingRelease
  repeat' first
    | with_reducible assumption
    | with_reducible first | apply gated_good | apply ringReleaseWrite_good | apply goodRes_next
    | dsimp only
    | split
    | intro _

theorem execRingDataRead_good {rq : Requester} {s : State} (h1 : Good W q P s) : GoodRes W q P
    (execRingDataRead rq s) := by
  unfold execRingDataRead
  repeat' first
    | with_reducible assumption
    | with_reducible first | apply gatedRead_good | apply emit_good | apply putReg_good | apply goodRes_next
    | dsimp only
    | split
    | intro _

theorem wakeCtrlWrite_good {lb : Bool} {data : Word} {s : State} (h1 : Good W q (Legal lb) s) : Good W q (Legal lb)
    (wakeCtrlWrite data s) := by
  unfold wakeCtrlWrite
  repeat' first
    | with_reducible assumption
    | with_reducible first | apply levelIrq_good | apply modBit_good | apply wake_good
    | dsimp only
    | split

theorem execWakeAck_good {lb : Bool} {v0 : Access} {data : Word} {s : State} (h2 : Good W q (Legal lb) s)
    : GoodRes W q (Legal lb) (execWakeAck v0 data s) := by
  unfold execWakeAck
  repeat' first
    | with_reducible assumption
    | with_reducible first | apply gated_good | apply wakeCtrlWrite_good | apply goodRes_next
    | dsimp only
    | split
    | intro _

theorem execTestWake_good {lb : Bool} {v0 : Access} {data : Word} {s : State} (h2 : Good W q (Legal lb) s)
    : GoodRes W q (Legal lb) (execTestWake v0 data s) := by
  unfold execTestWake
  repeat' first
    | with_reducible assumption
    | with_reducible first | apply gated_good | apply wakeCtrlWrite_good | apply goodRes_next
    | dsimp only
    | split
    | intro _

theorem ovrWrite_good {data : Word} {s : State} (h1 : Good W q P s) : Good W q P (ovrWrite data s) := by
  unfold ovrWrite
  repeat' first
    | with_reducible assumption
    | with_reducible first | apply bitLevels_good | apply modBit_good

theorem execOvrClear_good {v0 : Access} {data : Word} {s : State} (h2 : Good W q P s) : GoodRes W q P
    (execOvrClear v0 data s) := by
  unfold execOvrClear
  repeat' first
    | with_reducible assumption
    | with_reducible first | apply gated_good | apply ovrWrite_good | apply goodRes_next
    | dsimp only
    | split
    | intro _

theorem chanWrite_good {data : Word} {s : State} (h1 : Good W q P s) : Good W q P (chanWrite data s) := by
  unfold chanWrite
  repeat' first
    | with_reducible assumption
    | with_reducible first | apply putReg_good | apply modChan_good | apply good_foldl
    | dsimp only
    | split
    | intro _

theorem coefWrite_good {data : Word} {s : State} (h1 : Good W q P s) : Good W q P (coefWrite data s) := by
  unfold coefWrite
  repeat' first
    | with_reducible assumption
    | with_reducible first | apply modChan_good

theorem weightWrite_good {data : Word} {s : State} (h1 : Good W q P s) : Good W q P (weightWrite data s) := by
  unfold weightWrite
  repeat' first
    | with_reducible assumption
    | with_reducible first | apply modBit_good

theorem wakePinWrite_good {lb : Bool} {data : Word} {s : State} (h1 : Good W q (Legal lb) s) : Good W q (Legal lb)
    (wakePinWrite data s) := by
  unfold wakePinWrite
  repeat' first
    | with_reducible assumption
    | with_reducible first | apply wakePinCheck_good | apply putReg_good

/-! ## Panel -/

theorem modPanel_good {s : State} {f : Panel → Panel} (h0 : Good W q P s) : Good W q P (modPanel s f) := by
  unfold modPanel
  repeat' first
    | with_reducible assumption
    | with_reducible first | apply modMgmt_good

theorem execPanelCommit_good {s : State} (h0 : Good W q P s) : GoodRes W q P (execPanelCommit s) := by
  unfold execPanelCommit
  repeat' first
    | with_reducible assumption
    | with_reducible first | apply bump_good | apply modMgmt_good | apply modPanel_good | apply goodRes_next
    | dsimp only
    | split

theorem heldLevel_good {s : State} (h0 : Good W q P s) : Good W q P (heldLevel s) := by
  unfold heldLevel
  repeat' first
    | with_reducible assumption
    | with_reducible first | apply levelIrq_good

theorem beginDraw_good {s : State} (h0 : Good W q P s) : Good W q P (beginDraw s) := by
  unfold beginDraw
  repeat' first
    | with_reducible assumption
    | with_reducible first | apply bump_good | apply heldLevel_good | apply modPanel_good
    | dsimp only
    | split

theorem execPanelDraw_good {s : State} (h0 : Good W q P s) : GoodRes W q P (execPanelDraw s) := by
  unfold execPanelDraw
  repeat' first
    | with_reducible assumption
    | with_reducible first | apply beginDraw_good | apply goodRes_next
    | dsimp only
    | split

theorem execBusyFall_good {s : State} (h0 : Good W q P s) : GoodRes W q P (execBusyFall s) := by
  unfold execBusyFall
  repeat' first
    | with_reducible assumption
    | with_reducible first
        | apply modPanel_good | apply modMgmt_good | apply pulseIrq_good | apply bump_good | apply goodRes_next
    | dsimp only
    | split

theorem execPanelFail_good {s : State} (h0 : Good W q P s) : GoodRes W q P (execPanelFail s) := by
  unfold execPanelFail
  repeat' first
    | with_reducible assumption
    | with_reducible first | apply captureOpen_good | apply modPanel_good | apply goodRes_next
    | dsimp only
    | split

theorem execPanelRedraw_good {s : State} (h0 : Good W q P s) : GoodRes W q P (execPanelRedraw s) := by
  unfold execPanelRedraw
  repeat' first
    | with_reducible assumption
    | with_reducible first | apply modPanel_good | apply beginDraw_good | apply bump_good | apply goodRes_next
    | dsimp only
    | split

theorem panelUpdateWrite_good {data : Word} {s : State} (h1 : Good W q P s) : Good W q P (panelUpdateWrite data s)
    := by
  unfold panelUpdateWrite
  repeat' first
    | with_reducible assumption
    | with_reducible first | apply modPanel_good
    | dsimp only
    | split

theorem execPanelUpdate_good {v0 : Access} {data : Word} {s : State} (h2 : Good W q P s) : GoodRes W q P
    (execPanelUpdate v0 data s) := by
  unfold execPanelUpdate
  repeat' first
    | with_reducible assumption
    | with_reducible first | apply gated_good | apply panelUpdateWrite_good | apply goodRes_next
    | dsimp only
    | split
    | intro _

theorem execRecordDataRead_good {rq : Requester} {s : State} (h1 : Good W q P s) : GoodRes W q P
    (execRecordDataRead rq s) := by
  unfold execRecordDataRead
  repeat' first
    | with_reducible assumption
    | with_reducible first | apply gatedRead_good | apply emit_good | apply putReg_good | apply goodRes_next
    | dsimp only
    | split
    | intro _

theorem execHeaderDetect_any {low : Bool} {s : State} (h1 : Good W q (Legal false) s) : GoodRes W q (Legal false)
    (execHeaderDetect low s) := by
  unfold execHeaderDetect
  repeat' first
    | with_reducible assumption
    | with_reducible first | apply modPower_good | apply goodRes_next
    | exact legal_false
    | dsimp only
    | split

theorem execHeaderDetect_good {lb : Bool} {s : State} {low : Bool} (h : Good W q (Legal lb) s) : GoodRes W q
    (Legal lb) (execHeaderDetect low s) := by
  refine GoodRes.withPower (execHeaderDetect_any h.any) ?_
  intro hb
  split <;> exact h.power hb

theorem setLimit_good {watts : ℕ} {s : State} (h1 : Good W q P s) : Good W q P (setLimit watts s) := by
  unfold setLimit
  repeat' first
    | with_reducible assumption
    | with_reducible first | apply putReg_good
    | dsimp only
    | split

theorem smbusAnswer_good {s : State} {code : ℕ} {r : SmbusRead} {block : Bool} {data : List Byte} (h0
    : Good W q P s) : Good W q P (smbusAnswer s code r block data) := by
  unfold smbusAnswer
  repeat' first
    | with_reducible assumption
    | with_reducible first | apply emit_good

theorem smbusRead_good {s : State} {code : ℕ} {r : SmbusRead} {block : Bool} {data : List Byte} (h0 : Good W q P s)
    : GoodRes W q P (smbusRead s code r block data) := by
  unfold smbusRead
  repeat' first
    | with_reducible assumption
    | with_reducible first | apply smbusAnswer_good | apply goodRes_next
    | dsimp only
    | split

theorem execGetIdent_good {pec : SmbusRead} {s : State} (h1 : Good W q P s) : GoodRes W q P (execGetIdent pec s) := by
  unfold execGetIdent
  repeat' first
    | with_reducible assumption
    | with_reducible first | apply smbusRead_good

theorem execGetState_good {pec : SmbusRead} {s : State} (h1 : Good W q P s) : GoodRes W q P (execGetState pec s) := by
  unfold execGetState
  repeat' first
    | with_reducible assumption
    | with_reducible first | apply smbusRead_good

theorem execGetDieTemp_good {pec : SmbusRead} {s : State} (h1 : Good W q P s) : GoodRes W q P (execGetDieTemp pec s)
    := by
  unfold execGetDieTemp
  repeat' first
    | with_reducible assumption
    | with_reducible first | apply smbusRead_good

theorem execGetHbmTemp_good {pec : SmbusRead} {s : State} (h1 : Good W q P s) : GoodRes W q P (execGetHbmTemp pec s)
    := by
  unfold execGetHbmTemp
  repeat' first
    | with_reducible assumption
    | with_reducible first | apply smbusRead_good

theorem execGetPower_good {pec : SmbusRead} {s : State} (h1 : Good W q P s) : GoodRes W q P (execGetPower pec s) := by
  unfold execGetPower
  repeat' first
    | with_reducible assumption
    | with_reducible first | apply smbusRead_good

theorem execGetReturnCode_good {pec : SmbusRead} {s : State} (h1 : Good W q P s) : GoodRes W q P
    (execGetReturnCode pec s) := by
  unfold execGetReturnCode
  repeat' first
    | with_reducible assumption
    | with_reducible first | apply smbusRead_good

theorem recordHalf_good {s : State} {code : ℕ} {r : SmbusRead} {i : ℕ} (h0 : Good W q P s) : GoodRes W q P
    (recordHalf s code r i) := by
  unfold recordHalf
  repeat' first
    | with_reducible assumption
    | with_reducible first | apply smbusRead_good | apply emit_good | apply goodRes_next
    | dsimp only
    | split

theorem execGetRecordLo_good {pec : SmbusRead} {s : State} (h1 : Good W q P s) : GoodRes W q P
    (execGetRecordLo pec s) := by
  unfold execGetRecordLo
  repeat' first
    | with_reducible assumption
    | with_reducible first | apply recordHalf_good

theorem execGetRecordHi_good {pec : SmbusRead} {s : State} (h1 : Good W q P s) : GoodRes W q P
    (execGetRecordHi pec s) := by
  unfold execGetRecordHi
  repeat' first
    | with_reducible assumption
    | with_reducible first | apply recordHalf_good

theorem execGetFaultSummary_good {pec : SmbusRead} {s : State} (h1 : Good W q P s) : GoodRes W q P
    (execGetFaultSummary pec s) := by
  unfold execGetFaultSummary
  repeat' first
    | with_reducible assumption
    | with_reducible first | apply smbusRead_good

theorem execSetPowerLimit_good {watts : BitVec 16} {pec : Option Byte} {s : State} (h2 : Good W q P s)
    : GoodRes W q P (execSetPowerLimit watts pec s) := by
  unfold execSetPowerLimit
  repeat' first
    | with_reducible assumption
    | with_reducible first | apply setLimit_good | apply goodRes_next
    | dsimp only
    | split

theorem execSmbusUnknownCommand_good {code : Byte} {wrongPec : Bool} {s : State} (h2 : Good W q P s) : GoodRes W q P
    (execSmbusUnknownCommand code wrongPec s) := by
  unfold execSmbusUnknownCommand
  repeat' first
    | with_reducible assumption
    | with_reducible first | apply emit_good | apply goodRes_next
    | dsimp only
    | split

/-! ## Registers -/

theorem unquiesce_good {s : State} {pg : PageId} (h0 : Good W q P s) : Good W q P (unquiesce s pg) := by
  unfold unquiesce
  repeat' first
    | with_reducible assumption
    | with_reducible first
        | apply startNow_good | apply dmaStart_good | apply boxResume_good | apply settle_good | apply modStork_good
        | apply startBringup_good | apply good_foldl
    | dsimp only
    | split

theorem ctrlWrite_good {pg : PageId} {data : Word} {s : State} (h2 : Good W q P s) : Good W q P
    (ctrlWrite pg data s) := by
  unfold ctrlWrite
  repeat' first
    | with_reducible assumption
    | with_reducible first
        | apply modPage_good | apply unquiesce_good | apply GoodPage.regs | apply GoodPage.ctrs | apply And.intro
    | simp only [goodPage_mk]
    | dsimp only
    | split
    | intro _

theorem execCtrlEnable_good {v0 : Access} {page : PageId} {data : Word} {s : State} (h3 : Good W q P s)
    : GoodRes W q P (execCtrlEnable v0 page data s) := by
  unfold execCtrlEnable
  repeat' first
    | with_reducible assumption
    | with_reducible first | apply gated_good | apply ctrlWrite_good | apply goodRes_next
    | dsimp only
    | split
    | intro _

theorem execCtrlQuiesce_good {v0 : Access} {page : PageId} {data : Word} {s : State} (h3 : Good W q P s)
    : GoodRes W q P (execCtrlQuiesce v0 page data s) := by
  unfold execCtrlQuiesce
  repeat' first
    | with_reducible assumption
    | with_reducible first | apply gated_good | apply ctrlWrite_good | apply goodRes_next
    | dsimp only
    | split
    | intro _

theorem execCtrlLock_good {v0 : Access} {page : PageId} {data : Word} {s : State} (h3 : Good W q P s)
    : GoodRes W q P (execCtrlLock v0 page data s) := by
  unfold execCtrlLock
  repeat' first
    | with_reducible assumption
    | with_reducible first | apply gated_good | apply ctrlWrite_good | apply goodRes_next
    | dsimp only
    | split
    | intro _

theorem storeReg_good {pg : PageId} {off : ℕ} {data : Word} {s : State} (h3 : Good W q P s) : Good W q P
    (storeReg pg off data s) := by
  unfold storeReg
  repeat' first
    | with_reducible assumption
    | with_reducible first | apply badAccess_good | apply putReg_good
    | dsimp only
    | split

theorem guardWrite_good {refused : Bool} {pg : PageId} {off : ℕ} {k : State → State} {s : State} (h3
    : ∀ x00, Good W q P x00 → Good W q P ((k x00))) (h4 : Good W q P s) : Good W q P (guardWrite refused pg off k s)
    := by
  unfold guardWrite
  repeat' first
    | with_reducible assumption
    | with_reducible first | apply h3 | apply badAccess_good
    | dsimp only
    | split

theorem settleRoles_good {s : State} (h0 : Good W q P s) : Good W q P (settleRoles s) := by
  unfold settleRoles
  repeat' first
    | with_reducible assumption
    | with_reducible first | apply startBringup_good | apply takeDown_good | apply good_foldl
    | dsimp only
    | split
    | intro _

theorem writeGlobal_good {lb : Bool} {off : ℕ} {data : Word} {s : State} (h2 : Good W q (Legal lb) s) : Good W q
    (Legal lb) (writeGlobal off data s) := by
  unfold writeGlobal
  repeat' first
    | with_reducible assumption
    | with_reducible first
        | apply badAccess_good | apply storeReg_good | apply settleRoles_good | apply takeDown_good
        | apply photoFinishWrite_good | apply fullResetWrite_good | apply good_foldl
    | dsimp only
    | split
    | intro _

theorem writeMailbox_good {off : ℕ} {data : Word} {s : State} (h2 : Good W q P s) : Good W q P
    (writeMailbox off data s) := by
  unfold writeMailbox
  repeat' first
    | with_reducible assumption
    | with_reducible first | apply badAccess_good | apply boxGo_good | apply storeReg_good
    | dsimp only
    | split

theorem freePartner_good {s : State} (h0 : Good W q P s) : GoodP2 W q P (freePartner s) := by
  unfold freePartner
  repeat' first
    | with_reducible assumption
    | with_reducible first | apply drawFree_good
    | simp only [goodP2_mk, good_snd]

theorem pacerWrite_good {data : Word} {s : State} (h1 : Good W q P s) : Good W q P (pacerWrite data s) := by
  unfold pacerWrite
  repeat' first
    | with_reducible assumption
    | with_reducible first
        | apply pacerFields_good | apply freePartner_good | apply pacerStart_good | apply pacerEnd_good
    | simp only [good_snd]
    | dsimp only
    | split

theorem writeDeterminism_good {off : ℕ} {data : Word} {s : State} (h2 : Good W q P s) : Good W q P
    (writeDeterminism off data s) := by
  unfold writeDeterminism
  repeat' first
    | with_reducible assumption
    | with_reducible first
        | apply gunCtrlWrite_good | apply storeReg_good | apply pacerWrite_good | apply recCtrlWrite_good
        | apply guardWrite_good
    | dsimp only
    | split

theorem writeBaton_good {m : Fin 8} {off : ℕ} {data : Word} {s : State} (h3 : Good W q P s) : Good W q P
    (writeBaton m off data s) := by
  unfold writeBaton
  repeat' first
    | with_reducible assumption
    | with_reducible first
        | apply portCtrlWrite_good | apply badAccess_good | apply settleRoles_good | apply takeDown_good
        | apply storeReg_good
    | dsimp only
    | split

theorem writeKeys_good {off : ℕ} {data : Word} {s : State} (h2 : Good W q P s) : Good W q P (writeKeys off data s)
    := by
  unfold writeKeys
  repeat' first
    | with_reducible assumption
    | with_reducible first | apply modStork_good | apply keyWrite_good
    | dsimp only
    | split

theorem writeBittern_good {lb : Bool} {off : ℕ} {data : Word} {s : State} (h2 : Good W q (Legal lb) s) : Good W q
    (Legal lb) (writeBittern off data s) := by
  unfold writeBittern
  repeat' first
    | with_reducible assumption
    | with_reducible first
        | apply chanWrite_good | apply biasWrite_good | apply coefWrite_good | apply weightWrite_good
        | apply storeReg_good | apply wakePinWrite_good | apply wakeCtrlWrite_good | apply ovrWrite_good
        | apply ringCtrlWrite_good | apply ringReleaseWrite_good
    | dsimp only
    | split

theorem writePanel_good {off : ℕ} {data : Word} {s : State} (h2 : Good W q P s) : Good W q P (writePanel off data s)
    := by
  unfold writePanel
  repeat' first
    | with_reducible assumption
    | with_reducible first
        | apply panelUpdateWrite_good | apply guardWrite_good | apply setLimit_good | apply storeReg_good
    | dsimp only
    | split

theorem writeBackground_good {off : ℕ} {data : Word} {s : State} (h2 : Good W q P s) : Good W q P
    (writeBackground off data s) := by
  unfold writeBackground
  repeat' first
    | with_reducible assumption
    | with_reducible first | apply bgPauseWrite_good | apply storeReg_good
    | dsimp only
    | split

theorem coreCtrlWrite_good {c : Fin 16} {data : Word} {s : State} (h2 : Good W q P s) : Good W q P
    (coreCtrlWrite c data s) := by
  unfold coreCtrlWrite
  repeat' first
    | with_reducible assumption
    | with_reducible first | apply runCore_good | apply stopCore_good | apply requestReset_good
    | dsimp only
    | split

theorem imemWrite_good {c : Fin 16} {data : Word} {s : State} (h2 : Good W q P s) : Good W q P (imemWrite c data s)
    := by
  unfold imemWrite
  repeat' first
    | with_reducible assumption
    | with_reducible first | apply modCore_good | apply GoodCore.spad | apply putReg_good | apply And.intro
    | simp only [goodCore_mk]

theorem writeCore_good {c : Fin 16} {off : ℕ} {data : Word} {s : State} (h3 : Good W q P s) : Good W q P
    (writeCore c off data s) := by
  unfold writeCore
  repeat' first
    | with_reducible assumption
    | with_reducible first
        | apply coreCtrlWrite_good | apply badAccess_good | apply imemWrite_good | apply storeReg_good
    | dsimp only
    | split

theorem writeQueues_good {lb : Bool} {p : Fin 4} {off : ℕ} {data : Word} {s : State} (h3 : Good W q (Legal lb) s)
    : Good W q (Legal lb) (writeQueues p off data s) := by
  unfold writeQueues
  repeat' first
    | with_reducible assumption
    | with_reducible first
        | apply ackDrain_good | apply resetRequestWrite_good | apply ringCfgWrite_good | apply guardWrite_good
        | apply storeReg_good | apply bellWrite_good
    | dsimp only
    | split

theorem headerWrite_good {pg : PageId} {off : ℕ} {data : Word} {s : State} (h3 : Good W q P s) : Good W q P
    (headerWrite pg off data s) := by
  unfold headerWrite
  repeat' first
    | with_reducible assumption
    | with_reducible first
        | apply ctrlWrite_good | apply clearIrq_good | apply updIrq_good | apply modPage_good | apply GoodPage.regs
        | apply GoodPage.ctrs | apply And.intro
    | simp only [goodPage_mk]
    | dsimp only
    | split
    | intro _

theorem writeReg_good {lb : Bool} {pg : PageId} {off : ℕ} {data : Word} {s : State} (h3 : Good W q (Legal lb) s)
    : Good W q (Legal lb) (writeReg pg off data s) := by
  unfold writeReg
  repeat' first
    | with_reducible assumption
    | with_reducible first
        | apply headerWrite_good | apply writeGlobal_good | apply writeMailbox_good | apply writeDeterminism_good
        | apply writeCore_good | apply storeReg_good | apply writeBaton_good | apply writeKeys_good
        | apply writeQueues_good | apply writeBittern_good | apply writePanel_good | apply writeBackground_good
    | dsimp only
    | split

theorem execRegisterWrite_good {lb : Bool} {v0 : Access} {addr : BitVec 26} {data : Word} {s : State} (h3 : Good W q
    (Legal lb) s) : GoodRes W q (Legal lb) (execRegisterWrite v0 addr data s) := by
  unfold execRegisterWrite
  repeat' first
    | with_reducible assumption
    | with_reducible first
        | apply execIrqRouteWrite_good | apply gated_good | apply writeReg_good | apply goodRes_next
    | dsimp only
    | split
    | intro _

/-! ## Tick -/

theorem tickCore_good {s : State} {c : Fin 16} (h0 : Good W q P s) : Good W q P (tickCore s c) := by
  unfold tickCore
  repeat' first
    | with_reducible assumption
    | with_reducible first | apply modCore_good | apply bump_good | apply GoodCore.spad | apply And.intro
    | simp only [goodCore_mk]
    | dsimp only
    | split

theorem newCycle_good {s : State} (h0 : Good W q P s) : Good W q P (newCycle s) := by
  unfold newCycle
  repeat' first
    | with_reducible assumption
    | with_reducible first
        | apply Good.hbm | apply Good.cm | apply Good.cores | apply Good.dir | apply Good.pages | apply Good.queue
        | apply Good.power | apply And.intro
    | simp only [good_mk]

theorem tick_good {lb : Bool} {s : State} (h0 : Good W q (Legal lb) s) : Good W q (Legal lb) (tick s) := by
  unfold tick
  repeat' first
    | with_reducible assumption
    | with_reducible first
        | apply ueFence_good | apply upset_good | apply tickCore_good | apply bump_good | apply newCycle_good
        | apply railStep_good
        | apply good_foldl
    | dsimp only
    | split

end Sys2Proof.Machine
end

