-- ==== Sys2Proof/Machine/View.lean ====
section
/-! DEFINITION. What a read of every register shows, from the state: the common header, the counters, and the block-specific
words of every page (R86, R94 to R100, R114, R118, R121, R128, R129, R190, R193, R244, R246, R280, R325, R375, R377, R427,
R480, R482, R483, R532, R572, R619, R657, R659, R661, R707, R738).  A read that changes state is a command of its own; this
file says the value such a read and every other read returns. -/

namespace Sys2Proof.Machine

open Sys2Proof

/-- Word `i` of a natural. -/
def word32 (n i : Nat) : Nat := bitsOf n (32 * i + 31) (32 * i)

/-- A mask as a natural: bit `i` where `f` holds, for `i` below `n`. -/
def maskOf (n : Nat) (f : Nat → Bool) : Nat := ((List.range n).map (fun i => bit01 (f i) * 2 ^ i)).sum

/-! ## The common header (R100) -/

/-- QUIESCE has an effect on the page (DESIGN CHOICE, entry 82). -/
def hasQuiesce : PageId → Bool
  | .core _ _ | .mailbox | .queues _ | .stork | .relay => true
  | _ => false

/-- Header words 0x000 to 0x03C. -/
def readHeader (s : State) (pg : PageId) (off : Nat) : Nat :=
  let p := getPage s pg
  let ty := pageType pg
  match off with
  | 0x000 => ty * 65536 + pageInst pg * 256 + 1
  | 0x004 => irqBits ty + 256 * counterPairs ty + 65536 * bit01 (hasLock ty) + 131072 * bit01 (hasQuiesce pg)
  | 0x008 => bit01 p.enable + 2 * bit01 p.quiesce + 2 ^ 31 * bit01 p.lock
  | 0x00C => bit01 p.ready + 2 * bit01 (pageIdle s pg) + 4 * bit01 p.fenced + 8 * bit01 p.error
  | 0x010 => p.irqRaw.toNat
  | 0x014 => p.irqStatus.toNat
  | 0x018 => p.irqEnable.toNat
  | 0x020 => p.errCode.toNat
  | 0x024 => p.errInfo0.toNat
  | 0x028 => p.errInfo1.toNat
  | 0x02C => p.errCount.toNat
  | 0x030 => p.scratch.toNat
  | _ => 0

/-! ## Chip pages -/

/-- LCORE_MAP: physical ids of eight chip logical cores from `i`. -/
def coreMap (s : State) (i : Nat) : Nat :=
  ((List.range 8).map (fun j => (if i + j < numCores s then physCore s (i + j) else 0) * 16 ^ j)).sum

/-- A field of `k` bits that the self-test decides: during a reset with the link up its boot value is free (R612; DESIGN CHOICE,
entry 124). -/
def bootField (s : State) (off k v : Nat) : Nat :=
  if s.power.phase = .resetting then (Config.bootWord off (ctrOf s .clock 2).toNat).toNat % 2 ^ k else v

/-- The partition fields of word 0x064 for the function that reads (R128).  CORE_COUNT has four bits, and what they show of 16
is free (DESIGN CHOICE, entry 83); a reader that owns no partition finds 0 (DESIGN CHOICE, entries 117 and 126). -/
def ownWord (s : State) (rq : Requester) : Nat :=
  match rq with
  | .management => 0
  | .function fn =>
    if ownsPart s fn then 4 * fn.val + 16 + 256 * partBase s fn +
      65536 * bootField s 0x064 4 (if partCount s fn < 16 then partCount s fn else Config.coreCount16.toNat)
    else 0

/-- Global (R128). -/
def readGlobal (s : State) (rq : Requester) (off : Nat) : Nat :=
  match off with
  | 0x040 => chipId s
  | 0x044 => coresFused s + 256 * bootField s off 5 (numCores s)
  | 0x048 => bootField s off 16 s.units.cores.toNat
  | 0x04C => bootField s off 32 (coreMap s 0)
  | 0x050 => bootField s off 32 (coreMap s 8)
  | 0x054 => bootField s off 12 s.units.hbms.toNat
  | 0x058 => bootField s off 16 s.units.slices.toNat
  | 0x05C => bootField s off 8 s.units.ports.toNat
  | 0x060 => s.units.service.toNat
  | 0x064 => s.mode.toNat + ownWord s rq
  | 0x068 => regOf s .global 0x068 + 2 * bit01 s.pfActive
  | 0x070 => regOf s .global 0x070
  | 0x074 => regOf s .global 0x074
  | _ =>
    if 0x0C0 ≤ off ∧ off < 0x0E0 then maskOf 32 (fun i => srcLevel s (8 * (off - 0x0C0) + i))
    else if 0x200 ≤ off ∧ off < 0x400 then regOf s .global off
    else 0

/-- Clock and reset (R86). -/
def readClock (s : State) (off : Nat) : Nat :=
  match off with
  | 0x040 => bit01 s.power.rootLocked + 2 * bit01 s.power.spreadActive
  | 0x044 => regOf s .clock 0x044
  | 0x048 => s.power.refOffset + 128 * bit01 s.power.phaseValid
  | _ => 0

/-- Management mailbox (R129). -/
def readMailbox (s : State) (off : Nat) : Nat :=
  let b := s.mailbox
  match off with
  | 0x040 | 0x044 | 0x048 => regOf s .mailbox off
  | 0x050 => b.result.toNat + 256 * bit01 b.busy + 512 * bit01 b.done + 65536 * b.detail.toNat
  | 0x054 => b.data.length
  | _ => if 0x080 ≤ off ∧ off < 0x100 then leField b.data (off - 0x080) 4 else 0

def gunStNum : GunSt → Nat
  | .idle => 0 | .armed => 1 | .fired => 2 | .failed => 3

def pacerStNum : PacerSt → Nat
  | .off => 0 | .waiting => 1 | .running => 2 | .stopped => 3

def recStNum : RecSt → Nat
  | .idle => 0 | .recording => 1 | .replaying => 2 | .full => 3 | .diverged => 4 | .ended => 5

/-- Determinism (R572). -/
def readDeterminism (s : State) (off : Nat) : Nat :=
  let p := s.pacer
  match off with
  | 0x044 => gunStNum s.gun.st + 4 * bit01 s.gun.ready + 8 * bit01 s.gun.late + 256 * gunMaster s
  | 0x04C => word32 s.gun.fireFrame.toNat 0
  | 0x050 => word32 s.gun.fireFrame.toNat 1
  | 0x080 => regOf s .determinism 0x080 + bit01 p.enable
  | 0x088 => pacerStNum p.st + 16 * p.cause + 256 * bit01 p.leader
  | 0x08C => word32 p.stopWindow.toNat 0
  | 0x090 => word32 p.stopWindow.toNat 1
  | 0x094 => word32 p.localDigest.toNat 0
  | 0x098 => word32 p.localDigest.toNat 1
  | 0x09C => word32 p.peerDigest.toNat 0
  | 0x0A0 => word32 p.peerDigest.toNat 1
  | 0x0C4 => recStNum s.recorder.st
  | _ => regOf s .determinism off

def portStNum : PortSt → Nat
  | .down => 0 | .an => 1 | .training => 2 | .aligning => 3 | .hello => 4 | .up => 5 | .miswired => 6

/-- Baton port (R427). -/
def readBaton (s : State) (m : Fin 8) (off : Nat) : Nat :=
  let p := getPort s m
  match off with
  | 0x044 =>
    portStNum p.st + 8 * bit01 p.speed400 + 16 * bit01 p.fecLock + 256 * p.peerChip.toNat + 65536 * p.peerPort.toNat +
      2 ^ 20 * p.peerPaused.toNat + 2 ^ 24 * p.localPaused.toNat
  | 0x080 => ((List.finRange 3).map (fun (c : Fin 3) => payBytes (getCls p c).retx)).sum
  | 0x084 => p.lastDown
  | _ =>
    if 0x068 ≤ off ∧ off < 0x074 then
      let c := getCls p ⟨(off - 0x068) / 4 % 3, Nat.mod_lt _ (by decide)⟩
      c.nextSeq.toNat + 65536 * c.oldest.toNat
    else if 0x074 ≤ off ∧ off < 0x080 then
      let c := getCls p ⟨(off - 0x074) / 4 % 3, Nat.mod_lt _ (by decide)⟩
      c.expected.toNat + 65536 * c.ackSent.toNat
    else regOf s (.baton m) off

/-- Link expander (R377). -/
def readExpander (s : State) (m : Fin 8) (off : Nat) : Nat :=
  let p := getPort s m
  match off with
  | 0x040 => bit01 (p.held.any (fun h => h.complete)) + 2 * bit01 (!p.held.isEmpty) + 256 * p.held.length
  | 0x044 => p.expDetail + 65536 * p.expTable
  | _ => 0

def groupStNum : GroupSt → Nat
  | .free => 0 | .forming => 1 | .ready => 2 | .active => 3 | .reforming => 4 | .failed => 5

/-- Relay (R532), for the selected group. -/
def readRelay (s : State) (off : Nat) : Nat :=
  let g := mgetD s.relay {} (regOf s .relay 0x040)
  match off with
  | 0x044 =>
    if g.st = .free then 0
    else groupStNum g.st + 256 * (popCount g.members.toNat 256 - 1) + 65536 * g.root + 2 ^ 24 * g.depth
  | 0x048 => g.epoch.toNat + 65536 * g.attempts
  | 0x04C => g.lastEnded
  | 0x050 => ((g.links.find? (fun l => some l.port = g.parent)).elim 0 (·.slots)) + 256 * g.childPorts.toNat
  | 0x064 => ((List.finRange 8).map (fun (m : Fin 8) => min 15 (chunksInFlight (getPort s m)) * 16 ^ m.val)).sum
  | _ => regOf s .relay off

/-- Stork (R480). -/
def readStork (s : State) (off : Nat) : Nat :=
  match off with
  | 0x048 => (s.ctxs.filter (fun x => x.2.kind = .stork && x.2.result.isNone)).length
  | 0x04C => stallUsed s
  | _ => regOf s .stork off

/-- The 32 bytes of a window table entry (R436). -/
def windowBytes (w : Window) : List Byte :=
  leBytes 8 w.base.toNat ++ leBytes 8 w.length.toNat ++ [w.domain] ++ leBytes 1 w.rights.toNat ++
    leBytes 1 (bit01 w.valid + 2 * bit01 w.paged + 4 * bit01 w.resend + 8 * bit01 w.sealed) ++ [w.keySlot] ++
    leBytes 2 w.generation.toNat ++ leBytes 2 0 ++ leBytes 8 w.pageMap.toNat

/-- Window table control (R482). -/
def readWindows (s : State) (off : Nat) : Nat :=
  match off with
  | 0x064 => (s.stork.windows.filter (fun w => w.2.valid)).length
  | 0x06C => (mgetD s.stork.queues 0 (regOf s .windows 0x068)).toNat
  | _ =>
    if 0x044 ≤ off ∧ off < 0x064 then leField (windowBytes (mgetD s.stork.windows {} (regOf s .windows 0x040))) (off - 0x044) 4
    else regOf s .windows off

/-- Sealing keys (R483): no key material. -/
def readKeys (s : State) (off : Nat) : Nat :=
  match off with
  | 0x064 => maskOf 32 (fun i => (mget s.stork.keys i).isSome)
  | 0x068 => maskOf 32 (fun i => (mget s.stork.keys (32 + i)).isSome)
  | 0x06C => bit01 s.stork.keyJob.isSome
  | _ => 0

/-- HBM controller (R657). -/
def readHbm (s : State) (k : Fin 12) (off : Nat) : Nat :=
  match off with
  | 0x040 =>
    let st := if !s.units.hbms.toNat.testBit k then 0
      else if (getPage s (.hbm k)).fenced then 3
      else if s.units.training.toNat.testBit k then 1 else 2
    st + 256 * (if isDay s then k.val / 3 else 0)
  | 0x058 => wrap 12 (s.mgmt.stackTemps.getD k 0)
  | _ => regOf s (.hbm k) off

/-- Reservation queue entries whose line has its home at a slice. -/
def resvEntries (s : State) (j : Fin 16) : Nat :=
  (s.dir.map (fun d => if cmHome s d.1 = j.val then d.2.resv.length else 0)).sum

/-- Control-memory slice (R659). -/
def readSlice (s : State) (j : Fin 16) (off : Nat) : Nat :=
  match off with
  | 0x040 => if !s.units.slices.toNat.testBit j then 0 else if sliceFenced s j then 2 else 1
  | 0x044 => s.fencedAgents.toNat
  | 0x048 => resvEntries s j
  | 0x04C => (cmSlices s).length
  | _ => regOf s (.slice j) off

/-- Services that run: not paused, and the scrubs not while Pacer runs (R655, R661). (DESIGN CHOICE, entry 107). -/
def bgActive (s : State) : Nat :=
  let on := s.power.phase = .ready
  maskOf 5 (fun i => on && !bgPaused s i && !(i < 2 && s.pacer.st = .running)) + 32 * bit01 on

/-- Percent of the current HBM scrub pass done. -/
def scrubPercent (s : State) : Nat :=
  let l := scrubStacks s
  if l.isEmpty then 0
  else (l.map (fun k => mgetD s.mgmt.scrubPos 0 k)).sum * 100 / (l.length * stackLines)

/-- Background services (R661). -/
def readBackground (s : State) (off : Nat) : Nat :=
  match off with
  | 0x044 => bgActive s
  | 0x04C => scrubPercent s
  | 0x050 => wrap 12 s.mgmt.dieTemp
  | 0x054 => wrap 12 s.mgmt.hbmTemp
  | 0x058 => s.mgmt.vcoreMv
  | 0x05C => cardPower s
  | _ => regOf s .background off

def ringStNum : WakeRing → Nat
  | .off => 0 | .recording => 1 | .postfill => 2 | .frozen => 3

/-- Bittern (R707). -/
def readBittern (s : State) (off : Nat) : Nat :=
  let b := s.bittern
  match off with
  | 0x04C => (mgetD (b.chans[bitsOf (bitReg s 0x048) 1 0 % 4]'(Nat.mod_lt _ (by decide))).coefs
      (if bitsOf (bitReg s 0x048) 11 8 = 0 then 0x4000 else 0) (bitsOf (bitReg s 0x048) 11 8)).toNat
  | 0x064 => (mgetD b.weights 0 (4 * bitsOf (bitReg s 0x060) 0 0 + bitsOf (bitReg s 0x060) 5 4)).toNat
  | 0x08C => bit01 b.wakePending + 256 * b.wakeCode.toNat + regOf s .bittern 0x08C
  | 0x094 => b.ovr.toNat
  | 0x0A0 => ringStNum b.ringState
  | 0x0A4 => (if b.ringCount < ringBlocks then 0 else b.ringWrite % ringBlocks) + 65536 * b.ringCount
  | _ =>
    if 0x0B0 ≤ off ∧ off < 0x0C0 then (b.chans[(off - 0x0B0) / 4 % 4]'(Nat.mod_lt _ (by decide))).level.toNat
    else regOf s .bittern off

/-- Status panel (R738). -/
def readPanel (s : State) (off : Nat) : Nat :=
  let p := s.mgmt.panel
  match off with
  | 0x040 => (if p.held then 3 else if p.drawing.isSome then 2 else 0) + 16 * wrap 12 p.temp
  | 0x044 => committedSeq s
  | 0x04C => recordWord s
  | 0x050 => s.mgmt.returnCode.toNat % 2 ^ 32
  | 0x054 => s.mgmt.returnCode.toNat / 2 ^ 32
  | 0x084 => s.mgmt.throttle + 256 * s.mgmt.reason.toNat
  | 0x088 => regOf s .panel 0x088 + 65536 * s.power.senseCap
  | 0x08C => bit01 s.power.refExt + 2 * bit01 s.power.headerPresent
  | _ => regOf s .panel off

/-! ## Pages of the partitions -/

def coreStNum : CoreSt → Nat
  | .idle => 0 | .running => 1 | .halting => 2 | .trapped => 3 | .fenced => 4

/-- STATE is IDLE or TRAPPED. -/
def coreRests (k : Core) : Bool := shownSt k = .idle || shownSt k = .trapped

/-- The word that the debug registers select (R190). -/
def dbgWord (k : Core) (sel : Nat) : Nat :=
  let r := bitsOf sel 7 2
  let i := bitsOf sel 13 8
  match bitsOf sel 1 0 with
  | 0 => word32 (getS k r).toNat i
  | 1 => word32 (getV k r).toNat i
  | 2 => if r < 8 then word32 (getP k r).toNat i else 0
  | _ => 0

/-- Core (R190). -/
def readCore (s : State) (c : Fin 16) (off : Nat) : Nat :=
  let k := getCore s c
  match off with
  | 0x040 => coreStNum (shownSt k)
  | 0x04C => 8 * fld k.pc 16 3
  | 0x050 => k.trapCause + 256 * k.trapCode + 2 ^ 31 * bit01 k.trapValid
  | 0x054 => word32 k.trapInstr.toNat 0
  | 0x058 => word32 k.trapInstr.toNat 1
  | 0x05C => k.trapAddr
  | 0x070 => if coreRests k then dbgWord k (regOf s (.core c 0) 0x06C) else 0
  | _ => regOf s (.core c 0) off

/-- A group's elements, from the pool. -/
def groupAny (k : Core) (g : Group) (f : AccElem → Bool) : Bool := (groupList k g).any f

/-- GROUP_INFO of the selected group (R246). -/
def groupInfo (s : State) (c : Fin 16) : Nat :=
  let k := getCore s c
  let i := regOf s (.core c 1) 0x048
  match mget k.groups i with
  | none => 0
  | some g =>
    let pend := s.chainAdds.any (fun a => a.dst = c.val && a.group = i) || s.chains.any (fun x => x.src = c.val && x.group = i)
    g.base + 1024 * (g.blocks - 1) + 2 ^ 20 * bit01 g.double + 2 ^ 21 +
      2 ^ 22 * bit01 (groupAny k g (fun a => a.state = 3)) +
      2 ^ 23 * bit01 (groupAny k g (fun a => a.state = 1 || a.state = 2)) +
      2 ^ 24 * bit01 (groupAny k g (fun a => a.poison)) + 2 ^ 25 * bit01 pend

/-- Where the element of a pool entry begins: the even entry of a double-long pair. -/
def elemFirst (k : Core) (e : Nat) : Nat :=
  match k.groups.find? (fun g => 64 * g.2.base ≤ e && e < 64 * (g.2.base + g.2.blocks)) with
  | some g => if g.2.double then e / 2 * 2 else e
  | none => e

/-- MAC and accumulation (R244, R246). -/
def readMac (s : State) (c : Fin 16) (off : Nat) : Nat :=
  let k := getCore s c
  let ctl := regOf s (.core c 1) 0x060
  let open_ := ctl.testBit 0 && coreRests k
  let idx := bitsOf ctl 31 16
  let e := mgetD k.pool {} (elemFirst k idx)
  match off with
  | 0x040 => maskOf 32 (fun i => (mget k.groups i).isSome)
  | 0x044 => 65536 - 64 * (k.groups.map (fun g => g.2.blocks)).sum
  | 0x04C => groupInfo s c
  | 0x050 => bit01 (!k.array.isEmpty)
  | 0x064 =>
    if !open_ then 0
    else if ctl.testBit 1 then (mget k.runs idx).elim 0 (fun r => word32 r.val.toNat (bitsOf ctl 6 2))
    else word32 (mgetD k.pool {} idx).bits.toNat (bitsOf ctl 6 2)
  | 0x068 =>
    if ctl.testBit 1 then (mget k.runs idx).elim 0 (fun r => 65536 * wrap 16 r.base)
    else e.state.toNat + 4 * bit01 e.poison
  | _ => regOf s (.core c 1) off

def slotKindNum : SlotKind → Nat
  | .empty => 0 | .rms => 1 | .exp => 2

/-- Egret (R256, R280); IMG_CRC is the value the specification gives (entry 84). -/
def readEgret (s : State) (c : Fin 16) (off : Nat) : Nat :=
  let k := getCore s c
  let ctl := regOf s (.core c 2) 0x064
  match off with
  | 0x044 => m16 (regOf s (.core c 2) 0x040 % 256)
  | 0x048 => 0x9C3E52A7
  | 0x050 => maskOf 16 (fun i => (mget k.micro i).isSome)
  | 0x054 => 512 - (k.micro.map (fun m => m.2.words.length)).sum
  | 0x058 => ((List.range 16).map (fun i => slotKindNum (mgetD k.slots {} i).kind * 4 ^ i)).sum
  | 0x05C => maskOf 16 (fun i => (mgetD k.slots {} i).poison)
  | 0x060 => bit01 (k.dops.any (fun d => fOp d.w = 0x61))
  | 0x068 => if ctl.testBit 0 && coreRests k then (mgetD k.l32 0 (bitsOf ctl 13 8)).toNat else 0
  | _ => regOf s (.core c 2) off

/-- Sandpiper and fold (R325). -/
def readSandpiper (s : State) (c : Fin 16) (off : Nat) : Nat :=
  let k := getCore s c
  let has := fun (ops : List Nat) => k.dops.any (fun d => ops.contains (fOp d.w))
  match off with
  | 0x040 =>
    bit01 (has [0x68]) + 2 * bit01 (has [0x69, 0x6A, 0x6B, 0x6C]) + 4 * bit01 (has [0x70] || k.fold.isSome)
  | 0x044 => k.ladder.elim 0 (fun l => l.k + 65536 * l.entries.length + 2 ^ 28 * bit01 l.tie + 2 ^ 31)
  | 0x048 => k.ladder.elim 0 (fun l => l.dt.toNat + 16 * bit01 l.mag + 32 * bit01 l.smallest)
  | 0x04C => 1
  | 0x050 => k.conserveFails
  | 0x054 => k.lastFlags
  | _ => 0

/-- Curlew packer (R375); QDEPTH counts the instruction that executes too (DEDUCED, entry 125). -/
def readPacker (s : State) (c : Fin 16) (off : Nat) : Nat :=
  let k := getCore s c
  match off with
  | 0x040 => bit01 (!k.packQ.isEmpty) + 256 * k.packQ.length
  | 0x044 => k.lastStatus + 256 * k.lastDetail
  | 0x048 => k.lastLength % 2 ^ 32
  | _ => 0

/-- DMA (R193): the descriptor at the head of an engine, once started, is the one it executes; the queue counts it too (DEDUCED,
entry 125). -/
def readDma (s : State) (c : Fin 16) (off : Nat) : Nat :=
  let k := getCore s c
  let q := k.dmaQ.toList
  match off with
  | 0x040 => maskOf 4 (fun e => (q.getD e []).any (·.started))
  | 0x044 => ((List.range 4).map (fun e => (q.getD e []).length * 256 ^ e)).sum
  | 0x048 => k.lastErrTag
  | _ => 0

/-- Alignment frames in a millisecond at the nominal 200 MHz (R76); DRAIN_REMAIN counts by them (DESIGN CHOICE, entry 106). -/
def framesPerMs : Nat := 200000

/-- The registers of one ring (R619). -/
def readRing (s : State) (p : Fin 4) (r off : Nat) : Nat :=
  let k := getRing s p r
  match off with
  | 0x10 => ringCfg s p r + bit01 k.enable
  | 0x18 => k.sqHead
  | 0x1C => k.cqTail + 65536 * bit01 k.phase
  | 0x20 => bit01 (ringRunning s p r) + 2 * bit01 k.fault
  | _ => regOf s (.queues p) (ringReg r off)

/-- Host queues (R619). -/
def readQueues (s : State) (p : Fin 4) (off : Nat) : Nat :=
  match off with
  | 0x040 =>
    bit01 s.drain.isSome + 2 * bit01 (s.drain.elim false (fun d => d.acked.toNat.testBit p)) +
      65536 * maskOf 16 (fun r => (getRing s p r).fault)
  | 0x050 => s.drain.elim 0 (fun d => d.remainMs - d.frames / framesPerMs)
  | 0x054 => (ctxRange s p).1 + 65536 * (ctxRange s p).2
  | 0x058 => ctxUsed s p
  | _ =>
    if 0x100 ≤ off ∧ off < 0x500 then readRing s p ((off - 0x100) / 0x40) (off % 0x40)
    else regOf s (.queues p) off

/-! ## A read of any register -/

/-- The block-specific words of a page that answers. -/
def readBlock (s : State) (rq : Requester) (pg : PageId) (off : Nat) : Nat :=
  match pg with
  | .global => readGlobal s rq off
  | .clock => readClock s off
  | .mailbox => readMailbox s off
  | .determinism => readDeterminism s off
  | .core c j =>
    match j.val with
    | 0 => readCore s c off
    | 1 => readMac s c off
    | 2 => readEgret s c off
    | 3 => readSandpiper s c off
    | 4 => readPacker s c off
    | _ => readDma s c off
  | .baton m => readBaton s m off
  | .relay => readRelay s off
  | .expander m => readExpander s m off
  | .stork => readStork s off
  | .windows => readWindows s off
  | .keys => readKeys s off
  | .hbm k => readHbm s k off
  | .slice j => readSlice s j off
  | .queues p => readQueues s p off
  | .bittern => readBittern s off
  | .panel => readPanel s off
  | .background => readBackground s off

/-- A word of a page that answers a requester: header, counters (R114), block. -/
def readPage (s : State) (rq : Requester) (pg : PageId) (off : Nat) : Nat :=
  if off < 0x040 then readHeader s pg off
  else if 0x800 ≤ off then
    let i := (off - 0x800) / 8
    if counterPairs (pageType pg) ≤ i then 0
    else if off % 8 = 0 then (ctrOf s pg i).toNat % 2 ^ 32
    else (mgetD (getPage s pg).shadows 0 (shadowIdx rq)).toNat
  else readBlock s rq pg off

/-- The 32-bit register a requester reads at a BAR0 offset: zero where no page answers (R94 to R98, R612). -/
def readReg (s : State) (rq : Requester) (addr : BitVec 26) : Word :=
  match pageAt addr.toNat with
  | none => 0
  | some pg =>
    match readable s rq pg with
    | none => 0
    | some p => BitVec.ofNat 32 (readPage s rq p (addr.toNat % 0x1000 / 4 * 4))

/-- A read of `n` bytes: each comes from its containing 32-bit register, and a read of 8 bytes is that of two registers, the
lower first (R118).  The 64-bit read of a counter pair, whose first half latches the second, is COUNTER_LOW_READ. -/
def readBytes (s : State) (rq : Requester) (addr : BitVec 26) (n : Nat) : List Byte :=
  (List.range n).map (fun i =>
    let a := addr + BitVec.ofNat 26 i
    BitVec.ofNat 8 ((readReg s rq a).toNat / 256 ^ (a.toNat % 4)))

end Sys2Proof.Machine
end

