-- ==== Sys2Proof/Tests/Slice0.lean ====
section
/-! SUPPORT. The model's own tests: ill-formed commands are refused, worked examples of the specification, and for every
obligation with hypotheses a state and operands that meet them, clause by clause. -/

namespace Sys2Proof.Tests

open Sys2Proof Sys2Proof.Machine

set_option Elab.async false

/-! ## States the tests start from -/

def ready : State := { State.reset with
  power := { main12v := true, railsGood := true, perst := false, rootLocked := true, released := true, mgmtOnSclk := true, phaseValid := true, senseCap := 600, maxPowerLimit := 600, phase := .ready },
  units := { cores := 0xFFFF, hbms := 0xFFF, slices := 0xFFFF, ports := 0xFF, service := 1 },
  pages := Vector.replicate 155 { enable := true, ready := true },
  cores := (Vector.replicate 16 {}).set 0 { st := .running } }
/-- fields of a word: opcode, rd ra rb rc, and the low 28 bits -/
def wd (op rd ra rb rc low : Nat) : DWord := BitVec.ofNat 64 (op * 2^56 + rd * 2^46 + ra*2^40 + rb*2^34 + rc*2^28 + low)
/-- op rd ra fn(39:32) imm -/
def wi (op rd ra fn imm : Nat) : DWord := BitVec.ofNat 64 (op * 2^56 + rd * 2^46 + ra*2^40 + fn*2^32 + imm)
def withCore (k : Core) : State := { ready with cores := ready.cores.set 0 k }
def sr : Vector DWord 32 := Vector.ofFn (fun i => BitVec.ofNat 64 (0x9E3779B97F4A7C15 * (i.val + 1)))
def vr : Vector (BitVec 2048) 64 := Vector.ofFn (fun i => BitVec.ofNat 2048 (0x9E3779B97F4A7C15F39CC0605CEDC8341082276BF3A27251 ^ (i.val + 9)))
def k0 : Core := { st := .running, sregs := sr, vregs := vr, preds := Vector.ofFn (fun i => BitVec.ofNat 64 (0x0123456789ABCDEF * (i.val+3))), pc := 0x40 }
def sd : State := withCore k0

/-! ## Ill-formed commands are refused -/

def bigFrame : Frame := { payload := List.replicate 8193 0 }
theorem test_wf_offset_of_a_byte : (Instr.registerWrite { fn := 0 } 0x41 0).wellFormed = false := by decide +kernel
theorem test_wf_counter_pair : (Instr.counterLowRead .management .clock ⟨256, false⟩).wellFormed = false := by decide +kernel
theorem test_wf_phy_types : (Instr.autonegComplete 0 (List.replicate 5 .cr8_800)).wellFormed = false := by decide +kernel
theorem test_wf_payload : [Instr.hello 0 bigFrame, .data 0 bigFrame, .ack 0 bigFrame, .nak 0 bigFrame, .credit 0 bigFrame,
    .identReq 0 bigFrame, .identResp 0 bigFrame, .writeData .own bigFrame, .flagFrame .own bigFrame, .readReq .own bigFrame,
    .readData .own bigFrame, .response .own bigFrame, .count 0 bigFrame, .up 0 [bigFrame], .down 0 [bigFrame],
    .endFrame 0 bigFrame, .doneFrame 0 bigFrame, .release 0 bigFrame, .abort 0 bigFrame, .topo 0 bigFrame,
    .commit 0 bigFrame, .ready 0 bigFrame 0, .fire 0 bigFrame 0, .gunAbortMessage 0 bigFrame, .delayReq 0 bigFrame 0 0,
    .delayResp 0 bigFrame 0, .pace 0 bigFrame, .digest 0 bigFrame, .foreignFrame 0 bigFrame].all
      (fun (i : Instr) => !i.wellFormed) = true := by decide +kernel
theorem test_wf_pause_times : (Instr.pfc 0 ⟨0xFF, [0, 0, 0]⟩).wellFormed = false := by decide +kernel
theorem test_wf_empty_up : (Instr.up 0 []).wellFormed = false := by decide +kernel
theorem test_wf_empty_down : (Instr.down 0 []).wellFormed = false := by decide +kernel
theorem test_wf_line : [Instr.gets 0 262144, .getm 0 262144, .putm 0 262144 0, .puts 0 262144, .retry 0 262144,
    .recall 262144, .reservationExpiry 262144, .parityError 0 262144].all (fun (i : Instr) => !i.wellFormed) = true := by
  decide +kernel
theorem test_wf_atomic_aligned : (Instr.atomic 0 0x1004 (.add 1)).wellFormed = false := by decide +kernel
theorem test_wf_atomic_range : (Instr.atomic 0 0x1000000 (.add 1)).wellFormed = false := by decide +kernel
theorem test_wf_sensor_list : (Instr.telemetrySample ⟨0, List.replicate 13 0, 0, 0, 0⟩).wellFormed = false := by decide +kernel
theorem test_wf_frame : (Instr.data 0 { payload := List.replicate 8192 0 }).wellFormed = true := by decide +kernel
theorem test_wf_sample : (Instr.sample 0 (List.replicate 191 0) 0).wellFormed = false := by decide +kernel

/-! ## Numbers: the worked examples of 01_numbers.md -/

/-- A tie goes to the even code. -/
theorem test_binary32_to_l16_tie : (encOf 3 0 true (valOf 0 0 0x3F81EBA8)).bits = 0x4006 := by decide +kernel
theorem test_binary32_to_l16 : (encOf 3 0 true (valOf 0 0 0x3F808000)).bits = 0x4001 := by decide +kernel
theorem test_l16_to_binary32 : (encOf 0 0 true (valOf 3 0 0x4006)).bits = 0x3F8218AF := by decide +kernel
/-- The defined product of R29, read out. -/
theorem test_l16_product : mulL16 0x4005 0x40FE = .num 8457025 (-22) := by decide +kernel
theorem test_l16_product_read_out : (readOut 3 0 (mulL16 0x4005 0x40FE)).bits = 0x4103 := by decide +kernel
theorem test_e56_of_l8 : encE56 (-3) (valL8 (-3) 0x75) = (0x0062B395000000, false) := by decide +kernel
theorem test_e56_of_negative_l8 : encE56 (-3) (valL8 (-3) 0xF5) = (0xFF9D4C6B000000, false) := by decide +kernel
theorem test_e56_clamps : encE56 (-3) (valL8 (-3) 0x7B) = (0x007FFFFFFFFFFF, true) := by decide +kernel

/-! ## Pages and errors: 00_scope.md, 02_organization.md, 12_host_partitions.md -/

theorem test_err_code_word :
    (getPage (captureError ready .clock 0x03 0x12 0 0) .clock).errCode = 0x00001203 := by decide +kernel
theorem test_egret_page_address : pageAt 0x0152000 = some (.core 5 2) := by decide +kernel
theorem test_host_queue_page_address : pageAt 0x0250180 = some (.queues 1) := by decide +kernel
theorem test_route_register : (match execRegisterWrite { fn := 0 } 0x0000274 0x803F8007 ready with
    | .next t => regOf t .global 0x274
    | _ => 0) = 0x803F8007 := by decide +kernel

/-! ## One instruction: the two-core program of 03_heron_core.md -/

theorem test_movi : (match execMovi 0 0x0900400000001000 sd with
    | .next t => getS (getCore t 0) 1
    | _ => 0) = 0x1000 := by decide +kernel
def addCore : Core := { st := .running, sregs := ((Vector.replicate 32 0).set 2 1000).set 3 234 }
theorem test_add_int64 : (match execAdd 1 0x0001020C00090000 { ready with cores := ready.cores.set 1 addCore } with
    | .next t => getS (getCore t 1) 4
    | _ => 0) = 1234 := by decide +kernel
theorem test_st_int64 : (match execSt 0 0x4100C10900000008 (withCore { k0 with sregs := (sr.set 1 0x1000).set 3 234 }) with
    | .next t => (getCore t 0).spad.readLE 0x1008 8
    | _ => 0) = 234 := by decide +kernel

/-! ## The row operation of 05_egret_functions.md and the fold of 06_selection_feedback.md -/

def rmsCore : Core :=
  { st := .running, sregs := ((((Vector.replicate 32 0).set 1 0x5000).set 2 0x4000).set 3 4).set 4 0x10000000000,
    spad := ({} : Memory).write 0x4000 (leBytes 8 0xC000400040004080) }
theorem test_rms_norm_l16 : (match execErow 0 0x6100420C40030000 (withCore rmsCore) with
    | .next t => (match execClassDCompletion 0 t with
      | .next u => (getCore u 0).spad.readLE 0x5000 8
      | _ => 0)
    | _ => 0) = 0xBFD73FD73FD74057 := by decide +kernel

def foldCore : Core :=
  { st := .running, sregs := ((Vector.replicate 32 0).set 1 0x38000).set 2 0x0040000000000000,
    spad := ((({} : Memory).write 0x10000 (leBytes 12 0xBE053EFE3E053E00BE403F00)).write 0x20010
      (leBytes 8 0xFFFFFFFFFFFFFF00)).write 0x38000 (leBytes 64 (0x10000 + 0x20000 * 2 ^ 64 + 0x28000 * 2 ^ 128 +
        0x30000 * 2 ^ 192 + 0x31000 * 2 ^ 256 + 0x32000 * 2 ^ 320 + 6 * 2 ^ 384 + 4 * 2 ^ 416 + 0x1000 * 2 ^ 448 +
        0xF8 * 2 ^ 504)) }
/-- The codes selected, the residual of element 4, and the two sides of the check. -/
theorem test_fold : (match execFold 0 0x7000C10800030000 (withCore foldCore) with
    | .next t => ((getCore t 0).spad.readLE 0x31000 4, (getCore t 0).spad.readLE 0x28020 8,
        (getCore t 0).fold.map (fun f => (f.inputSide, f.outputSide)))
    | _ => (0, 0, none)) =
    (0x7870F278, 0xFFFF4F0880000100, some (0x00F333107FFFFF00, 0x00F333107FFFFF00)) := by decide +kernel

/-! ## Accumulation: the spill of 04_accumulation.md -/

def spillMem : Memory :=
  [(0x1000, 0x4000), (0x2000, 0x4000), (0x1100, 0x4100), (0x2100, 0x4080), (0x1200, 0x2000), (0x2200, 0x4000),
    (0x1300, 0xC000), (0x2300, 0x4000)].foldl (fun (m : Memory) (x : Nat × Nat) => m.write x.1 (leBytes 2 x.2)) {}
def spillCore : Core :=
  { st := .running, spad := spillMem, groups := mput [] 0 ⟨0, 1, false⟩,
    sregs := (((Vector.replicate 32 0).set 2 0x1000).set 3 0x2000).set 4 0x30000 }
theorem test_tmma_with_a_spill : (match execTmma 0 0x5000420C40030000 (withCore spillCore) with
    | .next t => (match execTmmaComplete 0 t with
      | .next u => (mgetD (getCore u 0).pool {} 0).bits
      | _ => 0)
    | _ => 0) = 0x2D413CC01 * 2 ^ 128 := by decide +kernel

/-! ## Relay, memory, Bittern and the panel: 10, 13, 14 and 15 -/

theorem test_next_scale : (nextScaleOf 0 [⟨1, 0x00C00000000000, false⟩, ⟨2, 0x005A8279800000, false⟩, ⟨6, 0x00100000000000, false⟩]).1 = 1 := by
  decide +kernel
theorem test_home_slice : cmHome ready 0x1408D = 13 := by decide +kernel
theorem test_slice_offset : cmLocal ready 0x1408D = 0x50200 := by decide +kernel
theorem test_return_code : returnCodeOf 0x01 0x0401 0x0B = 0x0104010BAA := by decide +kernel
theorem test_ring_block : (blockBytes 2 ([120, 96, -40, -200, 310, 1000, 2400, 6000, 32767, 30000, 24500, 18000, 9000, -3000,
      -12345, -20000].zipIdx.map (fun (x : Int × Nat) => (⟨some x.1, decide (8 ≤ x.2), false⟩ : Smp)))) =
    [0x22, 0x00, 0x00, 0xFF, 0x00, 0x00, 0x00, 0x00, 0x00, 0x00, 0x00, 0xFF, 0x01, 0x04, 0x09, 0x17,
      0x7F, 0x75, 0x60, 0x46, 0x23, 0xF4, 0xD0, 0xB2] := by decide +kernel
theorem test_return_code_on_the_panel : codeText 0x0104010BAA = ['0', '4', '2', '0', '-', '2', '2', 'X', 'A'] := by decide +kernel

/-! ## Witnesses of the frames and of the statements about a step -/

theorem test_witness_ErrorAcknowledgeRearms : ∃ (s : State) (a : Access) (pg p : PageId) (data : Word),
    reaches s a pg p = true ∧ data.toNat.testBit 0 = true :=
  ⟨ready, { fn := 0 }, .clock, .clock, 1, by decide +kernel⟩

theorem test_witness_RegisterInstructionsFrame :
    (∃ (s t : State) (c : Fin 16) (w : DWord) (i : Instr), i ∈ [Instr.add c w, .ld c w] ∧ exec i s = .next t) ∧
    (∃ (s t : State) (c : Fin 16) (w : DWord) (i : Instr), i ∈ [Instr.vadd c w, .vlds c w] ∧ exec i s = .next t) ∧
    (∃ (s t : State) (c : Fin 16) (w : DWord) (i : Instr), i ∈ [Instr.cmp c w, .vcmp c w] ∧ exec i s = .next t) ∧
    (∃ (s t : State) (c : Fin 16) (w : DWord) (i : Instr), i ∈ [Instr.br c w, .brk c w] ∧ exec i s = .next t) :=
  ⟨⟨sd, _, 0, wd 0 1 2 3 0 0x70000, .add 0 (wd 0 1 2 3 0 0x70000), by simp, rfl⟩, ⟨sd, _, 0, wd 0x20 1 2 3 0 0, .vadd 0 (wd 0x20 1 2 3 0 0), by simp, rfl⟩,
    ⟨sd, _, 0, wd 6 1 2 3 0 0x70000, .cmp 0 (wd 6 1 2 3 0 0x70000), by simp, rfl⟩, ⟨sd, _, 0, wi 0x10 0 0 0 1, .br 0 (wi 0x10 0 0 0 1), by simp, rfl⟩⟩

theorem test_witness_StoresFrame : ∃ (s t u v : State) (c : Fin 16) (w : DWord), (getCore s c).spad.wf = true ∧
    exec (.st c w) s = .next t ∧ exec (.vst c w) s = .next u ∧ exec (.vsts c w) s = .next v :=
  ⟨withCore foldCore, _, _, _, 0, wd 0x41 1 2 3 0 0, by decide +kernel, rfl, rfl, rfl⟩

theorem test_witness_IdleStepPassesAFrame :
    (∃ s : State, s.pending = [] ∧ s.power.released = false ∧ railsDue s.power = false) ∧
    (∃ s : State, s.pending = [] ∧ s.power.released = false ∧ railsDue s.power = true) ∧
    (∃ s : State, s.pending = [] ∧ s.power.released = true) :=
  ⟨⟨State.reset, by decide +kernel⟩, ⟨modPower State.reset (fun p => { p with main12v := true }), by decide +kernel⟩,
    ⟨ready, by decide +kernel⟩⟩

theorem test_witness_CommandsLeaveTheQueue : ∃ (i : Instr) (s t : State), exec i s = .next t :=
  ⟨.standbyPowerUp, { State.reset with pending := [.railsGood] }, _, rfl⟩

theorem test_witness_PowerStaysLegal : ∃ s t : State, powerLegal s.power = true ∧ step s = .next t :=
  ⟨{ State.reset with pending := [.mainPowerArrival false false] }, _, by decide +kernel, rfl⟩

theorem test_witness_StoresStayCanonical : ∃ s t : State, storesCanonical s = true ∧ step s = .next t :=
  ⟨{ State.reset with pending := [.mainPowerArrival false false] }, _, by decide +kernel, rfl⟩

/-! ## The step, the queue and the words the host may ask for -/

theorem test_step_takes_the_front : (match step { ready with pending := [.headerDetect true, .railsGood] } with
    | .next t => (t.pending.length, t.power.headerPresent)
    | _ => (0, false)) = (1, true) := by decide +kernel
theorem test_no_word_spells_a_command : decodeTableWord 64 0x0900400000001000 = none := by decide +kernel

/-! ## Witnesses of the obligations, grouped by the states they use -/

namespace W1



theorem test_witness_ScalarInstructionsComplete :
    (∃ (s : State) (c : Fin 16) (w : DWord), mayIssue s c w 0x00 false = true ∧ plainA w = true) ∧
    (∃ (s : State) (c : Fin 16) (w : DWord), mayIssue s c w 0x01 false = true ∧ plainA w = true) ∧
    (∃ (s : State) (c : Fin 16) (w : DWord), mayIssue s c w 0x02 false = true ∧ plainA w = true) ∧
    (∃ (s : State) (c : Fin 16) (w : DWord), mayIssue s c w 0x03 false = true ∧ fnA w < 4 ∧ dtOk (dtA w) = true ∧
      zeroA w = true) ∧
    (∃ (s : State) (c : Fin 16) (w : DWord), mayIssue s c w 0x04 false = true ∧ fnA w < 3 ∧ dtOk (dtA w) = true ∧
      zeroA w = true) ∧
    (∃ (s : State) (c : Fin 16) (w : DWord), mayIssue s c w 0x05 false = true ∧ fnI w = 0) ∧
    (∃ (s : State) (c : Fin 16) (w : DWord), mayIssue s c w 0x06 false = true ∧ fnA w < 6 ∧ dtOk (dtA w) = true ∧
      zeroA w = true) ∧
    (∃ (s : State) (c : Fin 16) (w : DWord), mayIssue s c w 0x07 false = true ∧ plainA w = true) ∧
    (∃ (s : State) (c : Fin 16) (w : DWord), mayIssue s c w 0x09 false = true ∧ fnI w = 0) ∧
    (∃ (s : State) (c : Fin 16) (w : DWord), mayIssue s c w 0x09 false = true ∧ fnI w = 1) ∧
    (∃ (s : State) (c : Fin 16) (w : DWord), mayIssue s c w 0x0A false = true ∧ fnI w < 7) ∧
    (∃ (s : State) (c : Fin 16) (w : DWord), mayIssue s c w 0x0B true = true ∧ fnI w = 0) :=
  ⟨⟨sd, 0, wd 0 1 2 3 0 0x70000, by decide +kernel⟩,
    ⟨sd, 0, wd 1 31 2 3 0 0xB0000, by decide +kernel⟩,
    ⟨sd, 0, wd 2 1 2 3 0 0x70000, by decide +kernel⟩,
    ⟨sd, 0, wd 3 1 2 3 0 0x00000, by decide +kernel⟩,
    ⟨sd, 0, wd 4 1 2 3 0 0x000000, by decide +kernel⟩,
    ⟨sd, 0, wi 5 1 2 0 0xFFFFFFFE, by decide +kernel⟩,
    ⟨sd, 0, wd 6 1 2 3 0 0x570000, by decide +kernel⟩,
    ⟨sd, 0, wd 7 1 2 3 1 0x070000, by decide +kernel⟩,
    ⟨sd, 0, wi 9 1 2 0 0xFFFFFFFE, by decide +kernel⟩,
    ⟨sd, 0, wi 9 1 2 1 0xFFFFFFFE, by decide +kernel⟩,
    ⟨sd, 0, wi 10 1 0 6 0, by decide +kernel⟩,
    ⟨sd, 0, wi 11 1 0 0 0, by decide +kernel⟩⟩

theorem test_witness_ControlFlowCompletes :
    (∃ (s : State) (c : Fin 16) (w : DWord), mayIssue s c w 0x10 false = true ∧ fnB w = 0 ∧ zeroB w = true ∧
      predHolds (getCore s c) w = true) ∧
    (∃ (s : State) (c : Fin 16) (w : DWord), mayIssue s c w 0x10 false = true ∧ fnB w = 0 ∧ zeroB w = true ∧
      predHolds (getCore s c) w = false) ∧
    (∃ (s : State) (c : Fin 16) (w : DWord), mayIssue s c w 0x11 false = true ∧ fnB w = 0 ∧ zeroB w = true) ∧
    (∃ (s : State) (c : Fin 16) (w : DWord), mayIssue s c w 0x12 false = true ∧ fnB w = 0 ∧ zeroB w = true) ∧
    (∃ (s : State) (c : Fin 16) (w : DWord), mayIssue s c w 0x13 false = true ∧ fnB w = 0 ∧ zeroB w = true ∧ 1 ≤ immU w ∧
      (getCore s c).loops = [] ∧ (getCore s c).pc.toNat / 8 + immU w < 16384 ∧ getS (getCore s c) (fRd w) ≠ 0) ∧
    (∃ (s : State) (c : Fin 16) (w : DWord) (e : _) (es : _), mayIssue s c w 0x13 false = true ∧ fnB w = 1 ∧
      zeroB w = true ∧ fRd w = 0 ∧ immU w = 0 ∧ (getCore s c).loops = e :: es) ∧
    (∃ (s : State) (c : Fin 16) (w : DWord), mayIssue s c w 0x14 false = true ∧ fnB w = 0 ∧ zeroB w = true ∧
      haltWaits s c = false) ∧
    (∃ (s : State) (c : Fin 16), (getCore s c).st = .halting ∧ haltWaits s c = false) :=
  ⟨⟨sd, 0, wi 0x10 0 0 0 0xFFFFFFFF, by decide +kernel⟩,
    ⟨sd, 0, wi 0x10 0 0 0 0xFFFFFFFF + 0x8000000000000#64 * 2, by decide +kernel⟩,
    ⟨sd, 0, wi 0x11 0 0 0 0x10, by decide +kernel⟩,
    ⟨sd, 0, wi 0x12 3 0 0 0, by decide +kernel⟩,
    ⟨sd, 0, wi 0x13 3 0 0 5, by decide +kernel⟩,
    ⟨withCore { k0 with loops := [⟨2,9,4⟩] }, 0, wi 0x13 0 1 0 0, ⟨2,9,4⟩, [], by decide +kernel⟩,
    ⟨sd, 0, wi 0x14 0 0 0 0, by decide +kernel⟩,
    ⟨withCore { k0 with st := .halting }, 0, by decide +kernel⟩⟩

end W1

namespace W2

def wv (op fn dt : Nat) : DWord := wd op 7 11 13 2 (fn * 2^20 + dt * 2^16)
def wm (op rd ra fn dt off : Nat) : DWord := wi op rd ra (fn*16+dt) off
def ks : Core := { k0 with sregs := (sr.set 2 0x100).set 3 4, spad := ({} : Memory).write 0x100 (leBytes 64 (0x9E3779B97F4A7C15F39CC0605CEDC8341082276BF3A27251)) , vregs := vr.set 5 0 }
def ss : State := withCore ks
def dg : DOp := { w := wm 0x46 1 2 5 0 8, ra := 0x100, va := [0, 5], pred := 0xFFFF }
def dsx : DOp := { w := wm 0x47 1 2 5 0 8, ra := 0x100, va := [0, 5], pred := 0xFFFF }

theorem test_witness_VectorInstructionsComplete :
    (∃ (s : State) (c : Fin 16) (w : DWord), mayIssue s c w 0x20 false = true ∧ vecA w = true) ∧
    (∃ (s : State) (c : Fin 16) (w : DWord), mayIssue s c w 0x21 false = true ∧ vecA w = true) ∧
    (∃ (s : State) (c : Fin 16) (w : DWord), mayIssue s c w 0x22 false = true ∧ vecA w = true) ∧
    (∃ (s : State) (c : Fin 16) (w : DWord), mayIssue s c w 0x23 false = true ∧ fnA w = 0 ∧ dtIeee (dtA w) = true ∧
      zeroA w = true) ∧
    (∃ (s : State) (c : Fin 16) (w : DWord), mayIssue s c w 0x24 false = true ∧ fnA w < 3 ∧ dtVec (dtA w) = true ∧
      zeroA w = true) ∧
    (∃ (s : State) (c : Fin 16) (w : DWord), mayIssue s c w 0x25 false = true ∧ fnA w < 2 ∧ dtVec (dtA w) = true ∧
      zeroA w = true) ∧
    (∃ (s : State) (c : Fin 16) (w : DWord), mayIssue s c w 0x26 false = true ∧ fnA w < 6 ∧ dtVec (dtA w) = true ∧
      zeroA w = true) ∧
    (∃ (s : State) (c : Fin 16) (w : DWord), mayIssue s c w 0x27 false = true ∧ vecA w = true) ∧
    (∃ (s : State) (c : Fin 16) (w : DWord), mayIssue s c w 0x28 false = true ∧ dtVec (dtA w) = true ∧
      dtVec (fnA w) = true ∧ fnA w < 16 ∧ zeroA w = true) ∧
    (∃ (s : State) (c : Fin 16) (w : DWord), mayIssue s c w 0x29 false = true ∧ vecA w = true) ∧
    (∃ (s : State) (c : Fin 16) (w : DWord), mayIssue s c w 0x2A false = true ∧ vecA w = true) ∧
    (∃ (s : State) (c : Fin 16) (w : DWord), mayIssue s c w 0x2B false = true ∧ fnA w < 7 ∧ dtVec (dtA w) = true ∧
      zeroA w = true) ∧
    (∃ (s : State) (c : Fin 16) (w : DWord) (k : Core), k = getCore s c ∧ mayIssue s c w 0x2C false = true ∧ fnA w < 3 ∧
      dtVec (dtA w) = true ∧ zeroA w = true ∧ (dtA w = 0x4 && fnA w = 0 && !scaleFits (scaleOf k (fRc w))) = false) ∧
    (∃ (s : State) (c : Fin 16) (w : DWord), mayIssue s c w 0x2D false = true ∧ fnI w = 0) ∧
    (∃ (s : State) (c : Fin 16) (w : DWord), mayIssue s c w 0x2E false = true ∧ fnA w = 0 ∧ dtVec (dtA w) = true ∧
      zeroA w = true) ∧
    (∃ (s : State) (c : Fin 16) (w : DWord), mayIssue s c w 0x2E false = true ∧ fnA w = 1 ∧ dtVec (dtA w) = true ∧
      zeroA w = true) ∧
    (∃ (s : State) (c : Fin 16) (w : DWord), mayIssue s c w 0x2E false = true ∧ fnA w = 2 ∧ dtVec (dtA w) = true ∧
      zeroA w = true) ∧
    (∃ (s : State) (c : Fin 16) (w : DWord), mayIssue s c w 0x2E false = true ∧ fnA w = 3 ∧ dtVec (dtA w) = true ∧
      zeroA w = true) :=
  ⟨⟨sd, 0, wv 0x20 0 0, by decide +kernel⟩,
    ⟨sd, 0, wv 0x21 0 2, by decide +kernel⟩,
    ⟨sd, 0, wv 0x22 0 6, by decide +kernel⟩,
    ⟨sd, 0, wv 0x23 0 0, by decide +kernel⟩,
    ⟨sd, 0, wv 0x24 2 0, by decide +kernel⟩,
    ⟨sd, 0, wv 0x25 1 3, by decide +kernel⟩,
    ⟨sd, 0, wv 0x26 5 0, by decide +kernel⟩,
    ⟨sd, 0, wv 0x27 0 6, by decide +kernel⟩,
    ⟨sd, 0, wv 0x28 1 0, by decide +kernel⟩,
    ⟨sd, 0, wv 0x29 0 0, by decide +kernel⟩,
    ⟨sd, 0, wv 0x2A 0 0, by decide +kernel⟩,
    ⟨sd, 0, wv 0x2B 6 0, by decide +kernel⟩,
    ⟨sd, 0, wv 0x2C 2 0, _, rfl, by decide +kernel⟩,
    ⟨sd, 0, wi 0x2D 7 0 0 0xFFFFFFF0, by decide +kernel⟩,
    ⟨sd, 0, wd 0x2E 3 4 5 0 0, by decide +kernel⟩,
    ⟨sd, 0, wd 0x2E 3 4 5 0 0x100000, by decide +kernel⟩,
    ⟨sd, 0, wd 0x2E 3 4 5 0 0x200000, by decide +kernel⟩,
    ⟨sd, 0, wd 0x2E 3 4 5 0 0x300000, by decide +kernel⟩⟩

theorem test_witness_ScratchpadAccessesComplete :
    (∃ (s : State) (c : Fin 16) (w : DWord) (k : Core) (b : Nat), k = getCore s c ∧ b = dtBytes (dtM w) ∧
      mayIssue s c w 0x40 false = true ∧ fnM w = 0 ∧ dtOk (dtM w) = true ∧ spadReadCheck s c b (addrM k w) b = none) ∧
    (∃ (s : State) (c : Fin 16) (w : DWord) (k : Core) (b : Nat), k = getCore s c ∧ b = dtBytes (dtM w) ∧
      mayIssue s c w 0x41 false = true ∧ fnM w = 0 ∧ dtOk (dtM w) = true ∧ spadCheck s c b (addrM k w) b = none) ∧
    (∃ (s : State) (c : Fin 16) (w : DWord) (k : Core) (b : Nat) (js : List Nat), k = getCore s c ∧ b = dtBytes (dtM w) ∧
      js = active (8 * b) (laneMask k w) ∧ mayIssue s c w 0x42 false = true ∧ fnMok w = true ∧ dtVec (dtM w) = true ∧
      firstTrap s c true b (js.map (unitAddr k w)) = none) ∧
    (∃ (s : State) (c : Fin 16) (w : DWord) (k : Core) (b : Nat) (js : List Nat), k = getCore s c ∧ b = dtBytes (dtM w) ∧
      js = active (8 * b) (laneMask k w) ∧ mayIssue s c w 0x43 false = true ∧ fnMok w = true ∧ dtVec (dtM w) = true ∧
      firstTrap s c false b (js.map (unitAddr k w)) = none) ∧
    (∃ (s : State) (c : Fin 16) (w : DWord) (k : Core) (b : Nat) (js : List Nat), k = getCore s c ∧ b = dtBytes (dtM w) ∧
      js = active (8 * b) (laneMask k w) ∧ mayIssue s c w 0x44 false = true ∧ dtVec (dtM w) = true ∧
      firstTrap s c true b (js.map (strideAddr k w)) = none) ∧
    (∃ (s : State) (c : Fin 16) (w : DWord) (k : Core) (b : Nat) (js : List Nat), k = getCore s c ∧ b = dtBytes (dtM w) ∧
      js = active (8 * b) (laneMask k w) ∧ mayIssue s c w 0x45 false = true ∧ dtVec (dtM w) = true ∧
      firstTrap s c false b (js.map (strideAddr k w)) = none) ∧
    (∃ (s : State) (c : Fin 16) (w : DWord) (k : Core) (b : Nat) (js : List Nat), k = getCore s c ∧ b = dtBytes (dtM w) ∧
      js = active (8 * b) (laneMask k w) ∧ mayIssue s c w 0x46 false = true ∧ dtVec (dtM w) = true ∧
      firstTrap s c true b (js.map (indexAddr (addrM k w) b (getV k (fnM w)))) = none) ∧
    (∃ (s : State) (c : Fin 16) (w : DWord) (k : Core) (b : Nat) (js : List Nat), k = getCore s c ∧ b = dtBytes (dtM w) ∧
      js = active (8 * b) (laneMask k w) ∧ mayIssue s c w 0x47 false = true ∧ dtVec (dtM w) = true ∧
      firstTrap s c false b (js.map (indexAddr (addrM k w) b (getV k (fnM w)))) = none) :=
  ⟨⟨ss, 0, wm 0x40 1 2 0 0 8, _, _, rfl, rfl, by decide +kernel⟩,
    ⟨ss, 0, wm 0x41 1 2 0 7 8, _, _, rfl, rfl, by decide +kernel⟩,
    ⟨ss, 0, wm 0x42 1 2 0 0 8, _, _, _, rfl, rfl, rfl, by decide +kernel⟩,
    ⟨ss, 0, wm 0x43 1 2 0 0 8, _, _, _, rfl, rfl, rfl, by decide +kernel⟩,
    ⟨ss, 0, wm 0x44 1 2 3 0 8, _, _, _, rfl, rfl, rfl, by decide +kernel⟩,
    ⟨ss, 0, wm 0x45 1 2 3 0 8, _, _, _, rfl, rfl, rfl, by decide +kernel⟩,
    ⟨ss, 0, wm 0x46 1 2 5 0 8, _, _, _, rfl, rfl, rfl, by decide +kernel⟩,
    ⟨ss, 0, wm 0x47 1 2 5 0 8, _, _, _, rfl, rfl, rfl, by decide +kernel⟩⟩

theorem test_witness_IndexedAccessCompletes :
    (∃ (s : State) (c : Fin 16) (d : DOp) (rest : List DOp), (getCore s c).dops = d :: rest ∧ fOp d.w = 0x46) ∧
    (∃ (s : State) (c : Fin 16) (d : DOp) (rest : List DOp), (getCore s c).dops = d :: rest ∧ fOp d.w = 0x47) :=
  ⟨⟨withCore { ks with dops := [dg, dsx] }, 0, dg, [dsx], by decide +kernel⟩,
    ⟨withCore { ks with dops := [dsx] }, 0, dsx, [], by decide +kernel⟩⟩

end W2

namespace W3

def wm (op rd ra fn dt off : Nat) : DWord := wi op rd ra (fn*16+dt) off
def wx (op rd ra co ch fn imm : Nat) : DWord := wi op rd ra (co*16+ch) (fn * 2^24 + imm)
def desc : Nat := (0x100 + 1 * 2^62) + (0x40000 + 1 * 2^62) * 2^64 + 64 * 2^128 + 1 * 2^160
def ks : Core := { k0 with sregs := (sr.set 2 0x100).set 3 4, spad := ({} : Memory).write 0x100 (leBytes 32 desc) }
def ss : State := withCore ks
def kd : Core := { ks with dmaQ := (Vector.replicate 4 []).set 1 [⟨BitVec.ofNat 256 desc, 0, true⟩], dmaTags := mput [] 16 .pending }
def sdm : State := { withCore kd with hbm := ({} : Memory).write 0x100 (leBytes 64 (0x9E3779B97F4A7C15F39CC0605CEDC8341082276BF3A27251)) }
def grp : Group := ⟨2, 1, false⟩
def kt : Core := { k0 with groups := mput [] 0 grp, sregs := (((sr.set 1 0).set 2 0x1000).set 3 0x4000).set 4 0x00010101 }
def tw (op fn dt : Nat) : DWord := wd op 1 2 3 4 (fn * 2^20 + dt * 2^16)
def kt' : Core := { kt with sregs := (kt.sregs.set 4 0x0101).set 3 0x100 }
def kg : Core := { kt with sregs := kt.sregs.set 2 0x1000 }
def two : State := { withCore kg with cores := ((withCore kg).cores.set 1 kg) }
def ch : Chain := ⟨0, 1, 3, 0, false, (List.range 64).map (fun i => mgetD kg.pool {} (128 + i))⟩

theorem test_witness_DmaCompletes :
    (∃ (s : State) (c : Fin 16) (w : DWord) (e : Fin 4) (d : _) (i : _),
      d = BitVec.ofNat 256 (leNat (spadRead s c (getS (getCore s c) (fRa w)).toNat 32)) ∧
      mayIssue s c w 0x48 false = true ∧ fnX w = e.val ∧
      spadReadCheck s c 32 (getS (getCore s c) (fRa w)).toNat 32 = none ∧ (dmaShapeOk d && !dmaSpadOk s c d) = false ∧
      dmaFreeSlot (getCore s c) e.val = some i) ∧
    (∃ (s : State) (c : Fin 16) (e : Fin 4) (j : _) (rest : _) (p : _) (n : _) (src : _) (dst : _), p = partOfCore s c ∧
      n = dmaRowBytes j.desc ∧ src = dmaAddr j.desc 0 ∧ dst = dmaAddr j.desc 1 ∧ (getCore s c).dmaQ[e] = j :: rest ∧
      j.started = true ∧ dmaShapeOk j.desc = true ∧ dmaRows j.desc = 1 ∧
      devCheck s (some c) p (dmaSpace j.desc 0) src n false = stOk ∧
      devCheck s (some c) p (dmaSpace j.desc 1) dst n true = stOk ∧
      anyMark (devRead s (some c) p (dmaSpace j.desc 0) src n).1 = false) :=
  ⟨⟨ss, 0, wx 0x48 1 2 0 0 1 0, 1, _, 0, rfl, by decide +kernel⟩,
    ⟨sdm, 0, 1, ⟨BitVec.ofNat 256 desc, 0, true⟩, [], _, _, _, _, rfl, rfl, rfl, rfl, by decide +kernel⟩⟩

theorem test_witness_TileInstructionsComplete :
    (∃ (s : State) (c : Fin 16) (w : DWord) (k : Core) (rd : DWord) (ra : DWord) (rb : DWord) (rc : DWord) (g : Group),
      k = getCore s c ∧ rd = getS k (fRd w) ∧ ra = getS k (fRa w) ∧ rb = getS k (fRb w) ∧ rc = getS k (fRc w) ∧
      mget k.groups (fld rd 4 0) = some g ∧ rdOk rd = true ∧ fld rd 31 16 + shapeM rc * shapeN rc ≤ groupElems g ∧
      mayIssue s c w 0x50 false = true ∧ (dtA w = 3 ∨ dtA w = 4 ∨ (dtA w = 1 ∧ g.double = true)) ∧ fnA w < 2 ∧
      zeroA w = true ∧ rcOk rc (dtA w = 4) = true ∧ (dtA w = 4 → g.double = false → -112 ≤ sgn 8 (fld rc 63 56) ∧
      sgn 8 (fld rc 63 56) ≤ 119) ∧
      spadCheck s c (tmmaStrideA (dtA w)) ra.toNat ((shapeK rc - 1) * tmmaStrideA (dtA w) + shapeM rc * tmmaWidthA (dtA
      w)) = none ∧ spadCheck s c 256 rb.toNat ((shapeK rc - 1) * 256 + 2 * shapeN rc) = none) ∧
    (∃ (s : State) (c : Fin 16) (w : DWord) (k : Core) (rd : DWord) (ra : DWord) (rb : DWord) (rc : DWord) (g : Group),
      k = getCore s c ∧ rd = getS k (fRd w) ∧ ra = getS k (fRa w) ∧ rb = getS k (fRb w) ∧ rc = getS k (fRc w) ∧
      mget k.groups (fld rd 4 0) = some g ∧ rdOk rd = true ∧ fld rd 31 16 + shapeM rc * shapeN rc ≤ groupElems g ∧
      mayIssue s c w 0x51 false = true ∧ dtReal (dtA w) = true ∧ fnA w < 2 ∧ zeroA w = true ∧
      rcOk rc (dtA w = 4) = true ∧ (dtA w = 4 → g.double = false → -112 ≤ sgn 8 (fld rc 63 56) ∧
      sgn 8 (fld rc 63 56) ≤ 119) ∧ rb.toNat % dtBytes (dtA w) = 0 ∧ shapeN rc * dtBytes (dtA w) ≤ rb.toNat ∧
      (∀ i < shapeM rc, spadCheck s c (dtBytes (dtA w)) (ra.toNat + i * rb.toNat) (shapeN rc * dtBytes (dtA w)) =
      none)) ∧
    (∃ (s : State) (c : Fin 16) (w : DWord) (k : Core) (rd : DWord) (ra : DWord) (rb : DWord) (rc : DWord) (g : Group),
      k = getCore s c ∧ rd = getS k (fRd w) ∧ ra = getS k (fRa w) ∧ rb = getS k (fRb w) ∧ rc = getS k (fRc w) ∧
      mget k.groups (fld rd 4 0) = some g ∧ rdOk rd = true ∧ fld rd 31 16 + shapeM rc * shapeN rc ≤ groupElems g ∧
      mayIssue s c w 0x52 false = true ∧ dtReal (dtA w) = true ∧ fnA w = 0 ∧ zeroA w = true ∧
      rcOk rc (dtA w = 4) = true ∧ rb.toNat % dtBytes (dtA w) = 0 ∧ shapeN rc * dtBytes (dtA w) ≤ rb.toNat ∧
      (∀ i < shapeM rc, spadCheck s c (dtBytes (dtA w)) (ra.toNat + i * rb.toNat) (shapeN rc * dtBytes (dtA w)) = none) ∧
      (∀ i < shapeM rc * shapeN rc, (getElem k g (fld rd 31 16 + i)).poison = false)) ∧
    (∃ (s : State) (c : Fin 16) (w : DWord) (k : Core) (rd : DWord) (rc : DWord) (g : Group), k = getCore s c ∧
      rd = getS k (fRd w) ∧ rc = getS k (fRc w) ∧ mget k.groups (fld rd 4 0) = some g ∧ rdOk rd = true ∧
      fld rd 31 16 + shapeM rc * shapeN rc ≤ groupElems g ∧ mayIssue s c w 0x53 false = true ∧ fnA w = 0 ∧ dtA w = 0 ∧
      zeroA w = true ∧ rcOk rc false = true) ∧
    (∃ (s : State) (c : Fin 16) (w : DWord) (k : Core) (rd : DWord) (rc : DWord) (g : Group) (q : _), k = getCore s c ∧
      rd = getS k (fRd w) ∧ rc = getS k (fRc w) ∧ mget k.groups (fld rd 4 0) = some g ∧ rdOk rd = true ∧
      fld rd 31 16 + shapeM rc * shapeN rc ≤ groupElems g ∧ k.array = [q]) ∧
    (∃ (s : State) (c : Fin 16) (w : DWord) (k : Core) (rd : DWord) (rc : DWord) (g : Group) (q : _) (rest : _),
      k = getCore s c ∧ rd = getS k (fRd w) ∧ rc = getS k (fRc w) ∧ mget k.groups (fld rd 4 0) = some g ∧
      rdOk rd = true ∧ fld rd 31 16 + shapeM rc * shapeN rc ≤ groupElems g ∧ k.array = q :: rest ∧ rest ≠ []) :=
  ⟨⟨withCore kt, 0, tw 0x50 1 3, _, _, _, _, _, grp, rfl, rfl, rfl, rfl, rfl, by decide +kernel⟩,
    ⟨withCore kt', 0, tw 0x51 0 3, _, _, _, _, _, grp, rfl, rfl, rfl, rfl, rfl, by decide +kernel⟩,
    ⟨withCore kt', 0, tw 0x52 0 3, _, _, _, _, _, grp, rfl, rfl, rfl, rfl, rfl, by decide +kernel⟩,
    ⟨withCore kt', 0, tw 0x53 0 0, _, _, _, grp, rfl, rfl, rfl, by decide +kernel⟩,
    ⟨withCore { kt with array := [⟨0, 2⟩] }, 0, tw 0x53 0 0, _, _, _, grp, ⟨0, 2⟩, rfl, rfl, rfl, by decide +kernel⟩,
    ⟨withCore { kt with array := [⟨0, 2⟩, ⟨0, 2⟩] }, 0, tw 0x53 0 0, _, _, _, grp, ⟨0, 2⟩, [⟨0, 2⟩], rfl, rfl, rfl,
      by decide +kernel⟩⟩

theorem test_witness_GroupInstructionsComplete :
    (∃ (s : State) (c : Fin 16) (w : DWord) (g : _), g = ⟨bitsOf (immU w) 15 6, bitsOf (immU w) 25 16 + 1,
      (fnI w).testBit 5⟩ ∧ mayIssue s c w 0x58 false = true ∧ fnI w < 64 ∧ bitsOf (immU w) 5 0 = 0 ∧
      bitsOf (immU w) 31 26 = 0 ∧ mget (getCore s c).groups (fnI w % 32) = none ∧ g.base + g.blocks ≤ 1024 ∧
      (∀ x ∈ (getCore s c).groups, blocksMeet x.2 g = false)) ∧
    (∃ (s : State) (c : Fin 16) (w : DWord), mayIssue s c w 0x59 false = true ∧ fnI w < 32 ∧ immU w = 0 ∧
      (mget (getCore s c).groups (fnI w)).isSome = true) ∧
    (∃ (s : State) (c : Fin 16) (w : DWord) (g : _), mayIssue s c w 0x5A false = true ∧ dtM w = 0 ∧ fnM w < 2 ∧
      mget (getCore s c).groups (fRd w % 32) = some g ∧
      spadCheck s c 32 (addrM (getCore s c) w) (recLen g + mapLen g) = none) ∧
    (∃ (s : State) (c : Fin 16) (w : DWord) (g : _), mayIssue s c w 0x5B false = true ∧ dtM w = 0 ∧ fnM w < 2 ∧
      mget (getCore s c).groups (fRd w % 32) = some g ∧
      spadCheck s c 32 (addrM (getCore s c) w) (recLen g + mapLen g) = none) ∧
    (∃ (s : State) (c : Fin 16) (w : DWord) (d : _) (g : _), mayIssue s c w 0x5C false = true ∧ fnX w = 0 ∧
      imm24 w < 32 ∧ peerCore s c (coreX w) = some d ∧ mget (getCore s c).groups (imm24 w) = some g ∧
      isFenced s d = false) ∧
    (∃ (s : State) (c : Fin 16) (w : DWord) (d : _) (g : _), mayIssue s c w 0x5C false = true ∧ fnX w = 1 ∧
      imm24 w < 32 ∧ peerCore s c (coreX w) = some d ∧ mget (getCore s c).groups (imm24 w) = some g ∧
      isFenced s d = false) ∧
    (∃ (s : State) (c : Fin 16) (dst : Fin 16) (chan : Fin 16) (x : Chain) (xs : List Chain) (y : ChainAdd) (ys : List
      ChainAdd), s.chains = x :: xs ∧ s.chainAdds = y :: ys ∧ x.src = c.val ∧ x.dst = dst.val ∧ x.chan = chan.val ∧
      y.src = c.val ∧ y.dst = dst.val ∧ y.chan = chan.val) :=
  ⟨⟨sd, 0, wi 0x58 0 0 3 (5*2^6+1*2^16), _, rfl, by decide +kernel⟩,
    ⟨withCore kt, 0, wi 0x59 0 0 0 0, by decide +kernel⟩,
    ⟨withCore kg, 0, wm 0x5A 0 2 0 0 0, grp, by decide +kernel⟩,
    ⟨withCore kg, 0, wm 0x5B 0 2 1 0 0, grp, by decide +kernel⟩,
    ⟨two, 0, wx 0x5C 5 0 1 3 0 0, 1, grp, by decide +kernel⟩,
    ⟨two, 0, wx 0x5C 5 0 1 3 1 0, 1, grp, by decide +kernel⟩,
    ⟨{ two with chains := [ch], chainAdds := [⟨0,1,3,0⟩] }, 0, 1, 3, ch, [], ⟨0,1,3,0⟩, [], by decide +kernel⟩⟩

theorem test_witness_EgretInstructionsComplete :
    (∃ (s : State) (c : Fin 16) (w : DWord), mayIssue s c w 0x60 false = true ∧ fnA w ≤ 0x0C ∧ dtReal (dtA w) = true ∧
      zeroA w = true) ∧
    (∃ (s : State) (c : Fin 16) (w : DWord) (k : Core), k = getCore s c ∧ mayIssue s c w 0x62 false = true ∧ fnM w = 0 ∧
      dtM w = 0 ∧ spadReadCheck s c 32 (addrM k w) 32 = none ∧
      spadReadCheck s c 32 (addrM k w) (imageLen k (addrM k w)) = none) :=
  ⟨⟨withCore kt, 0, tw 0x60 1 3, by decide +kernel⟩,
    ⟨withCore kt, 0, wm 0x62 0 2 0 0 0, _, rfl, by decide +kernel⟩⟩

end W3

namespace W4

def wx (op rd ra co ch fn imm : Nat) : DWord := wi op rd ra (co*16+ch) (fn * 2^24 + imm)
def tw (op fn dt : Nat) : DWord := wd op 1 2 3 4 (fn * 2^20 + dt * 2^16)
def ke : Core := { k0 with sregs := (((sr.set 1 0x8000).set 2 0x1000).set 3 4).set 4 (16 * 2^32) }
def sdesc (src ri ro ix vo su len cap base s g : Nat) : Nat := src + ri*2^64 + ro*2^128 + ix*2^192 + vo*2^256 + su*2^320 + len*2^384+cap*2^416+base*2^448+s*2^496+g*2^504
def dthr : Nat := sdesc 0x2000 0 0 0x3000 0x4000 0x5000 8 4 7 0 0
def mem0 (d : Nat) : Memory := (({} : Memory).write 0x1000 (leBytes 64 d)).write 0x2000 (leBytes 64 (0x3C003C013C023C033C043C053C063C07AABBCCDDEEFF00112233))
def kthr : Core := { ke with sregs := (ke.sregs.set 3 0x100), spad := mem0 dthr }
def dfold : Nat := sdesc 0x2000 0x6000 0x7000 0x3000 0x4000 0x5000 8 4 7 0 0
def kf : Core := { kthr with spad := mem0 dfold }
def pend : FoldPend := ⟨0, 0, 0x5000, 1, [], 0, 0, false, 5, 5, 8, 4, 0, 0, 0, 0⟩
def ms : State := withCore ke
def ms1 : State := { ms with mesh := [⟨0, 1, 5, leBytes 64 9, [false, false]⟩] }
def ms2 : State := { ms with cores := ms.cores.set 0 { ke with msgs := [⟨1,0,5,leBytes 64 77,[true,false]⟩] } }
def ctx1 : Ctx := { owner := .core 0, kind := .relay, part := 0, result := some { code := 5 } }
def cms : State := { withCore { ke with sregs := ke.sregs.set 2 0x100000 } with }

theorem test_witness_EgretInstructionsComplete_2 :
    (∃ (s : State) (c : Fin 16) (w : DWord) (k : Core) (q : _), k = getCore s c ∧
      q = rowOf w (getS k (fRd w)) (getS k (fRa w)) (getS k (fRb w)) (getS k (fRc w)) ∧
      mayIssue s c w 0x61 false = true ∧ dtReal (dtA w) = true ∧ zeroA w = true ∧ q.op ≠ 3 ∧ q.phase = 1 ∧
      rowShapeOk q (getS k (fRc w)) = true ∧ slotOk k q = true ∧ spadCheck s c 1 q.inp (q.len * dtBytes q.dt) = none) ∧
    (∃ (s : State) (rq : Requester) (n : Fin 16) (n' : Fin 16), readable s rq (.core n 2) = some (.core n' 2)) :=
  ⟨⟨withCore ke, 0, tw 0x61 (4) 3, _, _, rfl, rfl, by decide +kernel⟩,
    ⟨ready, .function 0, 2, 2, by decide +kernel⟩⟩

theorem test_witness_SandpiperInstructionsComplete :
    (∃ (s : State) (c : Fin 16) (w : DWord) (k : Core) (q : SelDesc), k = getCore s c ∧
      q = selDesc (BitVec.ofNat 512 (leNat (spadRead s c (getS k (fRa w)).toNat 64))) ∧
      mayIssue s c w 0x68 false = true ∧ dtReal (dtA w) = true ∧ fnA w = 0 ∧ zeroA w = true ∧
      spadCheck s c 64 (getS k (fRa w)).toNat 64 = none ∧ selCommonOk q = true ∧ fRc w = 0 ∧ q.resIn = 0 ∧ q.resOut = 0 ∧
      q.gRaw = 0 ∧ (dtA w = 4 ∨ q.sRaw = 0) ∧ isNar (dtA w) (getS k (fRb w)).toNat = false ∧
      (∀ x ∈ thrIn (dtA w) q ++ thrOut (dtA w) q, x.a % x.al = 0 ∧ spadOk s c x.a x.n = true) ∧
      overlaps (thrIn (dtA w) q) (thrOut (dtA w) q) (fun _ _ => false) = false) ∧
    (∃ (s : State) (c : Fin 16) (w : DWord), mayIssue s c w 0x69 false = true ∧ sortDt (dtA w) = true ∧ fnA w < 4 ∧
      zeroA w = true) ∧
    (∃ (s : State) (c : Fin 16) (w : DWord), mayIssue s c w 0x6A false = true ∧ sortDt (dtA w) = true ∧ fnA w < 128 ∧
      zeroA w = true ∧ mergeRegsOk w = true) ∧
    (∃ (s : State) (c : Fin 16) (w : DWord) (k : Core), k = getCore s c ∧ mayIssue s c w 0x6B false = true ∧
      sortDt (dtA w) = true ∧ fnA w < 8 ∧ zeroA w = true ∧ (fnA w).testBit 0 = true ∧ 1 ≤ fld (getS k (fRd w)) 8 0 ∧
      fld (getS k (fRd w)) 8 0 ≤ 256) ∧
    (∃ (s : State) (c : Fin 16) (w : DWord) (k : Core) (l : _), k = getCore s c ∧ mayIssue s c w 0x6C false = true ∧
      fnA w = 0 ∧ dtA w = 0 ∧ zeroA w = true ∧ k.ladder = some l ∧
      spadCheck s c 32 (getS k (fRa w)).toNat (16 * l.entries.length) = none) ∧
    (∃ (s : State) (c : Fin 16) (w : DWord) (k : Core) (q : SelDesc), k = getCore s c ∧
      q = selDesc (BitVec.ofNat 512 (leNat (spadRead s c (getS k (fRa w)).toNat 64))) ∧
      mayIssue s c w 0x70 false = true ∧ (dtA w = 3 ∨ dtA w = 1) ∧ fnA w = 0 ∧ zeroA w = true ∧
      spadCheck s c 64 (getS k (fRa w)).toNat 64 = none ∧ selCommonOk q = true ∧ fRc w = 0 ∧ q.g ≤ q.s ∧
      (∀ x ∈ foldIn (dtA w) q ++ foldOut q, x.a % x.al = 0 ∧ spadOk s c x.a x.n = true) ∧
      overlaps (foldIn (dtA w) q) (foldOut q) (fun o i => o = ⟨q.resOut, 8 * q.len, 8⟩ && i = ⟨q.resIn, 8 * q.len,
      8⟩ && q.resIn = q.resOut) = false) ∧
    (∃ (s : State) (c : Fin 16) (k : Core) (f : _), k = getCore s c ∧ k.fold = some f ∧ f.inputSide = f.outputSide) :=
  ⟨⟨withCore kthr, 0, wd 0x68 1 2 3 0 (3*2^16), _, _, rfl, rfl, by decide +kernel⟩,
    ⟨withCore kthr, 0, tw 0x69 1 3, by decide +kernel⟩,
    ⟨withCore kthr, 0, wd 0x6A 1 21 13 25 (3*2^20+3*2^16), by decide +kernel⟩,
    ⟨withCore { kthr with sregs := kthr.sregs.set 1 4 }, 0, tw 0x6B 1 3, _, rfl, by decide +kernel⟩,
    ⟨withCore { kthr with ladder := some ⟨4,3,false,false,false,[⟨5,6⟩]⟩ }, 0, tw 0x6C 0 0, _,
      ⟨4,3,false,false,false,[⟨5,6⟩]⟩, rfl, by decide +kernel⟩,
    ⟨withCore kf, 0, wd 0x70 1 2 3 0 (3*2^16), _, _, rfl, rfl, by decide +kernel⟩,
    ⟨withCore { kthr with fold := some pend }, 0, _, pend, rfl, by decide +kernel⟩⟩

theorem test_witness_PackerCompletes :
    (∃ (s : State) (c : Fin 16) (w : DWord) (tag : Nat), spadCheck s c 64 (addrX (getCore s c) w) 64 = none ∧
      freeTag s (partOfCore s c) = some tag ∧ (getCore s c).packQ.length < 4 ∧ coreX w = 0 ∧ chanX w = 0 ∧
      mayIssue s c w 0x74 false = true ∧ fnX w = 0) ∧
    (∃ (s : State) (c : Fin 16) (w : DWord) (tag : Nat), spadCheck s c 64 (addrX (getCore s c) w) 64 = none ∧
      freeTag s (partOfCore s c) = some tag ∧ (getCore s c).packQ.length < 4 ∧ coreX w = 0 ∧ chanX w = 0 ∧
      mayIssue s c w 0x74 false = true ∧ fnX w = 1) ∧
    (∃ (s : State) (c : Fin 16) (w : DWord) (tag : Nat), spadCheck s c 64 (addrX (getCore s c) w) 64 = none ∧
      freeTag s (partOfCore s c) = some tag ∧ (getCore s c).packQ.length < 4 ∧ coreX w = 0 ∧ chanX w = 0 ∧
      mayIssue s c w 0x75 false = true ∧ fnX w = 0) ∧
    (∃ (s : State) (c : Fin 16) (w : DWord) (tag : Nat) (x : PackOp) (rest : _),
      spadCheck s c 64 (addrX (getCore s c) w) 64 = none ∧ freeTag s (partOfCore s c) = some tag ∧
      (getCore s c).packQ.length < 4 ∧ coreX w = 0 ∧ chanX w = 0 ∧ (getCore s c).packQ = x :: rest) :=
  ⟨⟨withCore ke, 0, wx 0x74 1 2 0 0 0 0, 0, by decide +kernel⟩,
    ⟨withCore ke, 0, wx 0x74 1 2 0 0 1 0, 0, by decide +kernel⟩,
    ⟨withCore ke, 0, wx 0x75 1 2 0 0 0 0, 0, by decide +kernel⟩,
    ⟨withCore { ke with packQ := [⟨0, 0x1000, 0⟩] }, 0, wx 0x74 1 2 0 0 0 0, 0, ⟨0, 0x1000, 0⟩, [], by decide +kernel⟩⟩

theorem test_witness_MessagesComplete :
    (∃ (s : State) (c : Fin 16) (d : Fin 16) (w : DWord) (a : Nat), a = addrX (getCore s c) w ∧
      mayIssue s c w 0x78 false = true ∧ fnX w = 0 ∧ peerCore s c (coreX w) = some d ∧ spadCheck s c 64 a 64 = none ∧
      isFenced s d = false ∧ creditsUsed s c d (chanX w) < 4) ∧
    (∃ (s : State) (c : Fin 16) (d : Fin 16) (chan : Fin 16) (m : _) (ms : _), s.mesh = m :: ms ∧ m.src = c.val ∧
      m.dst = d.val ∧ m.chan = chan.val) ∧
    (∃ (s : State) (c : Fin 16) (d : Fin 16) (w : DWord) (a : Nat) (m : _) (ms : _), a = addrX (getCore s c) w ∧
      mayIssue s c w 0x79 false = true ∧ fnX w = 0 ∧ peerCore s c (coreX w) = some d ∧ spadCheck s c 64 a 64 = none ∧
      (getCore s c).msgs = m :: ms ∧ m.src = d.val ∧ m.chan = chanX w) ∧
    (∃ (s : State) (c : Fin 16) (w : DWord) (a : Nat) (m : _) (ms : _), a = addrX (getCore s c) w ∧
      mayIssue s c w 0x7A true = true ∧ fnX w = 0 ∧ spadCheck s c 64 a 64 = none ∧ (getCore s c).msgs = m :: ms ∧
      m.chan = chanX w) ∧
    (∃ (s : State) (c : Fin 16) (d : Fin 16) (w : DWord), mayIssue s c w 0x7B true = true ∧ fnX w = 0 ∧
      peerCore s c (coreX w) = some d) :=
  ⟨⟨ms, 0, 1, wx 0x78 0 2 1 5 0 0, _, rfl, by decide +kernel⟩,
    ⟨ms1, 0, 1, 5, ⟨0, 1, 5, leBytes 64 9, [false, false]⟩, [], by decide +kernel⟩,
    ⟨ms2, 0, 1, wx 0x79 0 2 1 5 0 0, _, ⟨1,0,5,leBytes 64 77,[true,false]⟩, [], rfl, by decide +kernel⟩,
    ⟨ms2, 0, wx 0x7A 1 2 0 5 0 0, _, ⟨1,0,5,leBytes 64 77,[true,false]⟩, [], rfl, by decide +kernel⟩,
    ⟨ms2, 0, 1, wx 0x7B 1 0 1 5 0 0, by decide +kernel⟩⟩

theorem test_witness_PostsComplete :
    (∃ (s : State) (c : Fin 16) (w : DWord) (tag : Nat), freeTag s (partOfCore s c) = some tag ∧
      spadCheck s c 1 (getS (getCore s c) (fRa w)).toNat 64 = none ∧ fnX w = 0 ∧ s.pacer.st ≠ .running ∧
      mayIssue s c w 0x7C false = true) ∧
    (∃ (s : State) (c : Fin 16) (w : DWord) (tag : Nat), freeTag s (partOfCore s c) = some tag ∧
      spadCheck s c 1 (getS (getCore s c) (fRa w)).toNat 64 = none ∧ fnX w = 0 ∧ s.pacer.st ≠ .running ∧
      mayIssue s c w 0x7D false = true) :=
  ⟨⟨ms, 0, wx 0x7C 1 2 0 0 0 0, 0, by decide +kernel⟩,
    ⟨ms, 0, wx 0x7D 1 2 0 0 0 0, 0, by decide +kernel⟩⟩

theorem test_witness_WaitsComplete :
    (∃ (s : State) (c : Fin 16) (w : DWord), mayIssue s c w 0x80 false = true ∧ fnI w = 0 ∧
      (∀ i < 5, (immU w).testBit i = true → scopeDone s c i = true)) ∧
    (∃ (s : State) (c : Fin 16) (w : DWord) (a : Nat) (code : _), a = (getS (getCore s c) (fRa w)).toNat ∧
      mayIssue s c w 0x81 false = true ∧ fnI w = 0 ∧ mget (getCore s c).dmaTags (a % 64) = some (.done code)) ∧
    (∃ (s : State) (c : Fin 16) (w : DWord) (a : Nat) (x : _) (r : _), a = (getS (getCore s c) (fRa w)).toNat ∧
      mayIssue s c w 0x81 false = true ∧ fnI w = 1 ∧ coreCtx s c (a % 4096) = some x ∧ x.result = some r) ∧
    (∃ (s : State) (c : Fin 16) (w : DWord) (a : Nat) (t : _), a = (getS (getCore s c) (fRa w)).toNat ∧
      mayIssue s c w 0x82 true = true ∧ fnI w = 0 ∧ t < 64 ∧ a.testBit t = true ∧
      (∃ code, mget (getCore s c).dmaTags t = some (.done code)) ∧
      (∀ u < t, a.testBit u = true → ∀ code, mget (getCore s c).dmaTags u ≠ some (.done code))) ∧
    (∃ (s : State) (c : Fin 16) (w : DWord), mayIssue s c w 0x83 true = true ∧ fnI w = 0) ∧
    (∃ (s : State) (c : Fin 16) (w : DWord), mayIssue s c w 0x84 false = true ∧ immU w % 65536 = 2 ^ partLogical s c ∧
      partLogical s c < partCount s (partOfCore s c) ∧ peerCore s c (partLogical s c) = some c ∧ isFenced s c = false) ∧
    (∃ (s : State) (c : Fin 16) (w : DWord) (x : _), mayIssue s c w 0x89 false = true ∧ fnI w = 0 ∧
      (getCore s c).waiting = some x ∧ x.issued = true ∧ x.fires ≠ ctrOf s .determinism 0) :=
  ⟨⟨ms, 0, wi 0x80 0 0 0 0x1F, by decide +kernel⟩,
    ⟨withCore { ke with dmaTags := mput [] 0x0 (.done 3), sregs := ke.sregs.set 2 0 }, 0, wi 0x81 1 2 0 0, _, 3, rfl,
      by decide +kernel⟩,
    ⟨{ withCore { ke with sregs := ke.sregs.set 2 0 } with ctxs := [(0, ctx1)] }, 0, wi 0x81 1 2 1 0, _, ctx1,
      { code := 5 }, rfl, by decide +kernel⟩,
    ⟨withCore { ke with dmaTags := mput (mput [] 1 (.done 3)) 0 .pending, sregs := ke.sregs.set 2 3 }, 0,
      wi 0x82 1 2 0 0, _, 1, rfl, by decide +kernel⟩,
    ⟨withCore { ke with dmaTags := mput (mput [] 1 (.done 3)) 0 .pending, sregs := ke.sregs.set 2 1 }, 0,
      wi 0x83 1 2 0 0, by decide +kernel⟩,
    ⟨ms, 0, wi 0x84 0 0 2 1, by decide +kernel⟩,
    ⟨withCore { ke with waiting := some ⟨wi 0x89 0 0 0 0, true, 4⟩ }, 0, wi 0x89 0 0 0 0, ⟨wi 0x89 0 0 0 0, true, 4⟩,
      by decide +kernel⟩⟩

theorem test_witness_SoftwareTrapsComplete :
    (∃ (s : State) (c : Fin 16) (w : DWord) (i : Instr) (cause : Nat) (code : Nat), ((i = .trap c w ∧
      mayIssue s c w 0xF0 false = true ∧ fnI w = 0 ∧ cause = 0x08 ∧ code = immU w % 65536) ∨ (i = .brk c w ∧
      mayIssue s c w 0xF1 false = true ∧ fnI w = 0 ∧ cause = 0x09 ∧ code = 0) ∨ (i = .waitTimeout c ∧
      (getCore s c).st = .running ∧ timeoutApplies s c = true ∧ regOf s (.core c 0) 0x060 ≠ 0 ∧
      (∃ x, (getCore s c).waiting = some x ∧ x.w = w) ∧ cause = 0x07 ∧ code = 0))) :=
  ⟨ms, 0, wi 0xF0 0 0 0 0x12345, .trap 0 (wi 0xF0 0 0 0 0x12345), 8, 0x2345, by decide +kernel⟩

theorem test_witness_DirectoryCommandsComplete :
    (∃ (s : State) (a : Fin 19) (line : Nat) (d : DirLine), d = dirLine s line ∧ lineExists s line = true ∧
      sliceShut s (cmHome s line) = false ∧ agentFenced s a = false ∧
      mustRetry { d with retried := d.retried &&& ~~~(BitVec.ofNat 19 (2 ^ a.val)) } a = false ∧
      holdRuns { d with retried := d.retried &&& ~~~(BitVec.ofNat 19 (2 ^ a.val)) } a = false) ∧
    (∃ (s : State) (a : Fin 19) (line : Nat) (d : DirLine), d = dirLine s line ∧ lineExists s line = true ∧
      sliceShut s (cmHome s line) = false ∧ agentFenced s a = false ∧
      mustRetry { d with retried := d.retried &&& ~~~(BitVec.ofNat 19 (2 ^ a.val)) } a = false ∧
      holdRuns { d with retried := d.retried &&& ~~~(BitVec.ofNat 19 (2 ^ a.val)) } a = false ∧
      s.granted.contains line = false) ∧
    (∃ (s : State) (a : Fin 19) (line : Nat) (d : DirLine) (addr : _), d = dirLine s line ∧ lineExists s line = true ∧
      sliceShut s (cmHome s line) = false ∧ agentFenced s a = false ∧
      mustRetry { d with retried := d.retried &&& ~~~(BitVec.ofNat 19 (2 ^ a.val)) } a = false ∧
      holdRuns { d with retried := d.retried &&& ~~~(BitVec.ofNat 19 (2 ^ a.val)) } a = false ∧
      s.granted.contains line = false ∧ addr % 8 = 0 ∧ addr / 64 = line) ∧
    (∃ (s : State) (a : Fin 19) (line : Nat) (d : DirLine), d = dirLine s line ∧ lineExists s line = true ∧
      sliceShut s (cmHome s line) = false ∧ agentFenced s a = false ∧ d.owner = some a.val) ∧
    (∃ (s : State) (a : Fin 19) (line : Nat), lineExists s line = true ∧ sliceShut s (cmHome s line) = false ∧
      agentFenced s a = false) ∧
    (∃ (s : State) (a : Fin 19) (line : Nat) (d : DirLine), d = dirLine s line ∧ a.val ∈ d.resv) ∧
    (∃ (s : State) (line : Nat) (d : DirLine), d = dirLine s line ∧ d.held = true ∧ d.wait = none) ∧
    (∃ (s : State) (line : Nat) (d : DirLine) (x : _) (r : _), d = dirLine s line ∧ d.held = true ∧
      d.wait = some (x, r)) ∧
    (∃ (s : State) (line : Nat) (d : DirLine) (x : _) (rest : _), d = dirLine s line ∧ d.resv = x :: rest ∧
      d.retried.toNat.testBit x = true) ∧
    (∃ (s : State) (a : Fin 19) (line : Nat) (d : DirLine), d = dirLine s line ∧ d.owner = some a.val ∧
      d.cached.isSome = true ∧ sliceFenced s (cmHome s line) = false) ∧
    (∃ (s : State) (a : Fin 19) (line : Nat) (d : DirLine), d = dirLine s line ∧ a.val ≠ 16 ∧ agentFenced s a = false ∧
      s.dir = [(line, d)] ∧ d.owner = some a.val) :=
  ⟨⟨cms, 3, 0x4000, _, rfl, by decide +kernel⟩,
    ⟨cms, 3, 0x4000, _, rfl, by decide +kernel⟩,
    ⟨cms, 3, 0x4000, _, 0x100008, rfl, by decide +kernel⟩,
    ⟨{ cms with dir := [(0x4000, { owner := some 3 })] }, 3, 0x4000, _, rfl, by decide +kernel⟩,
    ⟨cms, 3, 0x4000, by decide +kernel⟩,
    ⟨{ cms with dir := [(0x4000, { resv := [3] })] }, 3, 0x4000, _, rfl, by decide +kernel⟩,
    ⟨{ cms with dir := [(0x4000, { held := true, owner := some 1 })] }, 0x4000, _, rfl, by decide +kernel⟩,
    ⟨{ cms with dir := [(0x4000, { held := true, owner := some 1, wait := some (2, .gets) })] }, 0x4000, _, 2, .gets,
      rfl, by decide +kernel⟩,
    ⟨{ cms with dir := [(0x4000, { resv := [3,4], retried := 8 })] }, 0x4000, _, 3, [4], rfl, by decide +kernel⟩,
    ⟨{ cms with dir := [(0x4000, { owner := some 3, cached := some 12345678 })] }, 3, 0x4000, _, rfl,
      by decide +kernel⟩,
    ⟨{ cms with dir := [(0x4000, { owner := some 3, cached := some 12345678 })] }, 3, 0x4000, _, rfl,
      by decide +kernel⟩⟩

end W4

namespace W5

def wm (op rd ra fn dt off : Nat) : DWord := wi op rd ra (fn*16+dt) off
def ke : Core := { k0 with sregs := (((sr.set 1 0x8000).set 2 0x1000).set 3 4).set 4 (16 * 2^32) }
def cms : State := withCore ke
def r0 : State := ready
def cc : State := withCore ke
def s12 : State := modPower State.reset (fun p => { p with main12v := true, senseCap := 600, maxPowerLimit := 600})
def sbt : State := modPower s12 (fun p => { p with perst := false, railsGood := true, phase := .booting})

theorem test_witness_ControlMemoryAccessesComplete :
    (∃ (s : State) (c : Fin 16) (w : DWord) (a : Nat) (line : Nat), a = addrM (getCore s c) w ∧ line = a / 64 ∧
      a % 8 = 0 ∧ cmFencedIn s a 8 = false ∧ cmDisabledIn s a 8 = false ∧ agentFenced s c = false ∧ dtOk (dtM w) = true ∧
      mayIssue s c w 0x85 false = true ∧ fnM w = 0 ∧ cmMayRange s (partOfCore s c) a 8 false = true ∧
      cmPoison s line = false ∧ holdsLine s line c = true) ∧
    (∃ (s : State) (c : Fin 16) (w : DWord) (a : Nat) (line : Nat) (d : DirLine), a = addrM (getCore s c) w ∧
      line = a / 64 ∧ d = dirLine s line ∧ a % 8 = 0 ∧ cmFencedIn s a 8 = false ∧ cmDisabledIn s a 8 = false ∧
      agentFenced s c = false ∧ dtOk (dtM w) = true ∧ mayIssue s c w 0x85 false = true ∧ fnM w = 0 ∧
      cmMayRange s (partOfCore s c) a 8 false = true ∧ cmPoison s line = false ∧ holdsLine s line c = false ∧
      holdRuns d c = false) ∧
    (∃ (s : State) (c : Fin 16) (w : DWord) (a : Nat) (line : Nat), a = addrM (getCore s c) w ∧ line = a / 64 ∧
      a % 8 = 0 ∧ cmFencedIn s a 8 = false ∧ cmDisabledIn s a 8 = false ∧ agentFenced s c = false ∧ dtOk (dtM w) = true ∧
      mayIssue s c w 0x86 false = true ∧ fnM w = 0 ∧ cmMayRange s (partOfCore s c) a 8 true = true ∧
      (dirLine s line).owner = some c.val) ∧
    (∃ (s : State) (c : Fin 16) (w : DWord) (a : Nat) (line : Nat) (d : DirLine), a = addrM (getCore s c) w ∧
      line = a / 64 ∧ d = dirLine s line ∧ a % 8 = 0 ∧ cmFencedIn s a 8 = false ∧ cmDisabledIn s a 8 = false ∧
      agentFenced s c = false ∧ dtOk (dtM w) = true ∧ mayIssue s c w 0x86 false = true ∧ fnM w = 0 ∧
      cmMayRange s (partOfCore s c) a 8 true = true ∧ (dirLine s line).owner ≠ some c.val ∧ mustRetry d c = false ∧
      holdRuns d c = false) ∧
    (∃ (s : State) (c : Fin 16) (w : DWord) (a : Nat) (line : Nat) (d : DirLine), a = addrM (getCore s c) w ∧
      line = a / 64 ∧ d = dirLine s line ∧ a % 8 = 0 ∧ cmFencedIn s a 8 = false ∧ cmDisabledIn s a 8 = false ∧
      agentFenced s c = false ∧ dtOk (dtM w) = true ∧ mayIssue s c w 0x87 false = true ∧ fnM w = 0 ∧
      cmMayRange s (partOfCore s c) a 8 true = true ∧ mustRetry d c = false ∧ holdRuns d c = false) ∧
    (∃ (s : State) (c : Fin 16) (w : DWord) (a : Nat) (line : Nat) (d : DirLine), a = addrM (getCore s c) w ∧
      line = a / 64 ∧ d = dirLine s line ∧ a % 8 = 0 ∧ cmFencedIn s a 8 = false ∧ cmDisabledIn s a 8 = false ∧
      agentFenced s c = false ∧ dtOk (dtM w) = true ∧ mayIssue s c w 0x88 true = true ∧ fnM w < 3 ∧
      cmMayRange s (partOfCore s c) a 8 true = true ∧ cmPoison s line = false ∧ mustRetry d c = false ∧
      holdRuns d c = false) :=
  ⟨⟨{ cms with dir := [(0x40, { sharers := 1 })] }, 0, wm 0x85 1 2 0 0 0, _, _, rfl, rfl, by decide +kernel⟩,
    ⟨cms, 0, wm 0x85 1 2 0 0 0, _, _, _, rfl, rfl, rfl, by decide +kernel⟩,
    ⟨{ cms with dir := [(0x40, { owner := some 0 })] }, 0, wm 0x86 1 2 0 0 0, _, _, rfl, rfl, by decide +kernel⟩,
    ⟨{ cms with dir := [(0x40, { owner := some 3, cached := some 12345678 })] }, 0, wm 0x86 1 2 0 0 0, _, _, _, rfl,
      rfl, rfl, by decide +kernel⟩,
    ⟨cms, 0, wm 0x87 1 2 0 0 0, _, _, _, rfl, rfl, rfl, by decide +kernel⟩,
    ⟨cms, 0, wm 0x88 1 2 0 0 0, _, _, _, rfl, rfl, rfl, by decide +kernel⟩⟩

theorem test_witness_HeaderCommandsComplete :
    (∃ (s : State) (a : Access) (pg : PageId) (p : PageId), reaches s a pg p = true) ∧
    (∃ (s : State) (pg : PageId) (p : PageId) (rq : Requester), readable s rq pg = some p) ∧
    (∃ (s : State) (pg : PageId) (p : PageId) (rq : Requester) (pair : _), readable s rq pg = some p ∧
      pair < counterPairs (pageType p)) ∧
    (∃ (s : State) (rq : Requester), readable s rq .global = some .global) ∧
    (∃ (s : State) (pg : PageId), (getPage s pg).disabling = true ∧ pageIdle s pg = true) :=
  ⟨⟨r0, {fn := 0}, .clock, .clock, by decide +kernel⟩,
    ⟨r0, .clock, .clock, .function 0, by decide +kernel⟩,
    ⟨r0, .clock, .clock, .management, 0, by decide +kernel⟩,
    ⟨r0, .function 0, by decide +kernel⟩,
    ⟨modPage r0 .clock (fun x => { x with disabling := true }), .clock, by decide +kernel⟩⟩

theorem test_witness_RegisterWritesComplete :
    (∃ (s : State) (a : Access) (addr : BitVec 26) (pg : _) (p : _) (off : _), off = addr.toNat % 0x1000 / 4 * 4 ∧
      pageAt addr.toNat = some pg ∧ ¬(pg = .global ∧ 0x200 ≤ off ∧ off < 0x400) ∧ reaches s a pg p = true) ∧
    (∃ (s : State) (a : Access) (i : Fin 128), resolve s a.fn .global = some .global ∧ a.be = 0xF ∧
      ownsSrc s a.fn (2 * i.val) = true ∧ ownsSrc s a.fn (2 * i.val + 1) = true ∧ srcLevel s (2 * i.val) = false ∧
      srcLevel s (2 * i.val + 1) = false) :=
  ⟨⟨r0, {fn := 0}, 0x40, .global, .global, _, rfl, by decide +kernel⟩,
    ⟨r0, {fn := 0}, 3, by decide +kernel⟩⟩

theorem test_witness_CoreControlCompletes :
    (∃ (s : State) (a : Access) (n : Fin 16) (c : Fin 16), reaches s a (.core n 0) (.core c 0) = true ∧
      (shownSt (getCore s c) = .idle ∨ shownSt (getCore s c) = .trapped) ∧ (getPage s (.core c 0)).enable = true ∧
      (getPage s (.core c 0)).fenced = false ∧ (getCore s c).resetPending = false ∧
      quiesced (getPage s (.core c 0)) = false) ∧
    (∃ (s : State) (a : Access) (n : Fin 16) (c : Fin 16), reaches s a (.core n 0) (.core c 0) = true ∧
      (getCore s c).st = .running) ∧
    (∃ (s : State) (a : Access) (n : Fin 16) (c : Fin 16), reaches s a (.core n 0) (.core c 0) = true) ∧
    (∃ (s : State) (c : Fin 16), resetReady s c = true) ∧
    (∃ (s : State) (a : Access) (n : Fin 16) (c : Fin 16), reaches s a (.core n 0) (.core c 0) = true ∧
      coreRuns (getCore s c) = false) :=
  ⟨⟨withCore { ke with st := .idle }, {fn := 0}, 0, 0, by decide +kernel⟩,
    ⟨cc, {fn := 0}, 0, 0, by decide +kernel⟩,
    ⟨cc, {fn := 0}, 0, 0, by decide +kernel⟩,
    ⟨withCore { ke with resetPending := true }, 0, by decide +kernel⟩,
    ⟨withCore { ke with st := .idle }, {fn := 0}, 0, 0, by decide +kernel⟩⟩

theorem test_witness_PowerUpCompletes :
    (∃ (s : State) (s0 : _) (s1 : _), s.power.aux = true ∧ s.power.main12v = false ∧ (s0 && s1) = false) ∧
    (∃ (s : State), s.power.aux = true ∧ s.power.main12v = false) ∧
    (∃ (s : State), s.power.aux = true) ∧
    (∃ (s : State), s.power.aux = true ∧ s.power.perst = true ∧ s.power.railsGood = false ∧ s.power.needPerst = 0) ∧
    (∃ (s : State), s.power.aux = true ∧ s.power.perst = true ∧ s.power.railsGood = true ∧ s.power.needPerst = 0) ∧
    (∃ (s : State), s.power.aux = true ∧ s.power.main12v = true ∧ s.power.railsOff = false ∧ s.power.tripLatch = false ∧
      s.power.needPerst = 0 ∧ s.power.railsGood = false ∧ s.power.railFailed = false) ∧
    (∃ (s : State), (s.power.phase = .booting ∨ s.power.phase = .resetting) ∧ s.power.released = false) ∧
    (∃ (s : State), (s.power.phase = .booting ∨ s.power.phase = .resetting) ∧ s.power.released = true) :=
  ⟨⟨State.reset, true, false, by decide +kernel⟩,
    ⟨State.reset, by decide +kernel⟩,
    ⟨State.reset, by decide +kernel⟩,
    ⟨State.reset, by decide +kernel⟩,
    ⟨modPower s12 (fun p => { p with railsGood := true}), by decide +kernel⟩,
    ⟨s12, by decide +kernel⟩,
    ⟨sbt, by decide +kernel⟩,
    ⟨modPower sbt (fun p => { p with rootLocked := true, released := true}), by decide +kernel⟩⟩

theorem test_witness_ResetsComplete :
    (∃ (s : State), s.power.main12v = true) ∧
    (∃ (s : State), s.power.railsGood = true) ∧
    (∃ (s : State), s.power.perst = false ∧ s.power.aux = true) ∧
    (∃ (s : State), isOn s = true) ∧
    (∃ (s : State), (s.power.phase = .ready ∨ s.power.phase = .resetting) ∧ s.power.rootLocked = true) ∧
    (∃ (s : State) (a : _), reaches s a .global .global = true) ∧
    (∃ (s : State) (a : _) (p : _), s.power.phase = .ready ∧ reaches s a (.queues p) (.queues p) = true) ∧
    (∃ (s : State) (a : _) (p : _) (d : _), s.power.phase = .ready ∧ reaches s a (.queues p) (.queues p) = true ∧
      s.drain = some d ∧ d.acked ||| BitVec.ofNat 4 (2 ^ p.val) ≠ BitVec.allOnes 4) ∧
    (∃ (s : State) (a : _) (p : _) (d : _), s.power.phase = .ready ∧ reaches s a (.queues p) (.queues p) = true ∧
      s.drain = some d ∧ d.acked ||| BitVec.ofNat 4 (2 ^ p.val) = BitVec.allOnes 4 ∧ isOn s = true) ∧
    (∃ (s : State), s.drain.isSome = true ∧ isOn s = true) :=
  ⟨⟨r0, by decide +kernel⟩,
    ⟨r0, by decide +kernel⟩,
    ⟨r0, by decide +kernel⟩,
    ⟨r0, by decide +kernel⟩,
    ⟨r0, by decide +kernel⟩,
    ⟨r0, {fn := 0}, by decide +kernel⟩,
    ⟨r0, {fn := 0}, 0, by decide +kernel⟩,
    ⟨{ r0 with drain := some { acked := 0 , remainMs := 5} }, {fn := 0}, 0, { acked := 0 , remainMs := 5},
      by decide +kernel⟩,
    ⟨{ r0 with drain := some { acked := 14 , remainMs := 5} }, {fn := 0}, 0, { acked := 14 , remainMs := 5},
      by decide +kernel⟩,
    ⟨{ r0 with drain := some { acked := 0 , remainMs := 5} }, by decide +kernel⟩⟩

theorem test_witness_PcieCommandsComplete :
    (∃ (s : State), cfgServed s = true) ∧
    (∃ (s : State) (fn : Fin 4) (v : Fin 64), cfgServed s = true ∧ (s.fns[fn]).d3hot = false ∧
      (s.fns[fn]).msixEnable = true ∧ (s.fns[fn]).msixFunctionMask = false ∧ (s.fns[fn]).busMaster = true ∧
      ((s.fns[fn]).vectors[v]).pending = true) ∧
    (∃ (s : State), s.power.phase = .booting) :=
  ⟨⟨r0, by decide +kernel⟩,
    ⟨modFn r0 0 (fun f => { f with msixEnable := true, busMaster := true, vectors := f.vectors.set 3 {masked := true, pending := true} }), 0, 3, by decide +kernel⟩,
    ⟨sbt, by decide +kernel⟩⟩

end W5

namespace W6

def r0 : State := ready
def mb (op a0 a1 : Nat) : State := putReg (putReg (putReg r0 .mailbox 0x040 op) .mailbox 0x044 a0) .mailbox 0x048 a1
def lg (n : Nat) : LogEntry := ⟨n, 1, 5, 1, 2, 3, 4, 5, 6, 7⟩
def wlog (s : State) : State := modMgmt s (fun m => { m with log := [lg 0, lg 1, lg 2], logNext := 3 })
def lk : State := modPort (putReg (putReg r0 (.baton 0) 0x048 0x0201) (.baton 0) 0x050 0x123456) 0 (fun p => { p with st := .up, peerChip := 1, peerPort := 0, peerMac := 0xABCDEF })
def peer : State := putReg lk .global 0x040 1
def inF (kind cls seq fl : Nat) (client : List Byte) (pl : List Byte) : Frame :=
  let f := mkFrame peer kind cls 0 fl client pl
  { (setHb f 2 2 seq) with dst := macOf lk 0, src := 5, etherType := BitVec.ofNat 16 (etherOf lk 0), pcp := BitVec.ofNat 3 (pcpOf lk 0 cls) }
def st1 (x : PortSt) : State := modPort lk 0 (fun p => { p with st := x })
def hel : Frame := { helloFrame peer 0 with src := 5, dst := BitVec.allOnes 48, etherType := BitVec.ofNat 16 (etherOf lk 0), pcp := BitVec.ofNat 3 (pcpOf lk 0 0) }
def copy1 : RecordCopy := let b : List Byte := [0x4C, 0x7E, 1, 0] ++ leBytes 4 1 ++ List.replicate 240 0; ⟨b ++ leBytes 4 (crc32c b) ++ [0, 0, 0, 0]⟩
def mbr (op a0 : Nat) : State := modMgmt (mb op a0 0) (fun m => { m with sectorA := some copy1 })
def mbl : State := putReg (putReg lk .mailbox 0x040 5) .mailbox 0x044 1
def idw : State := modMgmt lk (fun m => { m with identWait := some 9 })
def idF (msg : Nat) (pl : List Byte) : Frame := mkM peer 0 1 msg ([0, 0] ++ leBytes 4 9) pl
def inbox (s : State) (f : Frame) : State := modCls s 0 0 (fun x => { x with rxbuf := [f] })
def dataF := inF 0 0 0 0 [1, 1] []
def dataB := inF 0 1 0 0 [] (leBytes 64 99)
def up2 : State := modCls lk 0 0 (fun x => { x with nextSeq := 3, oldest := 0, retx := [inF 0 0 0 0 [1,1] [], inF 0 0 1 0 [1,1] [], inF 0 0 2 0 [1,1] []] })
def ackF (k : Nat) := setHb (setHb (inF k 0 0 0 [] []) 4 2 1) 1 1 4
def full : State := modPort (putReg lk (.baton 0) 0x058 0x00000001) 0 (fun p => { p with localPaused := 7 })
def full2 : State := modCls full 0 0 (fun x => { x with rxbuf := [dataB] })
def tq0 : State := modCls up2 0 0 (fun x => { x with txq := [dataF] })
def held1 (f : Frame) : HeldChunk := ⟨[f], true, false, none⟩
def chunkS (f : Frame) : State := modPort (modCls lk 0 1 (fun x => { x with rxbuf := [dataB] })) 0 (fun p => { p with held := [held1 f] })
def upF (form : Nat) (pl : List Byte) : Frame :=
  mkFrame peer 0 2 0 0 ([2, BitVec.ofNat 8 (form * 64 + 3)] ++ leBytes 2 1 ++ leBytes 4 0 ++ leBytes 4 0) pl
def stream1 : List Byte := let b : List Byte := hdrBytes ⟨0, 0, 0, 0, 0, 2, 2, 0, 2⟩ ++ [0x40, 0]; b ++ leBytes 4 (crc32c b)
def fRaw : Frame := upF 2 (leBytes 8 4 ++ leBytes 8 77)
def fCur : Frame := upF 0 stream1
def goodOf (f : Frame) : List E56Entry × Nat × Nat := match readChunk {} [f] with
  | ⟨.good es next clamped, _⟩ => (es, next, clamped)
  | _ => ([], 0, 0)

theorem test_witness_MailboxCommandsComplete :
    (∃ (s : State) (a : Access), reaches s a .mailbox .mailbox = true ∧ s.mailbox.busy = false ∧
      (getPage s .mailbox).enable = true ∧ quiesced (getPage s .mailbox) = false ∧ mbOp s = 0) ∧
    (∃ (s : State) (a : Access), reaches s a .mailbox .mailbox = true ∧ s.mailbox.busy = false ∧
      (getPage s .mailbox).enable = true ∧ quiesced (getPage s .mailbox) = false ∧ mbOp s = 1) ∧
    (∃ (s : State) (a : Access) (es : _),
      es = (List.range (mbArg1 s)).filterMap (fun i => s.mgmt.log.find? (fun e => e.seq = BitVec.ofNat 32 (mbArg0 s +
      i))) ∧ reaches s a .mailbox .mailbox = true ∧ s.mailbox.busy = false ∧ (getPage s .mailbox).enable = true ∧
      quiesced (getPage s .mailbox) = false ∧ mbOp s = 2 ∧ 1 ≤ mbArg1 s ∧ mbArg1 s ≤ 4 ∧ es ≠ []) ∧
    (∃ (s : State) (a : Access) (x : _), reaches s a .mailbox .mailbox = true ∧ s.mailbox.busy = false ∧
      (getPage s .mailbox).enable = true ∧ quiesced (getPage s .mailbox) = false ∧ mbOp s = 3 ∧ mbArg0 s < 2 ∧
      committed s = some x) ∧
    (∃ (s : State) (a : Access) (x : _), reaches s a .mailbox .mailbox = true ∧ s.mailbox.busy = false ∧
      (getPage s .mailbox).enable = true ∧ quiesced (getPage s .mailbox) = false ∧ mbOp s = 4 ∧ committed s = some x) ∧
    (∃ (s : State) (a : Access), reaches s a .mailbox .mailbox = true ∧ s.mailbox.busy = false ∧
      (getPage s .mailbox).enable = true ∧ quiesced (getPage s .mailbox) = false ∧ mbOp s = 5 ∧ mbArg0 s < 256 ∧
      s.units.service ≠ 3 ∧ (List.range 8).any (isUp s) = true ∧ mbArg0 s ≠ chipId s) ∧
    (∃ (s : State) (id : _), s.mgmt.identWait = some id) ∧
    (∃ (s : State) (m : Fin 8) (f : Frame), isMgmtMsg f 2 = true ∧ frDst f = chipId s ∧
      (takeHead s m 0 f).mgmt.identWait = some (BitVec.ofNat 32 (hb f 20 4))) ∧
    (∃ (s : State) (m : Fin 8) (f : Frame), isMgmtMsg f 1 = true ∧ frDst f = chipId s ∧
      (getCls (getPort s m) 0).rxbuf.head? = some f ∧ f.payload = []) :=
  ⟨⟨mb 0 0 0, {fn := 0}, by decide +kernel⟩,
    ⟨wlog (mb 1 0 0), {fn := 0}, by decide +kernel⟩,
    ⟨wlog (mb 2 1 2), {fn := 0}, _, rfl, by decide +kernel⟩,
    ⟨mbr 3 1, {fn := 0}, copy1, by decide +kernel⟩,
    ⟨mbr 4 0, {fn := 0}, copy1, by decide +kernel⟩,
    ⟨mbl, {fn := 0}, by decide +kernel⟩,
    ⟨idw, 9, by decide +kernel⟩,
    ⟨inbox idw (idF 2 (leBytes 32 5)), 0, idF 2 (leBytes 32 5), by decide +kernel⟩,
    ⟨inbox lk (idF 1 []), 0, idF 1 [], by decide +kernel⟩⟩

theorem test_witness_UnitFailuresComplete :
    (∃ (s : State), s.power.phase = .ready) ∧
    (∃ (s : State) (k : Fin 12), s.power.phase = .ready ∧ s.units.hbms.toNat.testBit k = true ∧
      (getPage s (.hbm k)).fenced = false) :=
  ⟨⟨r0, by decide +kernel⟩,
    ⟨r0, 3, by decide +kernel⟩⟩

theorem test_witness_LinkBringupCompletes :
    (∃ (s : State) (m : Fin 8) (a : _), reaches s a (.baton m) (.baton m) = true) ∧
    (∃ (s : State) (m : Fin 8) (p : Port) (ts : List PhyType) (t : _), p = getPort s m ∧ p.st = .an ∧
      (ownTypes s m).find? (fun t => ts.contains t) = some t) ∧
    (∃ (s : State) (m : Fin 8) (p : Port), p = getPort s m ∧ p.st = .training) ∧
    (∃ (s : State) (m : Fin 8) (p : Port), p = getPort s m ∧ p.st = .aligning) ∧
    (∃ (s : State) (m : Fin 8) (p : Port), p = getPort s m ∧ p.st ≠ .down ∧ p.st ≠ .up) ∧
    (∃ (s : State) (m : Fin 8) (p : Port) (f : _), p = getPort s m ∧ frameFails s m f = none ∧ frKind f = 4 ∧
      p.st = .hello ∧ wiringOk s m f = true ∧ configOk s m f = true ∧ (hb f 17 1).testBit 7 = true) ∧
    (∃ (s : State) (m : Fin 8) (p : Port), p = getPort s m ∧ (p.st = .hello ∨ p.st = .miswired)) ∧
    (∃ (s : State) (m : Fin 8) (p : Port), p = getPort s m ∧ p.st = .up) :=
  ⟨⟨lk, 0, {fn := 0}, by decide +kernel⟩,
    ⟨st1 .an, 0, _, [.cr8_800, .kr8_800], .cr8_800, rfl, by decide +kernel⟩,
    ⟨st1 .training, 0, _, rfl, by decide +kernel⟩,
    ⟨st1 .aligning, 0, _, rfl, by decide +kernel⟩,
    ⟨st1 .hello, 0, _, rfl, by decide +kernel⟩,
    ⟨st1 .hello, 0, _, (setHb hel 17 1 (hb hel 17 1 ||| 128)), rfl, by decide +kernel⟩,
    ⟨st1 .miswired, 0, _, rfl, by decide +kernel⟩,
    ⟨lk, 0, _, rfl, by decide +kernel⟩⟩

theorem test_witness_LinkFramesComplete :
    (∃ (s : State) (m : Fin 8) (c : Fin 3) (f : Frame), isUp s m = true ∧ frameFails s m f = none ∧
      clsFin (frClass f) = c ∧ frKind f = 0 ∧ frAckValid f = false ∧ frSeq f = (getCls (getPort s m) c).expected ∧
      occupancy (getPort s m) c + f.payload.length ≤ rxShare c.val) ∧
    (∃ (s : State) (m : Fin 8) (c : Fin 3) (f : Frame), isUp s m = true ∧ frameFails s m f = none ∧
      clsFin (frClass f) = c ∧ frKind f = 1) ∧
    (∃ (s : State) (m : Fin 8) (c : Fin 3) (f : Frame) (n : _), isUp s m = true ∧ frameFails s m f = none ∧
      clsFin (frClass f) = c ∧ frKind f = 2 ∧ ackedBy (getCls (getPort s m) c) (frAck f) = some n) ∧
    (∃ (s : State) (m : Fin 8) (c : Fin 3) (f : Frame), isUp s m = true ∧ frameFails s m f = none ∧
      clsFin (frClass f) = c ∧ frKind f = 3) ∧
    (∃ (s : State) (m : Fin 8) (f : Frame) (i : _), isUp s m = true ∧ frameFails s m f = some i ∧ i ≠ 8) ∧
    (∃ (s : State) (m : Fin 8), isUp s m = true) ∧
    (∃ (s : State) (m : Fin 8) (c : Fin 3), isUp s m = true ∧ pausedBy s m c = true) ∧
    (∃ (s : State) (m : Fin 8) (c : Fin 3), isUp s m = true ∧ (getPort s m).localPaused.toNat.testBit c = true ∧
      xonOf s m c < occupancy (getPort s m) c) ∧
    (∃ (s : State) (m : Fin 8) (c : Fin 3), isUp s m = true ∧ unacked s m c ≠ 0) ∧
    (∃ (s : State) (m : Fin 8) (c : Fin 3), isUp s m = true ∧ pausedBy s m c = false ∧
      (getCls (getPort s m) c).retx ≠ []) ∧
    (∃ (s : State) (m : Fin 8) (c : Fin 3) (f : Frame) (rest : _) (p : _), isUp s m = true ∧ pausedBy s m c = false ∧
      (getCls (getPort s m) c).resend = 0 ∧ (getCls (getPort s m) c).txq = f :: rest ∧
      ((getCls (getPort s m) c).nextSeq - (getCls (getPort s m) c).oldest).toNat < 512 ∧
      payBytes (getCls (getPort s m) c).retx + f.payload.length ≤ retxShare c.val ∧ creditOk s m f = true ∧
      arbitrate (getPort s m) c f (nextFrame s m 0) (nextFrame s m (if c.val = 1 then 2 else 1)) = some p) :=
  ⟨⟨lk, 0, 0, dataF, by decide +kernel⟩,
    ⟨up2, 0, 0, ackF 1, by decide +kernel⟩,
    ⟨up2, 0, 0, ackF 2, 2, by decide +kernel⟩,
    ⟨lk, 0, 2, inF 3 2 0 0 [] [], by decide +kernel⟩,
    ⟨lk, 0, { dataF with fcsOk := false }, 6, by decide +kernel⟩,
    ⟨lk, 0, by decide +kernel⟩,
    ⟨modPort lk 0 (fun p => { p with peerPaused := 7 }), 0, 2, by decide +kernel⟩,
    ⟨full2, 0, 0, by decide +kernel⟩,
    ⟨modCls lk 0 0 (fun x => { x with expected := 3 }), 0, 0, by decide +kernel⟩,
    ⟨up2, 0, 0, by decide +kernel⟩,
    ⟨tq0, 0, 0, dataF, [], getPort tq0 0, by decide +kernel⟩⟩

theorem test_witness_FrameHandlingCompletes :
    (∃ (s : State) (m : Fin 8) (c : Fin 3) (f : Frame) (rest : List Frame) (r : _),
      (getCls (getPort s m) c).rxbuf = f :: rest ∧ frDst f ≠ chipId s ∧ isFire f = false ∧
      frHops f + 1 < hopLimit (takeHead s m c f) m ∧ mayForward s m f = true ∧
      egress (takeHead s m c f) (frDst f) (frDetour f) = some r) ∧
    (∃ (s : State) (m : Fin 8) (c : Fin 3) (f : Frame) (rest : List Frame), (getCls (getPort s m) c).rxbuf = f :: rest ∧
      c ≠ 2) ∧
    (∃ (s : State) (m : Fin 8) (c : Fin 3) (f : Frame) (rest : List Frame) (h : _) (hs : _) (es : _) (next : _)
      (clamped : _) (dirty : _), (getCls (getPort s m) c).rxbuf = f :: rest ∧ (getPort s m).held = h :: hs ∧
      h.complete = true ∧ h.frames ≠ [] ∧ readChunk (h.table.getD {}) h.frames = ⟨.good es next clamped, dirty⟩ ∧
      frForm (h.frames.headD {}) ≠ 0) ∧
    (∃ (s : State) (m : Fin 8) (c : Fin 3) (f : Frame) (rest : List Frame) (h : _) (hs : _) (es : _) (next : _)
      (clamped : _) (dirty : _), (getCls (getPort s m) c).rxbuf = f :: rest ∧ (getPort s m).held = h :: hs ∧
      h.complete = true ∧ h.frames ≠ [] ∧ readChunk (h.table.getD {}) h.frames = ⟨.good es next clamped, dirty⟩ ∧
      frForm (h.frames.headD {}) = 0) :=
  ⟨⟨modCls (putReg lk .global 0x040 1) 0 1 (fun x => { x with rxbuf := [setHb dataB 8 1 0] }), 0, 1, setHb dataB 8 1 0, [], (0,0), by decide +kernel⟩,
    ⟨modCls lk 0 1 (fun x => { x with rxbuf := [dataB] }), 0, 1, dataB, [], by decide +kernel⟩,
    ⟨chunkS fRaw, 0, 1, dataB, [], held1 fRaw, [], (goodOf fRaw).1, (goodOf fRaw).2.1, (goodOf fRaw).2.2, false,
      by decide +kernel⟩,
    ⟨chunkS fCur, 0, 1, dataB, [], held1 fCur, [], (goodOf fCur).1, (goodOf fCur).2.1, (goodOf fCur).2.2, false,
      by decide +kernel⟩⟩

theorem test_witness_BackgroundServicesComplete :
    (∃ (s : State) (k : Fin 12), scrubRuns s 0 = true ∧ (scrubStacks s).contains k.val = true ∧
      mgetD s.mgmt.scrubPos 0 k < stackLines ∧ s.hbm.marked (hbmKey k (64 * mgetD s.mgmt.scrubPos 0 k) / 64) = false ∧
      mget s.hbmFlaws (hbmKey k (64 * mgetD s.mgmt.scrubPos 0 k) / 64) = none ∧ ueLimit (bump s (.hbm k) 6) k = false) ∧
    (∃ (s : State) (j : Fin 16), scrubRuns s 1 = true ∧ s.units.slices.toNat.testBit j = true ∧ sliceFenced s j = false ∧
      s.cm.marked (chipLine s j (mgetD s.mgmt.cmScrubPos 0 j)) = false ∧
      mget s.cmFlaws (chipLine s j (mgetD s.mgmt.cmScrubPos 0 j)) = none) ∧
    (∃ (s : State) (m : Fin 8), s.power.phase = .ready ∧ bgPaused s 2 = false ∧ s.units.ports.toNat.testBit m = true ∧
      (getPage s (.baton m)).fenced = false) ∧
    (∃ (s : State), s.power.phase = .ready ∧ bgPaused s 3 = false) ∧
    (∃ (s : State), s.mgmt.calibrating = true) ∧
    (∃ (s : State), s.mgmt.erasing = false ∧ s.power.aux = true ∧ bgPaused s 4 = false) ∧
    (∃ (s : State), s.mgmt.erasing = true) ∧
    (∃ (s : State), s.power.aux = true ∧ s.power.railsGood = true ∧ s.mgmt.calibrating = false) ∧
    (∃ (s : State) (a : _), reaches s a .background .background = true) ∧
    (∃ (s : State) (i : Fin 5), (i = 2 ∨ i = 3) ∧ bgPaused s i = true) :=
  ⟨⟨r0, 3, by decide +kernel⟩,
    ⟨r0, 3, by decide +kernel⟩,
    ⟨r0, 3, by decide +kernel⟩,
    ⟨r0, by decide +kernel⟩,
    ⟨modMgmt r0 (fun m => { m with calibrating := true }), by decide +kernel⟩,
    ⟨r0, by decide +kernel⟩,
    ⟨modMgmt r0 (fun m => { m with erasing := true }), by decide +kernel⟩,
    ⟨r0, by decide +kernel⟩,
    ⟨r0, {fn := 0}, by decide +kernel⟩,
    ⟨putReg r0 .background 0x040 0x1F, 2, by decide +kernel⟩⟩

end W6

namespace W7

def r0 : State := ready
def le (n v : Nat) : List Byte := leBytes n v
def d512 (b : List Byte) : BitVec 512 := BitVec.ofNat 512 (leNat b)
def sdb (op fl q key chip b5 gen win off len loc val : Nat) : BitVec 512 :=
  d512 ([op,fl,q,key,chip,b5].map (BitVec.ofNat 8) ++ le 2 gen ++ le 2 win ++ le 6 0 ++ le 8 off ++ le 8 len ++ le 8 loc ++ le 8 val ++ le 16 0)
def ctxS (d : BitVec 512) : Ctx := { owner := .ring 0 0 0, kind := .stork, part := 0, desc := some d }
def ps (s : State) (d : BitVec 512) : State := { s with ctxs := [(5, ctxS d)] }
def sd' (d : BitVec 512) : SDesc := sDesc (leBytes 64 d.toNat)
def wOpen : BitVec 512 := sdb 0x10 0 0 0 0 0 0 7 0x10000 0x4000 (3 + 3*256) 0
def win7 : Window := { base := 0x10000, length := 0x4000, domain := 3, rights := 3, valid := true }
def winP : Window := { base := 0, length := 0x400000, domain := 3, rights := 3, valid := true, paged := true, pageMap := 0x8000 }
def sw : State := setWin r0 7 win7
def swp : State := setWin r0 7 winP
def wRev : BitVec 512 := sdb 0x11 0 0 0 0 0 0 7 0 0 0 0
def wBind : BitVec 512 := sdb 0x12 0 4 0 0 0 0 0 0 0 9 0
def wPR : BitVec 512 := sdb 0x13 0 0 0 0 0 0 7 1 0 0 0
def wPU : BitVec 512 := sdb 0x14 0 0 0 0 0 0 7 1 0 0 0
def sqq : State := { modStork sw (fun k => { k with queues := mputD k.queues 0 4 (256 + 3) }) with hbm := ({} : Memory).write (hbmKey 0 0x2000) (le 64 0x1234567890ABCDEF) }
def oW : BitVec 512 := sdb 1 0 4 0 0 0 0 7 0x100 100 (0x2000 + 2^62) 0
def oR : BitVec 512 := sdb 2 0 4 0 0 0 0 7 0x100 100 (0x2000 + 2^62) 0
def oF : BitVec 512 := sdb 3 0 4 0 0 0 0 7 0x100 8 0 77
def op (d : BitVec 512) : StorkOp := { tag := 5, desc := d, part := 0, core := none, domain := 3, order := 4 }
def so (o : StorkOp) : State := modStork sqq (fun k => { k with ops := [o] })
def oRf : BitVec 512 := sdb 2 0 4 0 1 0 0 7 0x100 100 (0x2000 + 2^62) 0
def ownF (kind fl tag att : Nat) (win off : Nat) (client1 : Nat) (pl : List Byte) : Frame :=
  mkFrame r0 0 1 0 fl (le 1 kind ++ le 1 client1 ++ le 2 3 ++ le 2 win ++ le 2 0 ++ le 2 (tag + att * 4096) ++ le 6 off) pl
def fR := ownF 4 0 5 0 7 0x100 0 (le 64 0)
def put (s : State) (f : Frame) : State := modStork s (fun k => { k with own := [f] })
def fD := ownF 3 0 5 0 7 0x100 0 (le 64 0)
def fW := ownF 1 0 5 0 7 0x100 0 (le 64 0x77)
def fF := ownF 5 0 5 0 7 0x100 0 (le 8 0x77)
def fQ := ownF 2 0 5 0 7 0x100 0 (le 8 100)
def co : Coalesce := ⟨.own, 0, 5, 0, 0, 100, 1, 7, 3⟩
def stl : Stalled := ⟨.own, fW, 0, 0x100, 64, le 64 9⟩
def pw : PartWrite := ⟨.own, [fW], none⟩

theorem test_witness_WindowCommandsComplete :
    (∃ (s : State) (tag : BitVec 12) (x : Ctx) (d : SDesc) (u : State) (w : Window), u = startCtx s tag.toNat ∧
      w = getWin u d.window ∧ storkPosted s tag.toNat 0x10 x d = true ∧ ownsWindow u x.part d.window = true ∧
      ownsDomain u x.part (cDomain d) = true ∧ winFenced u d.window = false ∧ w.valid = false ∧ openShape x d = true ∧
      openInside u x d = true ∧ ((cMode d).testBit 3 = true → ownsKey u x.part (cKey d) = true ∧
      (mget u.stork.keys (cKey d)).isSome = true)) ∧
    (∃ (s : State) (tag : BitVec 12) (x : Ctx) (d : SDesc) (u : State), u = startCtx s tag.toNat ∧
      storkPosted s tag.toNat 0x11 x d = true ∧ windowCheck u x d (winCmdShape x d) false = none) ∧
    (∃ (s : State) (tag : BitVec 12) (x : Ctx) (d : SDesc) (u : State), u = startCtx s tag.toNat ∧
      storkPosted s tag.toNat 0x12 x d = true ∧ ownsQueue u x.part d.queue = true ∧
      ownsDomain u x.part (cDomain d) = true ∧ cmdRest x d = true ∧ d.window = 0 ∧ d.off = 0 ∧ d.len = 0 ∧ d.value = 0 ∧
      cRights d = 0 ∧ cMode d = 0 ∧ cKey d = 0 ∧ cRest d = 0 ∧ queueFenced u d.queue = false ∧
      (∀ o ∈ u.stork.ops, (opDesc o).queue ≠ d.queue)) ∧
    (∃ (s : State) (tag : BitVec 12) (x : Ctx) (d : SDesc) (u : State), u = startCtx s tag.toNat ∧
      storkPosted s tag.toNat 0x13 x d = true ∧ windowCheck u x d (winCmdShape x d) true = none ∧ u.stork.stall = []) ∧
    (∃ (s : State) (tag : BitVec 12) (x : Ctx) (d : SDesc) (u : State), u = startCtx s tag.toNat ∧
      storkPosted s tag.toNat 0x14 x d = true ∧ windowCheck u x d (winCmdShape x d) true = none) :=
  ⟨⟨ps r0 wOpen, 5, ctxS wOpen, sd' wOpen, _, _, rfl, rfl, by decide +kernel⟩,
    ⟨ps sw wRev, 5, ctxS wRev, sd' wRev, _, rfl, by decide +kernel⟩,
    ⟨ps sw wBind, 5, ctxS wBind, sd' wBind, _, rfl, by decide +kernel⟩,
    ⟨ps swp wPR, 5, ctxS wPR, sd' wPR, _, rfl, by decide +kernel⟩,
    ⟨ps (modStork swp (fun k => { k with trans := [(7,1,0x200000),(7,0,0x400000)] })) wPU, 5, ctxS wPU, sd' wPU, _, rfl,
      by decide +kernel⟩⟩

theorem test_witness_StorkOperationsComplete :
    (∃ (s : State) (tag : BitVec 12) (x : Ctx) (d : SDesc) (u : State) (data : _) (v : _), u = startCtx s tag.toNat ∧
      opCheck u x d = none ∧ storkPosted s tag.toNat 1 x d = true ∧ writeSource u x d = (v, .ok data)) ∧
    (∃ (s : State) (tag : BitVec 12) (x : Ctx) (d : SDesc) (u : State), u = startCtx s tag.toNat ∧ opCheck u x d = none ∧
      storkPosted s tag.toNat 2 x d = true) ∧
    (∃ (s : State) (tag : BitVec 12) (x : Ctx) (d : SDesc) (u : State), u = startCtx s tag.toNat ∧ opCheck u x d = none ∧
      storkPosted s tag.toNat 3 x d = true) ∧
    (∃ (s : State) (tag : BitVec 12) (o : _), findOp s tag.toNat = some o ∧ o.flagWaits = true ∧
      (∀ y ∈ s.stork.ops, y.order < o.order → (opDesc y).queue = (opDesc o).queue → isRead (opDesc y) = true) ∧
      (∀ q ∈ s.stork.fails, q.queue ≠ (opDesc o).queue)) ∧
    (∃ (s : State) (tag : BitVec 12) (o : _), findOp s tag.toNat = some o ∧ o.flagWaits = false ∧
      o.awaitingRoute = false ∧ o.failure = none) ∧
    (∃ (s : State) (tag : BitVec 12) (o : _), findOp s tag.toNat = some o ∧ o.awaitingRoute = true ∧ o.failure = none ∧
      hasRoute s (opDesc o).chip = true) ∧
    (∃ (s : State) (tag : BitVec 12) (o : _), findOp s tag.toNat = some o ∧ o.awaitingRoute = true ∧
      hasRoute s (opDesc o).chip = false) ∧
    (∃ (s : State) (tag : BitVec 12) (o : _) (r : _), findOp s tag.toNat = some o ∧ o.missed = [r] ∧ o.failure = none ∧
      o.awaitingRoute = false) ∧
    (∃ (s : State) (f : _), isStork f 4 = true ∧ frDst f = chipId s) ∧
    (∃ (s : State) (a : _) (f : _) (o : _), isStork f 3 = true ∧ frDst f = chipId s ∧
      answered (takeArrival s a f) f = some o ∧ isSealed (opDesc o) = false ∧ isRead (opDesc o) = true ∧
      (opDesc o).off ≤ frOffset f ∧ frOffset f - (opDesc o).off + f.payload.length ≤ (opDesc o).len) :=
  ⟨⟨ps sqq oW, 5, ctxS oW, sd' oW, _, (devRead (startCtx (ps sqq oW) 5) none 0 1 0x2000 100).1, (writeSource (startCtx (ps sqq oW) 5) (ctxS oW) (sd' oW)).1, rfl, by decide +kernel⟩,
    ⟨ps sqq oR, 5, ctxS oR, sd' oR, _, rfl, by decide +kernel⟩,
    ⟨ps sqq oF, 5, ctxS oF, sd' oF, _, rfl, by decide +kernel⟩,
    ⟨so { op oF with flagWaits := true }, 5, { op oF with flagWaits := true }, by decide +kernel⟩,
    ⟨so (op oR), 5, op oR, by decide +kernel⟩,
    ⟨so { op oR with awaitingRoute := true }, 5, { op oR with awaitingRoute := true }, by decide +kernel⟩,
    ⟨so { op oRf with awaitingRoute := true }, 5, { op oRf with awaitingRoute := true }, by decide +kernel⟩,
    ⟨so { op oR with missed := [⟨10, 20⟩] }, 5, { op oR with missed := [⟨10, 20⟩] }, ⟨10, 20⟩, by decide +kernel⟩,
    ⟨put (so (op oR)) fR, fR, by decide +kernel⟩,
    ⟨put (so (op oR)) fD, .own, fD, op oR, by decide +kernel⟩⟩

theorem test_witness_StorkTargetCompletes :
    (∃ (s : State) (a : Arrival) (f : Frame) (u : State), u = takeArrival s a f ∧ frDst f = chipId s ∧
      winFenced u (frWindow f) = false ∧ (getWin u (frWindow f)).sealed = false ∧ frSealed f = false ∧
      (∀ c ∈ u.stork.coal, c.arrival = a → coalKey c f = true) ∧ isStork f 1 = true ∧ frCurlew f = false) ∧
    (∃ (s : State) (a : Arrival) (f : Frame) (u : State), u = takeArrival s a f ∧ frDst f = chipId s ∧
      winFenced u (frWindow f) = false ∧ (getWin u (frWindow f)).sealed = false ∧ frSealed f = false ∧
      (∀ c ∈ u.stork.coal, c.arrival = a → coalKey c f = true) ∧ isStork f 5 = true) ∧
    (∃ (s : State) (a : Arrival) (f : Frame) (u : State), u = takeArrival s a f ∧ frDst f = chipId s ∧
      winFenced u (frWindow f) = false ∧ (getWin u (frWindow f)).sealed = false ∧ frSealed f = false ∧
      (∀ c ∈ u.stork.coal, c.arrival = a → coalKey c f = true) ∧ isStork f 2 = true ∧ leField f.payload 0 8 ≤ 0x40000) ∧
    (∃ (s : State) (a : Arrival) (c : _), s.stork.coal.find? (fun c => c.arrival = a) = some c) ∧
    (∃ (s : State) (y : _) (rest : _), s.stork.stall = y :: rest) ∧
    (∃ (s : State) (a : Arrival) (p : _), s.stork.parts.find? (fun p => p.arrival = a) = some p) :=
  ⟨⟨put sqq fW, .own, fW, _, rfl, by decide +kernel⟩,
    ⟨put sqq fF, .own, fF, _, rfl, by decide +kernel⟩,
    ⟨put sqq fQ, .own, fQ, _, rfl, by decide +kernel⟩,
    ⟨modStork sqq (fun k => { k with coal := [co] }), .own, co, by decide +kernel⟩,
    ⟨modStork sqq (fun k => { k with stall := [stl] }), stl, [], by decide +kernel⟩,
    ⟨modStork sqq (fun k => { k with parts := [pw] }), .own, pw, by decide +kernel⟩⟩

theorem test_witness_KeyCommandsComplete :
    (∃ (s : State) (a : Access) (data : Word), reaches s a .keys .keys = true ∧ bitsOf data.toNat 31 24 = 0xA5 ∧
      s.stork.keyJob = none ∧ (getPage s .keys).enable = true ∧ bitsOf data.toNat 9 8 = 1) ∧
    (∃ (s : State) (a : Access) (data : Word), reaches s a .keys .keys = true ∧ bitsOf data.toNat 31 24 = 0xA5 ∧
      s.stork.keyJob = none ∧ (getPage s .keys).enable = true ∧ bitsOf data.toNat 9 8 = 2) ∧
    (∃ (s : State) (slot : _), s.stork.keyJob = some (slot, true) ∧ s.stork.keyHeld = false) ∧
    (∃ (s : State) (slot : _), s.stork.keyJob = some (slot, false) ∧ s.stork.keyHeld = false) :=
  ⟨⟨r0, {fn := 0}, 0xA5000103, by decide +kernel⟩,
    ⟨r0, {fn := 0}, 0xA5000203, by decide +kernel⟩,
    ⟨modStork r0 (fun k => { k with keyJob := some (3, true) }), 3, by decide +kernel⟩,
    ⟨modStork r0 (fun k => { k with keyJob := some (3, false) }), 3, by decide +kernel⟩⟩

end W7

namespace W8

def le (n v : Nat) : List Byte := leBytes n v
def r0 : State := ready
def d512 (b : List Byte) : BitVec 512 := BitVec.ofNat 512 (leNat b)
def rdb (op grp kind fl sc b5 b67 src src2 dst : Nat) : BitVec 512 :=
  d512 ([op,grp,kind,fl,sc,b5].map (BitVec.ofNat 8) ++ le 2 b67 ++ le 8 src ++ le 8 src2 ++ le 8 dst ++ le 32 0)
def rd' (d : BitVec 512) : RDesc := rDesc (leBytes 64 d.toNat)
def ctxR (d : BitVec 512) : Ctx := { owner := .ring 0 0 0, kind := .relay, part := 0, desc := some d }
def pr (s : State) (d : BitVec 512) : State := { s with ctxs := [(5, ctxR d)] }
def lk : State := modPort (putReg (putReg r0 (.baton 0) 0x048 0x0201) (.baton 0) 0x050 0x123456) 0 (fun p => { p with st := .up, peerChip := 1, peerPort := 0, peerMac := 0xABCDEF })
def solo : State := devWrite r0 none 0 1 0x2000 (withMark false (le 32 1))
def stg (s : State) : State := putReg (putReg s (.core 0 0) 0x064 1) (.core 0 0) 0x068 0x40
def cr : BitVec 512 := rdb 1 3 0 0 0 0 1 (0x2000 + 2^62) 0 0
def grp (x : GroupSt) : RGroup := { st := x, members := 3, epoch := 1, root := 0, childPorts := 1, stageSize := 0x80000 }
def lg (x : GroupSt) : State := setGrp lk 3 (grp x)
def sp : BitVec 512 := rdb 2 3 0 0 0 0 0 (0x2000 + 2^62) 0 0
def rf : BitVec 512 := rdb 3 3 0 0 0 0 0 0 0 0
def di : BitVec 512 := rdb 4 3 0 0 0 0 0 0 0 0
def peer : State := putReg lk .global 0x040 1
def rF (kind form g ep step : Nat) (rest : List Byte) (pl : List Byte) : Frame :=
  mkFrame peer 0 2 0 0 (le 1 kind ++ le 1 (form * 64 + g) ++ le 2 ep ++ le 4 step ++ rest) pl
def stp (ph : StepPhase) : StepState := { number := 0, tag := some 5, desc := 0, core := none, part := 0, phase := ph, children := [{ port := 0 }] }
def ga (ph : StepPhase) : State := setGrp lk 3 { grp .active with step := some (stp ph) , links := [⟨0, 4, 4, 0, 4, 0⟩]}
def rx (s : State) (c : Fin 3) (f : Frame) : State := modCls s 0 c (fun x => { x with rxbuf := [f] })
def fc := rF 1 0 3 1 0 [] []
def fe := rF 4 0 3 1 0 [] []
def fd := rF 5 0 3 1 0 [] []
def fr := rF 6 0 3 1 0 [] []
def mF (msg : Nat) (pl : List Byte) : Frame := mkFrame peer 0 0 0 0 ([3, BitVec.ofNat 8 msg, 3, 0] ++ le 2 1) pl
def fu := rF 2 2 3 1 0 (le 4 0) (le 8 4 ++ le 8 77)
def su : State := modPort (ga .up) 0 (fun p => { p with readyChunks := [⟨[fu], none, false, [], 0⟩] })
def fw := rF 3 2 3 1 0 (le 4 0) (le 8 4 ++ le 8 77)
def sdn : State := modPort (setGrp lk 3 { grp .active with parent := some 0, childPorts := 0, step := some (stp .down) }) 0 (fun p => { p with readyChunks := [⟨[fw], none, false, [], 0⟩] })
def slave : State := putReg lk .global 0x040 1
def arm (s : State) : State := modGun s (fun g => { g with st := .armed })
def dm (msg v x : Nat) : Frame := setHb (setHb (detMsg lk 0 msg v x) 8 1 0) 9 1 1

theorem test_witness_RelayCommandsComplete :
    (∃ (s : State) (tag : BitVec 12) (x : Ctx) (d : RDesc) (u : State) (v : State) (set : BitVec 256),
      u = startCtx s tag.toNat ∧ v = (devRead u (ctxCore x) x.part (fieldSpace d.src) (fieldAddr d.src) 32).2 ∧
      set = BitVec.ofNat 256 (leNat (plain (devRead u (ctxCore x) x.part (fieldSpace d.src) (fieldAddr d.src) 32).1)) ∧
      relayPosted s tag.toNat 1 x d = true ∧ (getGrp u d.group).st = .free ∧ complOk x d.compl = true ∧ d.kind = 0 ∧
      d.flags = 0 ∧ d.scale = 0 ∧ d.cap = 0 ∧ d.count = 0 ∧ d.aux = 0 ∧ d.b54 = 0 ∧ d.src2 < 2 ^ 24 ∧
      rSpaceOk ((ctxCore x).map (·.val)) d.src = true ∧
      devCheck u (ctxCore x) x.part (fieldSpace d.src) (fieldAddr d.src) 32 false = stOk ∧
      anyMark (devRead u (ctxCore x) x.part (fieldSpace d.src) (fieldAddr d.src) 32).1 = false ∧
      inSet set (chipId v) = true ∧ stagingOk v x d = true ∧
      (getPage v (.core (coreFin (partBase v x.part + d.b5)) 0)).fenced = false) ∧
    (∃ (s : State) (tag : BitVec 12) (x : Ctx) (d : RDesc) (u : State), u = startCtx s tag.toNat ∧
      relayPosted s tag.toNat 2 x d = true ∧ groupOver u (d.group % 64) = false) ∧
    (∃ (s : State) (tag : BitVec 12) (x : Ctx) (d : RDesc) (u : State), u = startCtx s tag.toNat ∧
      relayPosted s tag.toNat 3 x d = true ∧ bareOk x d = true ∧
      ((getGrp u d.group).st = .ready ∨ (getGrp u d.group).st = .active)) ∧
    (∃ (s : State) (tag : BitVec 12) (x : Ctx) (d : RDesc) (u : State), u = startCtx s tag.toNat ∧
      relayPosted s tag.toNat 4 x d = true ∧ bareOk x d = true ∧ (getGrp u d.group).st ≠ .free ∧
      (getGrp u d.group).dissolving = none) ∧
    (∃ (s : State) (g : Fin 64) (t : _), dissolvable (getGrp s g) = true ∧ (getGrp s g).dissolving = some t ∧
      (getGrp s g).posted = []) :=
  ⟨⟨pr (stg solo) cr, 5, ctxR cr, rd' cr, _, _, _, rfl, rfl, rfl, by decide +kernel⟩,
    ⟨pr (lg .ready) sp, 5, ctxR sp, rd' sp, _, rfl, by decide +kernel⟩,
    ⟨pr (lg .ready) rf, 5, ctxR rf, rd' rf, _, rfl, by decide +kernel⟩,
    ⟨pr (lg .ready) di, 5, ctxR di, rd' di, _, rfl, by decide +kernel⟩,
    ⟨setGrp lk 3 { grp .ready with dissolving := some 9 }, 3, 9, by decide +kernel⟩⟩

theorem test_witness_RelayFramesComplete :
    (∃ (f : Frame), frKind f = 0 ∧ frClass f = 2 ∧ frRelayKind f = 1) ∧
    (∃ (f : Frame), frKind f = 0 ∧ frClass f = 2 ∧ frRelayKind f = 4) ∧
    (∃ (f : Frame), frKind f = 0 ∧ frClass f = 2 ∧ frRelayKind f = 5) ∧
    (∃ (f : Frame), frKind f = 0 ∧ frClass f = 2 ∧ frRelayKind f = 6) ∧
    (∃ (f : Frame), frKind f = 0 ∧ frClass f = 0 ∧ hb f 16 1 = 3 ∧ hb f 17 1 = 1) ∧
    (∃ (f : Frame), frKind f = 0 ∧ frClass f = 0 ∧ hb f 16 1 = 3 ∧ hb f 17 1 = 2) ∧
    (∃ (f : Frame), frKind f = 0 ∧ frClass f = 0 ∧ hb f 16 1 = 3 ∧ hb f 17 1 = 3) ∧
    (∃ (s : State) (m : Fin 8) (g : _) (st : _) (r : _) (u : _), isChild (getGrp u g) m.val = true ∧ st.phase = .up ∧
      (chunkFits s m 2 g st r u)) ∧
    (∃ (s : State) (m : Fin 8) (g : _) (st : _) (r : _) (u : _), (getGrp u g).parent = some m.val ∧ st.phase = .down ∧
      (chunkFits s m 3 g st r u)) :=
  ⟨⟨fc, by decide +kernel⟩,
    ⟨fe, by decide +kernel⟩,
    ⟨fd, by decide +kernel⟩,
    ⟨fr, by decide +kernel⟩,
    ⟨mF 1 [], by decide +kernel⟩,
    ⟨mF 2 [], by decide +kernel⟩,
    ⟨mF 3 [], by decide +kernel⟩,
    ⟨su, 0, 3, stp .up, ⟨[fu], none, false, [], 0⟩, modPort su 0 (fun p => { p with readyChunks := [] }),
      by decide +kernel, by decide +kernel, ⟨_, _, rfl, by decide +kernel⟩⟩,
    ⟨sdn, 0, 3, stp .down, ⟨[fw], none, false, [], 0⟩, modPort sdn 0 (fun p => { p with readyChunks := [] }),
      by decide +kernel, by decide +kernel, ⟨_, _, rfl, by decide +kernel⟩⟩⟩

theorem test_witness_RelayTimersComplete :
    (∃ (s : State) (g : Fin 64) (x : RGroup), x = getGrp s g ∧ x.st = .reforming ∧ x.candidates = none) ∧
    (∃ (s : State) (g : Fin 64) (x : RGroup) (set : _), x = getGrp s g ∧ x.st = .reforming ∧ x.candidates = some set) ∧
    (∃ (s : State) (g : Fin 64) (x : RGroup) (t : _), x = getGrp s g ∧ x.st = .forming ∧ x.creating = some t) ∧
    (∃ (s : State) (g : Fin 64) (x : RGroup) (st : _), x = getGrp s g ∧ x.st = .active ∧ x.step = some st ∧
      st.phase = .count ∧ x.parent = none) ∧
    (∃ (s : State) (g : Fin 64) (x : RGroup) (m : Fin 8) (st : _) (l : _), x = getGrp s g ∧ x.st = .active ∧
      x.step = some st ∧ st.phase ≠ .count ∧ x.links.find? (fun l => l.port = m.val) = some l) :=
  ⟨⟨lg .reforming, 3, _, rfl, by decide +kernel⟩,
    ⟨setGrp lk 3 { grp .reforming with candidates := some 3 }, 3, _, 3, rfl, by decide +kernel⟩,
    ⟨setGrp lk 3 { grp .forming with creating := some 3 }, 3, _, 3, rfl, by decide +kernel⟩,
    ⟨ga .count, 3, _, stp .count, rfl, by decide +kernel⟩,
    ⟨ga .up, 3, _, 0, stp .up, ⟨0, 4, 4, 0, 4, 0⟩, rfl, by decide +kernel⟩⟩

theorem test_witness_GunCommandsComplete :
    (∃ (s : State) (a : Access), reaches s a .global .global = true) ∧
    (∃ (s : State) (v : _), s.pfRequest = some v ∧ s.gun.st ≠ .armed) ∧
    (∃ (s : State) (a : Access) (data : Word), reaches s a .determinism .determinism = true ∧
      data.toNat.testBit 0 = true ∧ data.toNat.testBit 1 = false) ∧
    (∃ (s : State) (a : Access) (data : Word), reaches s a .determinism .determinism = true ∧
      data.toNat.testBit 1 = true ∧ isMaster s = false) ∧
    (∃ (s : State), s.gun.st = .armed ∧ s.gun.ready = false ∧ coresReady s = true ∧ isMaster s = false) ∧
    (∃ (s : State), s.gun.st = .armed ∧ isMaster s = true ∧ s.gun.fireAt = none) ∧
    (∃ (s : State), s.gun.st = .armed ∧ s.gun.fireAt = none) ∧
    (∃ (s : State) (now : Nat) (i : _), s.gun.st = .armed ∧ s.gun.fireAt = some i ∧ i ≤ now) ∧
    (∃ (s : State) (f : Frame), frDst f = chipId s ∧ isDetMsg f 1 = true) ∧
    (∃ (s : State) (m : Fin 8) (f : Frame) (u : State) (d : _), u = takeHead s m 0 f ∧ frDst f = chipId s ∧
      isDetMsg f 2 = true ∧ u.gun.st = .armed ∧ (getPort s m).delay = some d ∧ d ≤ detValue f) ∧
    (∃ (s : State) (f : Frame), frDst f = chipId s ∧ isDetMsg f 3 = true) ∧
    (∃ (s : State) (f : Frame), frDst f = chipId s ∧ isDetMsg f 4 = true) ∧
    (∃ (s : State) (m : Fin 8) (f : Frame) (u : State) (t1 : _), u = takeHead s m 0 f ∧ frDst f = chipId s ∧
      isDetMsg f 5 = true ∧ (getPort u m).delayT1 = some t1 ∧ (getPort u m).lastRetx = false) ∧
    (∃ (s : State) (m : Fin 8), isUp s m = true) :=
  ⟨⟨lk, {fn := 0}, by decide +kernel⟩,
    ⟨{ lk with pfRequest := some true }, true, by decide +kernel⟩,
    ⟨lk, {fn := 0}, 1, by decide +kernel⟩,
    ⟨slave, {fn := 0}, 2, by decide +kernel⟩,
    ⟨{ arm slave with cores := Vector.replicate 16 {} }, by decide +kernel⟩,
    ⟨arm lk, by decide +kernel⟩,
    ⟨arm lk, by decide +kernel⟩,
    ⟨modGun (arm lk) (fun g => { g with fireAt := some 70}), 100, 70, by decide +kernel⟩,
    ⟨rx (arm lk) 0 (dm 1 0 0), dm 1 0 0, by decide +kernel⟩,
    ⟨modPort (rx (arm lk) 0 (dm 2 500 0)) 0 (fun p => { p with delay := some 30}), 0, dm 2 500 0, _, 30, rfl,
      by decide +kernel⟩,
    ⟨rx (arm lk) 0 (dm 3 0 0), dm 3 0 0, by decide +kernel⟩,
    ⟨rx (arm lk) 0 (dm 4 0 0), dm 4 0 0, by decide +kernel⟩,
    ⟨modPort (rx (arm lk) 0 (dm 5 40 0)) 0 (fun p => { p with delayT1 := some 30}), 0, dm 5 40 0, _, 30, rfl,
      by decide +kernel⟩,
    ⟨lk, 0, by decide +kernel⟩⟩

end W8

namespace W9

def le (n v : Nat) : List Byte := leBytes n v
def r0 : State := ready
def d512 (b : List Byte) : BitVec 512 := BitVec.ofNat 512 (leNat b)
def lk : State := modPort (putReg (putReg r0 (.baton 0) 0x048 0x0201) (.baton 0) 0x050 0x123456) 0 (fun p => { p with st := .up, peerChip := 1, peerPort := 0, peerMac := 0xABCDEF })
def rx (s : State) (c : Fin 3) (f : Frame) : State := modCls s 0 c (fun x => { x with rxbuf := [f] })
def pc : State := modPacer lk (fun p => { p with enable := true, st := .running, window := 9 })
def bell : PacedBell := ⟨0, 2, false, 5, 0, some (0, 5)⟩
def dig : State := modPacer pc (fun p => { p with localDigests := [(4, 77)], peerDigests := [(4, 78)] })
def dm (msg v x : Nat) : Frame := setHb (setHb (detMsg lk 0 msg v x) 8 1 0) 9 1 1
def rc (mode : Nat) : State := putReg r0 .determinism 0x0C0 mode
def rcg : State := let s := putReg (rc 1) .determinism 0x0C4 0x100; { s with recorder := { s.recorder with st := .recording, count := 3 } }
def rp (r : RecInput) (held : List HeldInput) : State :=
  let s := rc 2
  { s with recorder := { st := .replaying, count := 0, total := 3, held := held },
           hbm := (s.hbm.write (hbmAddr s 0 (recBase s + 64)) (le 16 0 ++ le 1 r.kind ++ le 1 r.source ++ le 2 0 ++ le
      4 r.arg0.toNat ++ le 8 r.arg1.toNat)) }
def hb1 : HeldInput := .doorbell 0 2 false 9
def rcf : Nat := 0x0000660
def rg : State := putReg r0 (.queues 0) (ringReg 3 0x10) rcf
def rge : State := modRing rg 0 3 (fun k => { k with enable := true, sqTail := 1, phase := true })
def bm (s : State) : State := modFn s 0 (fun f => { f with busMaster := true })
def cx : Ctx := { owner := .ring 0 3 0, kind := .host, part := 0, desc := some 0, result := some { code := 0 } }
def hc (d : BitVec 512) : Ctx := { owner := .ring 0 3 0, kind := .host, part := 0, desc := some d }
def hs (d : BitVec 512) : State := { (bm (putReg { r0 with cores := Vector.replicate 16 {} } (.queues 0) (ringReg 3 0x10) 0x661)) with ctxs := [(5, hc d)] }
def dcp (a b len : Nat) : BitVec 512 := d512 (le 8 1 ++ le 8 a ++ le 8 b ++ le 8 len ++ le 32 0)
def cp1 := dcp 0x5000 (0x2000 + 2^62) 64
def cp2 := dcp (0x2000 + 2^62) 0x5000 64
def la : BitVec 512 := d512 (le 8 2 ++ le 2 3 ++ le 2 0 ++ le 2 0x10 ++ le 50 0)
def rep : BitVec 512 := d512 (le 8 3 ++ le 1 1 ++ le 1 1 ++ le 54 0)
def bt (r : Nat) : State := putReg r0 .bittern 0x040 r
def pn : State := modPanel r0 (fun p => { p with drawDue := true, redrawPending := true })
def copy1 : RecordCopy := let b : List Byte := [0x4C, 0x7E, 1, 0] ++ leBytes 4 1 ++ List.replicate 240 0; ⟨b ++ leBytes 4 (crc32c b) ++ [0, 0, 0, 0]⟩
def pnc : State := modMgmt r0 (fun m => { m with sectorA := some copy1 })

theorem test_witness_PacerCommandsComplete :
    (∃ (s : State) (a : Access) (data : Word), reaches s a .determinism .determinism = true ∧
      data.toNat.testBit 0 = true ∧ s.pacer.enable = false) ∧
    (∃ (s : State) (a : Access) (data : Word), reaches s a .determinism .determinism = true ∧
      data.toNat.testBit 0 = false ∧ s.pacer.enable = true) ∧
    (∃ (s : State), s.pacer.st = .running) ∧
    (∃ (s : State) (p : Fin 4) (r : Fin 16) (b : _) (low : _), s.pacer.st = .running ∧
      s.pacer.bells.find? (fun b => b.part = p.val && b.ring = r.val) = some b ∧ b.partner = some (low, b.value) ∧
      max b.frame (partnerFrame b.frame low) ≤ frameCount s) ∧
    (∃ (s : State) (w : _) (d : _) (rest : _) (e : _), s.pacer.st = .running ∧ s.pacer.localDigests = (w, d) :: rest ∧
      w + 5 ≤ s.pacer.window.toNat ∧ s.pacer.peerDigests.find? (fun x => x.1 = w % 2 ^ 32) = some (w % 2 ^ 32, e)) ∧
    (∃ (s : State) (m : Fin 8) (f : Frame) (u : State), u = takeHead s m 0 f ∧ u.pacer.st = .running ∧
      frDst f = chipId s ∧ isDetMsg f 7 = true ∧ u.pacer.bells = []) ∧
    (∃ (s : State) (m : Fin 8) (f : Frame) (u : State), u = takeHead s m 0 f ∧ u.pacer.st = .running ∧
      frDst f = chipId s ∧ isDetMsg f 6 = true ∧ u.pacer.localDigests = []) :=
  ⟨⟨lk, {fn := 0}, 0x00640001, by decide +kernel⟩,
    ⟨pc, {fn := 0}, 0, by decide +kernel⟩,
    ⟨pc, by decide +kernel⟩,
    ⟨modPacer pc (fun p => { p with bells := [bell] }), 0, 2, bell, 0, by decide +kernel⟩,
    ⟨dig, 4, 77, [], 78, by decide +kernel⟩,
    ⟨rx pc 0 (dm 7 0 0x50200), 0, dm 7 0 0x50200, _, rfl, by decide +kernel⟩,
    ⟨rx pc 0 (dm 6 99 4), 0, dm 6 99 4, _, rfl, by decide +kernel⟩⟩

theorem test_witness_RecorderCommandsComplete :
    (∃ (s : State) (a : Access) (data : Word), reaches s a .determinism .determinism = true ∧
      bitsOf data.toNat 1 0 = regOf s .determinism 0x0C0 ∧ data.toNat.testBit 5 = false ∧ data.toNat.testBit 4 = true ∧
      recBusy s = false ∧ regOf s .determinism 0x0C0 = 1) ∧
    (∃ (s : State) (a : Access) (data : Word), reaches s a .determinism .determinism = true ∧
      bitsOf data.toNat 1 0 = regOf s .determinism 0x0C0 ∧ data.toNat.testBit 5 = false ∧ data.toNat.testBit 4 = true ∧
      recBusy s = false ∧ regOf s .determinism 0x0C0 = 2) ∧
    (∃ (s : State) (a : Access) (data : Word), reaches s a .determinism .determinism = true ∧
      bitsOf data.toNat 1 0 = regOf s .determinism 0x0C0 ∧ data.toNat.testBit 5 = true) ∧
    (∃ (s : State), s.recorder.st = .recording) ∧
    (∃ (s : State) (r : RecInput) (h : _), r = recAt s s.recorder.count ∧ s.recorder.st = .replaying ∧ r.kind ≠ 4 ∧
      candidate s r = some h ∧ (inputOf h).arg1 = r.arg1) ∧
    (∃ (s : State) (r : RecInput), r = recAt s s.recorder.count ∧ s.recorder.st = .replaying ∧ r.kind = 4) ∧
    (∃ (s : State) (r : RecInput), r = recAt s s.recorder.count ∧ s.recorder.st = .replaying ∧ r.kind ≠ 4 ∧
      candidate s r = none) :=
  ⟨⟨rc 1, {fn := 0}, 0x11, by decide +kernel⟩,
    ⟨rc 2, {fn := 0}, 0x12, by decide +kernel⟩,
    ⟨rc 1, {fn := 0}, 0x21, by decide +kernel⟩,
    ⟨rcg, by decide +kernel⟩,
    ⟨rp ⟨1, 0, 2, 9⟩ [hb1], _, hb1, rfl, by decide +kernel⟩,
    ⟨rp ⟨4, 0, 2, 9⟩ [hb1], _, rfl, by decide +kernel⟩,
    ⟨rp ⟨1, 0, 2, 9⟩ [], _, rfl, by decide +kernel⟩⟩

theorem test_witness_RingCommandsComplete :
    (∃ (s : State) (a : Access) (p : Fin 4), reaches s a (.queues p) (.queues p) = true) ∧
    (∃ (s : State) (a : Access) (p : Fin 4) (r : Fin 16) (data : Word), reaches s a (.queues p) (.queues p) = true ∧
      data.toNat.testBit 0 = true ∧ data.toNat &&& 0x13F0FF6 = ringCfg s p r ∧ (getRing s p r).enable = false ∧
      (getRing s p r).fault = false ∧ ringRunning s p r = false ∧ ringCfgOk data.toNat = true) ∧
    (∃ (s : State) (a : Access) (p : Fin 4) (r : Fin 16) (data : Word), reaches s a (.queues p) (.queues p) = true ∧
      data.toNat.testBit 0 = false ∧ data.toNat &&& 0x13F0FF6 = ringCfg s p r) ∧
    (∃ (s : State) (p : Fin 4) (q : _) (tag : _), s.power.phase = .ready ∧ s.repart = none ∧
      (getPage s (.queues p)).enable = true ∧ quiesced (getPage s (.queues p)) = false ∧ busMaster s p = true ∧
      nextRing s p = some q ∧ freeTag s p = some tag) ∧
    (∃ (s : State) (p : Fin 4) (r : Fin 16) (tag : BitVec 12) (x : _) (res : _) (slot : _),
      mget s.ctxs tag.toNat = some x ∧ x.owner = .ring p r slot ∧ x.result = some res ∧ (getRing s p r).fault = false ∧
      busMaster s p = true ∧ cqFree s p r = true) ∧
    (∃ (s : State) (p : Fin 4) (r : Fin 16), (ringCfg s p r).testBit 24 = true ∧
      bitsOf (regOf s (.queues p) (ringReg r 0x14)) 19 8 ≠ 0 ∧ (getRing s p r).unreported ≠ 0) :=
  ⟨⟨r0, {fn := 0}, 0, by decide +kernel⟩,
    ⟨rg, {fn := 0}, 0, 3, 0x661, by decide +kernel⟩,
    ⟨rge, {fn := 0}, 0, 3, 0x660, by decide +kernel⟩,
    ⟨bm rge, 0, 3, 0, by decide +kernel⟩,
    ⟨{ bm rge with ctxs := [(0, cx)] }, 0, 3, 0, cx, { code := 0 }, 0, by decide +kernel⟩,
    ⟨putReg (putReg (modRing rge 0 3 (fun k => { k with unreported := 2 })) (.queues 0) (ringReg 3 0x10) 0x1000661)
      (.queues 0) (ringReg 3 0x14) 0x100, 0, 3, by decide +kernel⟩⟩

theorem test_witness_HostCommandsComplete :
    (∃ (s : State) (tag : BitVec 12) (x : Ctx) (d : BitVec 512), hostCtx s tag.toNat = some (x, d) ∧ hostOp d = 0 ∧
      unusedZero d [] = true) ∧
    (∃ (s : State) (tag : BitVec 12) (x : Ctx) (d : BitVec 512), hostCtx s tag.toNat = some (x, d) ∧ hostOp d = 1 ∧
      copyShapeOk d = true ∧ busMaster s x.part = true ∧ copyDevice s x.part d = stOk ∧ copySpace d 8 = 0) ∧
    (∃ (s : State) (tag : BitVec 12) (x : Ctx) (d : BitVec 512), hostCtx s tag.toNat = some (x, d) ∧ hostOp d = 1 ∧
      copyShapeOk d = true ∧ busMaster s x.part = true ∧ copyDevice s x.part d = stOk ∧ copySpace d 8 ≠ 0) ∧
    (∃ (s : State) (tag : BitVec 12) (x : Ctx) (d : BitVec 512) (u : _),
      u = launchAll (startCtx s tag.toNat) (launchCores s x.part d) (fld d 111 96) ∧ hostCtx s tag.toNat = some (x, d) ∧
      hostOp d = 2 ∧ x.started = false ∧ unusedZero d [(8, 9), (12, 13)] = true ∧ fld d 111 96 < 0x4000 ∧
      fld d 79 64 < 2 ^ partCount s x.part ∧ (∀ c ∈ launchCores s x.part d, shownSt (getCore s c) = .idle ∧
      (getCore s c).resetPending = false ∧ (getPage s (.core c 0)).enable = true) ∧
      launched u (launchCores s x.part d) = true) ∧
    (∃ (s : State) (tag : BitVec 12) (x : Ctx) (d : BitVec 512), hostCtx s tag.toNat = some (x, d) ∧ hostOp d = 3 ∧
      s.repart = none ∧ repartRefusal s x tag.toNat d = none) ∧
    (∃ (s : State) (x : Ctx) (n : _) (day : _) (zero : _) (p : _) (r : _) (slot : _), s.repart = some (n, day, zero) ∧
      mget s.ctxs n = some x ∧ x.owner = .ring p r slot ∧ (getRing s p r).fault = false ∧ busMaster s p = true ∧
      cqFree s p r = true) :=
  ⟨⟨hs 0, 5, hc 0, 0, by decide +kernel⟩,
    ⟨hs cp1, 5, hc cp1, cp1, by decide +kernel⟩,
    ⟨hs cp2, 5, hc cp2, cp2, by decide +kernel⟩,
    ⟨hs la, 5, hc la, la, _, rfl, by decide +kernel⟩,
    ⟨hs rep, 5, hc rep, rep, by decide +kernel⟩,
    ⟨{ hs rep with repart := some (5, true, true) }, hc rep, 5, true, true, 0, 3, 0, by decide +kernel⟩⟩

theorem test_witness_BitternSamplesComplete :
    (∃ (s : State) (c : Fin 4) (inputs : _) (k : _) (v : _) (f : _), k = chainStep (getChan s c).chain inputs ∧
      v = modChan s c (fun ch => { ch with chain := k }) ∧ f = formSample v c (chainOut (hpfEn s) k) ∧
      s.power.aux = true ∧ chanEnabled s c = true ∧ f.2.2 = 0 ∧ bitReg s 0x068 ≠ 4 ∧ bitReg s 0x068 ≠ 5) ∧
    (∃ (s : State), 256 ≤ s.bittern.frame.length ∧ (∀ x ∈ s.bittern.frame.take 256, x.isSome = true)) ∧
    (∃ (s : State) (u : _), u = endFrame s ∧ 1024 ≤ u.bittern.block.length ∧
      (∀ x ∈ u.bittern.block.take 1024, x.isSome = true)) ∧
    (∃ (s : State), s.power.aux = true) ∧
    (∃ (s : State), s.bittern.ringState = .postfill) ∧
    (∃ (s : State) (i : Fin 2) (c : Fin 4), c.val = 2 + i.val ∧ (bitReg s 0x044).testBit (4 + i.val) = true) ∧
    (∃ (s : State), pdmClockRuns s = true ∧ s.bittern.pdmStuck = false) :=
  ⟨⟨bt 15, 2, List.replicate 192 100, _, _, _, rfl, rfl, rfl, by decide +kernel⟩,
    ⟨modBit (bt 15) (fun b => { b with frame := List.replicate 256 (some 300) }), by decide +kernel⟩,
    ⟨modBit (bt 15) (fun b => { b with block := List.replicate 1024 (some 300) }), _, rfl, by decide +kernel⟩,
    ⟨bt 15, by decide +kernel⟩,
    ⟨modBit (bt 15) (fun b => { b with ringState := .postfill }), by decide +kernel⟩,
    ⟨putReg (bt 15) .bittern 0x044 0x30, 1, 3, by decide +kernel⟩,
    ⟨bt 15, by decide +kernel⟩⟩

theorem test_witness_BitternCommandsComplete :
    (∃ (s : State) (a : Access), reaches s a .bittern .bittern = true) ∧
    (∃ (s : State) (a : Access) (data : Word), reaches s a .bittern .bittern = true ∧ data.toNat.testBit 0 = true ∧
      data.toNat.testBit 1 = false) ∧
    (∃ (s : State) (a : Access) (data : Word), reaches s a .bittern .bittern = true ∧ data.toNat.testBit 0 = false ∧
      data.toNat.testBit 1 = true) ∧
    (∃ (s : State) (a : Access) (data : Word), reaches s a .bittern .bittern = true ∧ data.toNat.testBit 0 = true) ∧
    (∃ (s : State) (a : Access) (data : Word), reaches s a .bittern .bittern = true ∧ data.toNat.testBit 0 = false) ∧
    (∃ (s : State) (rq : Requester), readable s rq .bittern = some .bittern ∧ s.bittern.ringState = .frozen ∧
      (bitReg s 0x098).testBit 31 = true) :=
  ⟨⟨bt 15, {fn := 0}, by decide +kernel⟩,
    ⟨bt 15, {fn := 0}, 1, by decide +kernel⟩,
    ⟨bt 15, {fn := 0}, 2, by decide +kernel⟩,
    ⟨bt 15, {fn := 0}, 1, by decide +kernel⟩,
    ⟨bt 15, {fn := 0}, 2, by decide +kernel⟩,
    ⟨modBit (putReg (bt 15) .bittern 0x098 0x80000001) (fun b => { b with ringState := .frozen }), .function 0,
      by decide +kernel⟩⟩

theorem test_witness_PanelCommandsComplete :
    (∃ (s : State) (new : List Byte), new = panelBytes s ((committedSeq s + 1) % 2 ^ 32) ∧ mgmtRuns s = true ∧
      s.power.vitalFailed ≠ some .bootFlash ∧ recordChanged s new = true ∧ s.mgmt.erasing = false) ∧
    (∃ (s : State), panelDraws s = true ∧ s.mgmt.panel.drawDue = true) ∧
    (∃ (s : State) (n : _), s.mgmt.panel.drawing = some n ∧ n < 3) ∧
    (∃ (s : State), s.mgmt.panel.drawing = some 3) ∧
    (∃ (s : State) (n : _), s.mgmt.panel.drawing = some n) ∧
    (∃ (s : State) (c : _), panelDraws s = true ∧ s.mgmt.panel.redrawPending = true ∧ committed s = some c ∧
      leField c.bytes 252 1 = 0) ∧
    (∃ (s : State) (a : Access) (data : Word), reaches s a .panel .panel = true ∧ data.toNat.testBit 0 = true) ∧
    (∃ (s : State) (rq : Requester), readable s rq .panel = some .panel) :=
  ⟨⟨r0, _, rfl, by decide +kernel⟩,
    ⟨pn, by decide +kernel⟩,
    ⟨modPanel r0 (fun p => { p with drawing := some 2 }), 2, by decide +kernel⟩,
    ⟨modPanel r0 (fun p => { p with drawing := some 3 }), by decide +kernel⟩,
    ⟨modPanel r0 (fun p => { p with drawing := some 2 }), 2, by decide +kernel⟩,
    ⟨modPanel pnc (fun p => { p with redrawPending := true }), copy1, by decide +kernel⟩,
    ⟨pn, {fn := 0}, 1, by decide +kernel⟩,
    ⟨pn, .function 0, by decide +kernel⟩⟩

theorem test_witness_SmbusCommandsComplete :
    (∃ (s : State) (r : SmbusRead), mgmtRuns s = true ∧ r.wrongPec = false) ∧
    (∃ (s : State) (r : SmbusRead) (c : _), mgmtRuns s = true ∧ r.wrongPec = false ∧ committed s = some c) ∧
    (∃ (s : State) (w : BitVec 16), mgmtRuns s = true ∧ (getPage s .panel).lock = false ∧ 300 ≤ w.toNat ∧
      w.toNat ≤ s.power.maxPowerLimit) ∧
    (∃ (s : State) (code : _), mgmtRuns s = true ∧ smbusListed code = false) :=
  ⟨⟨r0, {}, by decide +kernel⟩,
    ⟨pnc, {}, copy1, by decide +kernel⟩,
    ⟨r0, 300, by decide +kernel⟩,
    ⟨r0, 7, by decide +kernel⟩⟩

end W9

namespace W10

def wx (op rd ra co ch fn imm : Nat) : DWord := wi op rd ra (co*16+ch) (fn * 2^24 + imm)
def ke : Core := { k0 with sregs := (((sr.set 1 0x8000).set 2 0x1000).set 3 4).set 4 0x10 }
def ms : State := withCore ke
def pf : State := { ms with pfActive := true }
def ms4 : State := { ms with mesh := List.replicate 4 ⟨0,1,5,[],[]⟩ }
def ms2 : State := { ms with cores := ms.cores.set 0 { ke with msgs := [⟨1,0,5,leBytes 64 77,[true,false]⟩] } }

theorem test_witness_VariableInstructionsTrap :
    (∃ (s : State) (c : Fin 16) (w : DWord) (i : Instr) (op : Nat), ((i = .rdcyc c w ∧ op = 0x0B ∧
      fnI w = 0) ∨ (i = .recvAny c w ∧ op = 0x7A ∧ fnX w = 0) ∨ (i = .msgProbe c w ∧ op = 0x7B ∧
      fnX w = 0) ∨ (i = .waitFirst c w ∧ op = 0x82 ∧ fnI w = 0) ∨ (i = .test c w ∧ op = 0x83 ∧
      fnI w = 0) ∨ (i = .cmatom c w ∧ op = 0x88 ∧ fnM w < 3 ∧ dtOk (dtM w) = true)) ∧ s.pfActive = true ∧
      (getCore s c).st = .running ∧ withheld s = false ∧ (getCore s c).waiting = none ∧
      (getCore s c).pc.toNat < 0x20000 ∧ (getCore s c).pc.toNat % 8 = 0 ∧ (getCore s c).pendingTrap = none ∧ fOp w = op ∧
      regsOk w = true) :=
  ⟨pf, 0, wi 0x0B 1 0 0 0, .rdcyc 0 (wi 0x0B 1 0 0 0), 0x0B, by decide +kernel⟩

theorem test_witness_PredicatedOffHasNoEffect :
    (∃ (s : State) (i : Instr) (c : Fin 16) (w : DWord), i.issued = some (c, w) ∧ laneWise (fOp w) = false ∧
      predHolds (getCore s c) w = false) :=
  ⟨withCore { ke with preds := Vector.replicate 8 0 }, .add 0 (wd 0 1 2 3 0 0x70000 + 0x0010000000000000#64), 0, wd 0 1 2 3 0 0x70000 + 0x0010000000000000#64, by decide +kernel⟩

theorem test_witness_PartialWritesAreDropped :
    (∃ (s : State) (a : Access) (addr : BitVec 26) (pg : PageId) (p : PageId), a.be ≠ 0xF ∧ pageAt addr.toNat = some pg ∧
      resolve s a.fn pg = some p) :=
  ⟨ready, {fn := 0, be := 3}, 0x123, .global, .global, by decide +kernel⟩

theorem test_witness_ThrottleWithholdsIssue :
    (∃ (s : State) (i : Instr) (c : Fin 16) (w : DWord), i.issued = some (c, w) ∧ frameCount s % 8 < s.mgmt.throttle) ∧
    (∃ (s : State) (i : Instr) (c : Fin 16) (w : DWord), i.issued = some (c, w) ∧ s.mgmt.throttle = 8) ∧
    (∃ (s : State) (c : Fin 16), s.pending = [] ∧ s.power.released = true ∧ coreRuns (getCore s c) = true ∧
      withheld (bump s .clock 0) = true ∧ ctrOf s (.core c 0) 5 ≠ BitVec.allOnes 64) :=
  ⟨⟨modMgmt ms (fun m => { m with throttle := 3 }), .add 0 0, 0, 0, by decide +kernel⟩,
    ⟨modMgmt ms (fun m => { m with throttle := 8 }), .add 0 0, 0, 0, by decide +kernel⟩,
    ⟨modMgmt ms (fun m => { m with throttle := 8 }), 0, by decide +kernel⟩⟩

theorem test_witness_MessageCredits :
    (∃ (s : State) (c : Fin 16) (d : Fin 16) (w : DWord), fnX w = 0 ∧ peerCore s c (coreX w) = some d ∧
      spadCheck s c 64 (addrX (getCore s c) w) 64 = none ∧ mayIssue s c w 0x78 false = true ∧ isFenced s d = false ∧
      creditsUsed s c d (chanX w) < 4) ∧
    (∃ (s : State) (c : Fin 16) (d : Fin 16) (w : DWord), fnX w = 0 ∧ peerCore s c (coreX w) = some d ∧
      spadCheck s c 64 (addrX (getCore s c) w) 64 = none ∧ mayIssue s c w 0x78 false = true ∧ isFenced s d = false ∧
      4 ≤ creditsUsed s c d (chanX w)) ∧
    (∃ (s : State) (c : Fin 16) (d : Fin 16) (w : DWord) (m : _) (ms : _), fnX w = 0 ∧ peerCore s c (coreX w) = some d ∧
      spadCheck s c 64 (addrX (getCore s c) w) 64 = none ∧ mayIssue s c w 0x79 false = true ∧
      (getCore s c).msgs = m :: ms ∧ m.src = d.val ∧ m.dst = c.val ∧ m.chan = chanX w) :=
  ⟨⟨ms, 0, 1, wx 0x78 0 2 1 5 0 0, by decide +kernel⟩,
    ⟨ms4, 0, 1, wx 0x78 0 2 1 5 0 0, by decide +kernel⟩,
    ⟨ms2, 0, 1, wx 0x79 0 2 1 5 0 0, ⟨1,0,5,leBytes 64 77,[true,false]⟩, [], by decide +kernel⟩⟩

end W10

end Sys2Proof.Tests
end

/-! Register writes that are dropped (R119) and the acknowledgement of a captured error (R110): look-up in a sparse map that
need not be canonical, then the stored register words, the write gate, BAD_ACCESS and the interrupt state of a page. -/

namespace Sys2Proof.Machine

open Sys2Proof

/-! ## Look-up below a changed key

A change at a key leaves smaller keys alone in every list, so no canonical form is asked for. -/

section
variable {α : Type}

theorem mget_mput_of_lt (m : SMap α) {i j : Nat} (x : α) (h : i < j) : mget (mput m j x) i = mget m i := by
  induction m with
  | nil => simp [mput, mget, h, h.ne]
  | cons a t ih =>
    simp only [mput]
    split
    · simp only [mget, ← ‹j = a.1›, if_neg h.ne, if_pos h]
    · split
      · simp only [mget, if_neg h.ne, if_pos h, if_neg (by omega : i ≠ a.1), if_pos (by omega : i < a.1)]
      · simp only [mget, ih]

theorem mget_mdel_of_lt {m : SMap α} {i j : Nat} {v : α} (h : i < j) (hv : mget m i = some v) :
    mget (mdel m j) i = some v := by
  induction m with
  | nil => simp [mget] at hv
  | cons a t ih =>
    have hle : a.1 ≤ i := by
      by_contra hlt
      rw [mget, if_neg (by omega), if_pos (by omega)] at hv
      exact absurd hv (by simp)
    simp only [mdel, if_neg (by omega : j ≠ a.1), if_neg (by omega : ¬ j < a.1)]
    by_cases hi : i = a.1
    · simpa only [mget, if_pos hi] using hv
    · simp only [mget, if_neg hi, if_neg (by omega : ¬ i < a.1)] at hv ⊢
      exact ih hv

theorem mget_mputD_of_lt [DecidableEq α] {m : SMap α} {i j : Nat} {v : α} (d x : α) (h : i < j)
    (hv : mget m i = some v) : mget (mputD m d j x) i = some v := by
  unfold mputD
  split
  · exact mget_mdel_of_lt h hv
  · rw [mget_mput_of_lt m x h, hv]

theorem mget_mputD_self_of_ne [DecidableEq α] (m : SMap α) {d x : α} (i : Nat) (h : x ≠ d) :
    mget (mputD m d i x) i = some x := by
  rw [mputD, if_neg h, mget_mput_self]

end

/-! ## Stored register words -/

/-- The word an unwritten register reads as. -/
def resetWord (pg : PageId) (off : Nat) : Nat := (regRow (pageType pg) off).elim 0 (·.rst)

theorem getPage_putReg_regs (s : State) (pg : PageId) (off v : Nat) :
    (getPage (putReg s pg off v) pg).regs =
      mputD (getPage s pg).regs (BitVec.ofNat 32 (resetWord pg off)) off (BitVec.ofNat 32 v) := by
  simp [putReg, resetWord]

theorem regOf_of_mget {s : State} {pg : PageId} {off : Nat} {w : Word} (h : mget (getPage s pg).regs off = some w) :
    regOf s pg off = w.toNat := by
  simp [regOf, pageReg, h]

theorem regOf_putReg_of_ne (s : State) {a b : PageId} (off v i : Nat) (h : b ≠ a) :
    regOf (putReg s a off v) b i = regOf s b i := by
  simp [regOf, putReg, getPage_modPage_of_ne _ _ h]

theorem regOf_lt (s : State) {pg : PageId} {off : Nat} (h : resetWord pg off < 2 ^ 32) : regOf s pg off < 2 ^ 32 := by
  simp only [regOf, pageReg]
  split
  · exact BitVec.isLt _
  · exact h

/-! ## BAD_ACCESS and BAD_ACCESS_ADDR (R119, R128) -/

/-- The count that a dropped write leaves: one more, saturating at the width of the register. -/
theorem count_saturates (s : State) :
    (if regOf s .global 0x070 = 0xFFFFFFFF then regOf s .global 0x070 else regOf s .global 0x070 + 1) =
      min (regOf s .global 0x070 + 1) 0xFFFFFFFF := by
  have hlt : regOf s .global 0x070 < 2 ^ 32 := regOf_lt s (by decide)
  split <;> omega

theorem ofNat_ne_zero {v : Nat} (h0 : v ≠ 0) (h : v < 2 ^ 32) : BitVec.ofNat 32 v ≠ 0 := by
  intro hz
  have hv : v % 2 ^ 32 = 0 := congrArg BitVec.toNat hz
  omega

theorem getPage_badAccess_regs (s : State) (addr : Nat) :
    (getPage (badAccess s addr) .global).regs =
      mputD (mputD (getPage s .global).regs 0 0x070 (BitVec.ofNat 32 (min (regOf s .global 0x070 + 1) 0xFFFFFFFF))) 0 0x074
        (BitVec.ofNat 32 (addr % 2 ^ 26)) := by
  have hc : BitVec.ofNat 32 (resetWord .global 0x070) = 0 := rfl
  have ha : BitVec.ofNat 32 (resetWord .global 0x074) = 0 := rfl
  simp only [badAccess]
  rw [getPage_putReg_regs, getPage_putReg_regs, count_saturates, hc, ha]

theorem regOf_badAccess_count (s : State) (addr : Nat) :
    regOf (badAccess s addr) .global 0x070 = min (regOf s .global 0x070 + 1) 0xFFFFFFFF := by
  have hne : BitVec.ofNat 32 (min (regOf s .global 0x070 + 1) 0xFFFFFFFF) ≠ 0 := by
    apply ofNat_ne_zero <;> omega
  have hget := mget_mputD_self_of_ne (getPage s .global).regs 0x070 hne
  rw [regOf_of_mget (by rw [getPage_badAccess_regs]; exact mget_mputD_of_lt _ _ (by decide) hget), BitVec.toNat_ofNat]
  omega

theorem regOf_badAccess_addr (s : State) {addr : Nat} (h0 : addr ≠ 0) (h : addr < 2 ^ 26) :
    regOf (badAccess s addr) .global 0x074 = addr := by
  have hne : BitVec.ofNat 32 (addr % 2 ^ 26) ≠ 0 := by
    apply ofNat_ne_zero <;> omega
  rw [regOf_of_mget (by rw [getPage_badAccess_regs]; exact mget_mputD_self_of_ne _ _ hne), BitVec.toNat_ofNat]
  omega

theorem regOf_badAccess_of_ne (s : State) (addr : Nat) {pg : PageId} (off : Nat) (h : pg ≠ .global) :
    regOf (badAccess s addr) pg off = regOf s pg off := by
  simp only [badAccess]
  rw [regOf_putReg_of_ne _ _ _ _ h, regOf_putReg_of_ne _ _ _ _ h]

@[simp] theorem badAccess_cores (s : State) (addr : Nat) : (badAccess s addr).cores = s.cores := by
  simp [badAccess]

/-! ## The write gate (R97, R119) -/

/-- The page of `o`, if there is one, begins at BAR0 page number `i`. -/
def LiesAt (i : Nat) (o : Option PageId) : Prop := ∀ pg ∈ o, pageBase pg = i * 0x1000

theorem liesAt_none (i : Nat) : LiesAt i none := by simp [LiesAt]

theorem liesAt_some {i : Nat} {pg : PageId} : LiesAt i (some pg) ↔ pageBase pg = i * 0x1000 := by simp [LiesAt]

theorem liesAt_dite {i : Nat} {c : Prop} [Decidable c] {f : c → PageId} :
    LiesAt i (if h : c then some (f h) else none) ↔ ∀ h : c, pageBase (f h) = i * 0x1000 := by
  by_cases h : c <;> simp [LiesAt, h]

/-- `pageAt` inverts the page map, range by range of page numbers (R94). -/
theorem liesAt_pageAt (addr : Nat) : LiesAt (addr / 0x1000) (pageAt addr) := by
  simp only [pageAt]
  generalize addr / 0x1000 = i
  repeat' refine iteInduction (motive := LiesAt i) (fun _ => ?_) (fun _ => ?_)
  all_goals
    simp only [liesAt_none, liesAt_some, liesAt_dite, pageBase, coreFin, portFin, stackFin, sliceFin, partFin] <;>
    omega

theorem pageBase_of_pageAt {addr : Nat} {pg : PageId} (h : pageAt addr = some pg) :
    pageBase pg = addr / 0x1000 * 0x1000 :=
  liesAt_pageAt addr pg h

theorem gated_partial {s : State} {a : Access} {pg p : PageId} (off : Nat) (k : PageId → State)
    (hp : resolve s a.fn pg = some p) (hbe : a.be ≠ 0xF) : gated s a pg off k = badAccess s (pageBase pg + off) := by
  have hpart : (a.be != 0xF) = true := bne_iff_ne.2 hbe
  simp only [gated, hp, hpart, Bool.true_or, if_true]

theorem gated_reaches {s : State} {a : Access} {pg p : PageId} (off : Nat) (k : PageId → State)
    (h : reaches s a pg p = true) : gated s a pg off k = k p := by
  simp only [reaches, Bool.and_eq_true, decide_eq_true_eq] at h
  obtain ⟨⟨hp, hbe⟩, hfn⟩ := h
  have hopen : (a.be != 0xF || (chipOwned pg && a.fn != 0)) = false := by
    cases hc : chipOwned pg with
    | false => simp [hbe]
    | true => simpa [hbe, hc] using hfn
  simp only [gated, hp, hopen, Bool.false_eq_true, if_false]

theorem execIrqRouteWrite_partial {s : State} {a : Access} {p : PageId} (index : Fin 128) (data : Word)
    (hp : resolve s a.fn .global = some p) (hbe : a.be ≠ 0xF) :
    execIrqRouteWrite a index data s = .next (badAccess s (0x200 + 4 * index.val)) := by
  have hpart : (a.be != 0xF) = true := bne_iff_ne.2 hbe
  simp only [execIrqRouteWrite, hp, hpart, if_true]

theorem execRegisterWrite_partial {s : State} {a : Access} {addr : BitVec 26} {pg p : PageId} (data : Word)
    (hpg : pageAt addr.toNat = some pg) (hp : resolve s a.fn pg = some p) (hbe : a.be ≠ 0xF) :
    execRegisterWrite a addr data s = .next (badAccess s (addr.toNat / 4 * 4)) := by
  have hbase := pageBase_of_pageAt hpg
  simp only [execRegisterWrite, hpg]
  split
  · obtain ⟨rfl, hlo, hhi⟩ := ‹pg = .global ∧ _›
    rw [execIrqRouteWrite_partial _ data hp hbe]
    simp only [pageBase] at hbase
    congr 2
    show 0x200 + 4 * ((addr.toNat % 0x1000 / 4 * 4 - 0x200) / 4 % 128) = addr.toNat / 4 * 4
    omega
  · rw [gated_partial _ _ hp hbe, hbase]
    congr 2
    omega

/-! ## The interrupt state of a page and its captured error (R107 to R110) -/

@[simp] theorem sendMsi_pages (s : State) (fn : Fin 4) (v : Nat) : (sendMsi s fn v).pages = s.pages := by
  simp only [sendMsi]
  split
  · rfl
  · split <;> rfl

@[simp] theorem deliverSrc_pages (s : State) (src : Nat) : (deliverSrc s src).pages = s.pages := by
  simp only [deliverSrc]
  split
  · rw [sendMsi_pages]
  · rfl

@[simp] theorem getPage_deliverSrc (s : State) (src : Nat) (pg : PageId) :
    getPage (deliverSrc s src) pg = getPage s pg := by
  simp [getPage]

/-- A message that the change of a page's line sends leaves the page as the change made it. -/
@[simp] theorem getPage_updIrq_self (s : State) (pg : PageId) (f : Page → Page) :
    getPage (updIrq s pg f) pg = f (getPage s pg) := by
  simp only [updIrq]
  split
  · rw [getPage_deliverSrc, getPage_setPage_self]
  · rw [getPage_setPage_self]

/-- A page as an acknowledged error leaves it: nothing captured. -/
def noErrorHeld (p : Page) : Prop := p.error = false ∧ p.errCode = 0 ∧ p.errInfo0 = 0 ∧ p.errInfo1 = 0

theorem clearIrq_noErrorHeld (s : State) (pg : PageId) {m : Word} (h : m.toNat.testBit 0 = true) :
    noErrorHeld (getPage (clearIrq s pg m) pg) := by
  simp [noErrorHeld, clearIrq, h]

/-- A page that holds no error captures the next failure (R108). -/
theorem captureError_captures {s : State} {pg : PageId} {code : Byte} (detail i0 i1 : Nat)
    (hfree : (getPage s pg).error = false) (hfail : isFailure code = true) :
    (getPage (captureError s pg code detail i0 i1) pg).error = true ∧
      (getPage (captureError s pg code detail i0 i1) pg).errCode =
        BitVec.ofNat 32 (code.toNat + (detail % 65536) * 256) := by
  simp [captureError, hfail, hfree]

theorem execIrqStatusClear_reaches {s : State} {a : Access} {pg p : PageId} (data : Word)
    (h : reaches s a pg p = true) : execIrqStatusClear a pg data s = .next (clearIrq s p data) := by
  rw [execIrqStatusClear, gated_reaches _ _ h]

/-! ## The obligations -/

/-- Settles O48: the gate drops the write at every page that answers, and each clause is a law of `badAccess`. -/
theorem partialWritesAreDropped : Obligations.PartialWritesAreDropped := by
  unfold Obligations.PartialWritesAreDropped
  rintro s a addr data pg p t hbe hpg hp rfl
  have haddr : addr.toNat / 4 * 4 < 2 ^ 26 := by have := addr.isLt; omega
  exact ⟨execRegisterWrite_partial data hpg hp hbe, regOf_badAccess_count s _,
    fun h0 => regOf_badAccess_addr s h0 haddr, badAccess_cores s _, fun _ off hq => regOf_badAccess_of_ne s _ off hq⟩

/-- Settles O49: the acknowledged page holds no error, so it captures the next failure. -/
theorem errorAcknowledgeRearms : Obligations.ErrorAcknowledgeRearms := by
  unfold Obligations.ErrorAcknowledgeRearms
  intro s a pg p data hreach hbit
  obtain ⟨herror, hcode, hinfo0, hinfo1⟩ := clearIrq_noErrorHeld s p hbit
  exact ⟨clearIrq s p data, execIrqStatusClear_reaches data hreach, herror, hcode, hinfo0, hinfo1,
    fun _ detail i0 i1 hfail => captureError_captures detail i0 i1 herror hfail⟩

end Sys2Proof.Machine

/-! Variable instructions (R157) and message credits (R177): what counters, interrupts, captured errors and drawn free values
can change, then what a trap leaves, what a core's retirement keeps of the messages, and the credits of a triple. -/

namespace Sys2Proof.Machine

open Sys2Proof

/-! ## Events on the register pages -/

/-- `t` is `s` after events that only a register page or the host sees: interrupts and counters of the pages, MSI-X messages,
drawn free values.  No register word, core, unit or memory has changed. -/
structure OnlyEvents (s t : State) : Prop where
  rest : t = { s with pages := t.pages, fns := t.fns, out := t.out, edges := t.edges, freeIdx := t.freeIdx }
  regs : ∀ pg off, regOf t pg off = regOf s pg off

namespace OnlyEvents

theorem refl (s : State) : OnlyEvents s s := ⟨rfl, fun _ _ => rfl⟩

theorem trans {s t u : State} (h : OnlyEvents s t) (h' : OnlyEvents t u) : OnlyEvents s u := by
  refine ⟨?_, fun pg off => (h'.regs pg off).trans (h.regs pg off)⟩
  rw [h'.rest, h.rest]

theorem cores {s t : State} (h : OnlyEvents s t) : t.cores = s.cores := by rw [h.rest]

theorem mesh {s t : State} (h : OnlyEvents s t) : t.mesh = s.mesh := by rw [h.rest]

theorem getCore {s t : State} (h : OnlyEvents s t) (c : Fin 16) : getCore t c = getCore s c := by
  simp only [Machine.getCore, h.cores]

/-- A change that leaves the pages alone, and of the rest only what the host sees. -/
theorem of_pages {s t : State} (hpages : t.pages = s.pages)
    (hrest : t = { s with pages := t.pages, fns := t.fns, out := t.out, edges := t.edges, freeIdx := t.freeIdx }) :
    OnlyEvents s t :=
  ⟨hrest, fun pg off => by simp only [regOf, getPage, hpages]⟩

theorem setPage {s : State} {pg : PageId} {p : Page} (h : p.regs = (getPage s pg).regs) :
    OnlyEvents s (setPage s pg p) := by
  refine ⟨rfl, fun q off => ?_⟩
  by_cases hq : q = pg
  · subst hq
    simp only [regOf, pageReg, getPage_setPage_self, h]
  · simp only [regOf, getPage_setPage_of_ne _ _ hq]

theorem bump (s : State) (pg : PageId) (i n : Nat) : OnlyEvents s (bump s pg i n) := by
  refine ⟨?_, fun q off => regOf_bump s pg q i n off⟩
  unfold Machine.bump
  split <;> rfl

theorem drawFree (s : State) : OnlyEvents s (drawFree s).2 := of_pages rfl rfl

theorem sendMsi (s : State) (fn : Fin 4) (v : Nat) : OnlyEvents s (sendMsi s fn v) := by
  refine of_pages (sendMsi_pages s fn v) ?_
  simp only [Machine.sendMsi]
  split
  · rfl
  · split <;> rfl

theorem deliverSrc (s : State) (src : Nat) : OnlyEvents s (deliverSrc s src) := by
  simp only [Machine.deliverSrc]
  split
  · refine trans ?_ (sendMsi _ _ _)
    exact of_pages rfl rfl
  · exact refl s

theorem updIrq (s : State) (pg : PageId) {f : Page → Page} (hf : ∀ p, (f p).regs = p.regs) :
    OnlyEvents s (updIrq s pg f) := by
  simp only [Machine.updIrq]
  split
  · exact (setPage (hf _)).trans (deliverSrc _ _)
  · exact setPage (hf _)

theorem levelIrq (s : State) (pg : PageId) (bit : Nat) (v : Bool) : OnlyEvents s (levelIrq s pg bit v) := by
  unfold Machine.levelIrq
  exact updIrq s pg fun _ => by rfl

theorem captureError (s : State) (pg : PageId) (code : Byte) (detail i0 i1 : Nat) :
    OnlyEvents s (captureError s pg code detail i0 i1) := by
  unfold Machine.captureError
  split
  · exact refl s
  · exact updIrq s pg fun _ => by dsimp only; split <;> rfl

theorem captureOpen1 (s : State) (pg : PageId) (code : Byte) (detail i0 : Nat) :
    OnlyEvents s (captureOpen1 s pg code detail i0) :=
  (drawFree s).trans (captureError _ _ _ _ _ _)

theorem captureOpen (s : State) (pg : PageId) (code : Byte) (detail : Nat) :
    OnlyEvents s (captureOpen s pg code detail) :=
  (drawFree s).trans (captureOpen1 _ _ _ _ _)

theorem keepsRest {s t : State} (h : OnlyEvents s t) (c : Fin 16) : keepsRest s t c := by
  have hregs := h.regs
  rw [h.rest] at hregs ⊢
  simp [Machine.keepsRest, Machine.getCore, hregs]

end OnlyEvents

theorem keepsRest_trans {s t u : State} {c : Fin 16} (h : keepsRest s t c) (h' : keepsRest t u c) : keepsRest s u c := by
  simp only [keepsRest] at h h' ⊢
  simp +contextual [h, h']

/-! ## Traps (R184 to R186) -/

theorem takeTrap_onlyEvents (s : State) (c : Fin 16) (w : DWord) (cause code shared addr : Nat) :
    OnlyEvents (modCore s c (fun k => trapped k w cause (code % 65536) (addr % 2 ^ 24)))
      (takeTrap s c w cause code shared addr) := by
  have hirq := fun t : State => (OnlyEvents.levelIrq t (.core c 0) 2 false).trans (.levelIrq _ (.core c 0) 1 true)
  unfold takeTrap
  split
  · exact (hirq _).trans (.captureOpen1 _ _ _ _ _)
  · exact (hirq _).trans (.captureOpen _ _ _ _)

theorem getCore_takeTrap (s : State) (c : Fin 16) (w : DWord) (cause code shared addr : Nat) :
    getCore (takeTrap s c w cause code shared addr) c =
      trapped (getCore s c) w cause (code % 65536) (addr % 2 ^ 24) := by
  rw [(takeTrap_onlyEvents s c w cause code shared addr).getCore, getCore_modCore_self]

theorem keepsRest_modCore_trapped (s : State) (c : Fin 16) (w : DWord) (cause code addr : Nat) :
    keepsRest s (modCore s c (fun k => trapped k w cause code addr)) c := by
  have hother : ∀ d, d ≠ c → getCore (modCore s c (fun k => trapped k w cause code addr)) d = getCore s d :=
    fun _ hd => getCore_modCore_of_ne s _ hd
  simp only [keepsRest, getCore_modCore_self, trapped]
  exact ⟨hother, by simp [regOf, getPage]⟩

theorem takeTrap_keepsRest (s : State) (c : Fin 16) (w : DWord) (cause code shared addr : Nat) :
    keepsRest s (takeTrap s c w cause code shared addr) c :=
  keepsRest_trans (keepsRest_modCore_trapped s c w cause _ _) ((takeTrap_onlyEvents s c w cause code shared addr).keepsRest c)

/-! ## The V mark (R157) -/

/-- A V-marked instruction that first issues in Photo-finish mode traps before its predicate, its unit or its effect `a` is
looked at. -/
theorem issue_variable {s : State} {c : Fin 16} {w : DWord} {op : Nat} (a : Act) (hpf : s.pfActive = true)
    (hrun : (getCore s c).st = .running) (hheld : withheld s = false) (hwait : (getCore s c).waiting = none)
    (hpc : (getCore s c).pc.toNat < 0x20000) (halign : (getCore s c).pc.toNat % 8 = 0)
    (hpend : (getCore s c).pendingTrap = none) (hop : fOp w = op) (hdef : opDefined op = true) (hregs : regsOk w = true) :
    issue c op true true w s a = takeTrap (bump s .determinism 6) c w 0x05 0 0x0A 0 := by
  have hoffered : notIssuing s c w = false := by simp [notIssuing, hrun, hheld, hwait]
  simp [issue, hoffered, hpc, halign, hpend, hop, hdef, hregs, hpf, hwait, runAct]

/-- The rows of R152 with the V mark, with their own field checks met. -/
def variableRow (i : Instr) (c : Fin 16) (w : DWord) (op : Nat) : Prop :=
  (i = .rdcyc c w ∧ op = 0x0B ∧ fnI w = 0) ∨ (i = .recvAny c w ∧ op = 0x7A ∧ fnX w = 0) ∨
    (i = .msgProbe c w ∧ op = 0x7B ∧ fnX w = 0) ∨ (i = .waitFirst c w ∧ op = 0x82 ∧ fnI w = 0) ∨
    (i = .test c w ∧ op = 0x83 ∧ fnI w = 0) ∨ (i = .cmatom c w ∧ op = 0x88 ∧ fnM w < 3 ∧ dtOk (dtM w) = true)

theorem exec_variableRow {i : Instr} {c : Fin 16} {w : DWord} {op : Nat} (s : State) (h : variableRow i c w op) :
    opDefined op = true ∧ ∃ legal a, legal = true ∧ exec i s = .next (issue c op true legal w s a) := by
  obtain ⟨rfl, rfl, hfn⟩ | ⟨rfl, rfl, hfn⟩ | ⟨rfl, rfl, hfn⟩ | ⟨rfl, rfl, hfn⟩ | ⟨rfl, rfl, hfn⟩ | ⟨rfl, rfl, hfn, hdt⟩ := h
  case inr.inr.inr.inr.inr => exact ⟨rfl, _, _, by simp [hfn, hdt], rfl⟩
  all_goals exact ⟨rfl, _, _, decide_eq_true hfn, rfl⟩

/-! ## Messages and credits (R174 to R178) -/

@[simp] theorem coreFin_val (d : Fin 16) : coreFin d.val = d := Fin.ext (Nat.mod_eq_of_lt d.isLt)

/-- The credits in use are read from the mesh and from the queues of messages. -/
theorem creditsUsed_congr {s t : State} (hmesh : t.mesh = s.mesh) (hmsgs : ∀ d, (getCore t d).msgs = (getCore s d).msgs)
    (src dst chan : Nat) : creditsUsed t src dst chan = creditsUsed s src dst chan := by
  simp only [creditsUsed, hmesh, hmsgs]

theorem OnlyEvents.creditsUsed {s t : State} (h : OnlyEvents s t) (src dst chan : Nat) :
    creditsUsed t src dst chan = creditsUsed s src dst chan :=
  creditsUsed_congr h.mesh (fun d => by rw [h.getCore]) src dst chan

theorem creditsUsed_modCore (s : State) (c : Fin 16) {f : Core → Core} (hf : ∀ k, (f k).msgs = k.msgs) (src dst chan : Nat) :
    creditsUsed (modCore s c f) src dst chan = creditsUsed s src dst chan := by
  refine creditsUsed_congr (modCore_mesh s c f) (fun d => ?_) src dst chan
  by_cases hd : d = c
  · rw [hd, getCore_modCore_self, hf]
  · rw [getCore_modCore_of_ne s f hd]

theorem retire_onlyEvents (s : State) (c : Fin 16) (v : Bool) :
    OnlyEvents (modCore s c (fun k => { k with waiting := none })) (retire s c v) := by
  unfold retire
  split
  · exact (OnlyEvents.bump _ _ _ _).trans (.bump _ _ _ _)
  · exact .bump _ _ _ _

/-- Completing takes and returns no credit. -/
theorem creditsUsed_finish (s : State) (c : Fin 16) (v : Bool) (src dst chan : Nat) :
    creditsUsed (finish s c v) src dst chan = creditsUsed s src dst chan := by
  rw [finish, advance, creditsUsed_modCore _ _ (fun _ => by rfl), (retire_onlyEvents s c v).creditsUsed,
    creditsUsed_modCore _ _ (fun _ => by rfl)]

theorem creditsUsed_mesh_append (s : State) (m : Msg) :
    creditsUsed { s with mesh := s.mesh ++ [m] } m.src m.dst m.chan = creditsUsed s m.src m.dst m.chan + 1 := by
  simp only [creditsUsed, getCore, List.append_assoc, List.cons_append, List.nil_append, List.filter_append, decide_true,
    Bool.and_self, List.filter_cons_of_pos, List.length_append, List.length_cons]
  omega

theorem creditsUsed_msgs_tail {s : State} {c : Fin 16} {m : Msg} {ms : List Msg} (hq : (getCore s c).msgs = m :: ms)
    (hdst : m.dst = c.val) :
    creditsUsed (modCore s c (fun k => { k with msgs := ms })) m.src c m.chan + 1 = creditsUsed s m.src c m.chan := by
  simp only [creditsUsed, modCore_mesh, coreFin_val, getCore_modCore_self, List.filter_append, List.length_append, hq,
    decide_true, hdst, Bool.and_self, List.filter_cons_of_pos, List.length_cons]
  omega

/-- The message a SEND forms for core `d` (R174, R175). -/
def sentMsg (s : State) (c d : Fin 16) (w : DWord) : Msg :=
  let a := addrX (getCore s c) w
  ⟨c, d, chanX w, spadRead s c a 64, [(getCore s c).spad.marked (a / 32), (getCore s c).spad.marked (a / 32 + 1)]⟩

/-- The state once core `c` has taken the message `m` from the front of its queue, of which `ms` is left (R178). -/
def receivedMsg (s : State) (c : Fin 16) (w : DWord) (m : Msg) (ms : List Msg) : State :=
  bump (spadWriteP (modCore s c (fun k => { k with msgs := ms })) c (addrX (getCore s c) w) (msgBytes m)) (.core c 0) 4

theorem takeMsg_head {s : State} {c : Fin 16} {m : Msg} {ms : List Msg} {p : Msg → Bool} (w : DWord)
    (hq : (getCore s c).msgs = m :: ms) (hp : p m = true) :
    takeMsg s c w p = some (m, receivedMsg s c w m ms) := by
  simp only [takeMsg, hq, takeFirst, hp, if_true, receivedMsg]

section
variable {s : State} {c d : Fin 16} {w : DWord} (hfn : fnX w = 0) (hpeer : peerCore s c (coreX w) = some d)
  (hspad : spadCheck s c 64 (addrX (getCore s c) w) 64 = none)
include hfn hpeer hspad

theorem exec_send_of_credit (hissue : mayIssue s c w 0x78 false = true) (hfence : isFenced s d = false)
    (hcredit : creditsUsed s c d (chanX w) < 4) :
    exec (.send c w) s =
      .next (finish (bump { s with mesh := s.mesh ++ [sentMsg s c d w] } (.core c 0) 3) c false) := by
  show execSend c w s = _
  simp only [execSend, hpeer, msgCheck, hspad, hfence, Bool.false_eq_true, if_false, if_neg (Nat.not_le.2 hcredit)]
  rw [issue_done hissue (decide_eq_true hfn)]
  rfl

theorem exec_send_of_no_credit (hissue : mayIssue s c w 0x78 false = true) (hfence : isFenced s d = false)
    (hcredit : 4 ≤ creditsUsed s c d (chanX w)) :
    exec (.send c w) s = .next (runAct s c w false (.wait s)) := by
  show execSend c w s = _
  simp only [execSend, hpeer, msgCheck, hspad, hfence, Bool.false_eq_true, if_false, if_pos hcredit]
  rw [issue_runs _ hissue (decide_eq_true hfn)]

theorem exec_recv_head {m : Msg} {ms : List Msg} (hissue : mayIssue s c w 0x79 false = true)
    (hq : (getCore s c).msgs = m :: ms) (hsrc : m.src = d.val) (hchan : m.chan = chanX w) :
    exec (.recv c w) s = .next (finish (receivedMsg s c w m ms) c false) := by
  have htake := takeMsg_head (p := fun m => m.src = d.val && m.chan = chanX w) w hq (by simp [hsrc, hchan])
  show execRecv c w s = _
  simp only [execRecv, hpeer, msgCheck, hspad, htake]
  rw [issue_done hissue (decide_eq_true hfn)]

end

theorem mayIssue_waiting {s : State} {c : Fin 16} {w : DWord} {op : Nat} {v : Bool} (h : mayIssue s c w op v = true) :
    ∀ x, (getCore s c).waiting = some x → x.w = w := by
  intro x hx
  by_contra hne
  simp [mayIssue, hx, hne] at h

theorem modCore_eq_self {s : State} {c : Fin 16} {f : Core → Core} (h : f (getCore s c) = getCore s c) :
    modCore s c f = s := by
  have hcores : s.cores.set c (f s.cores[c]) = s.cores := by
    rw [show f s.cores[c] = s.cores[c] from h]
    exact Vector.set_getElem_self c.isLt
  rw [modCore, hcores]

/-- An instruction that waits after its issue changes nothing but what its core waits on (R141). -/
theorem runAct_wait {s : State} {c : Fin 16} {w : DWord} (v : Bool) (hw : ∀ x, (getCore s c).waiting = some x → x.w = w) :
    ∃ x : Waiting, x.w = w ∧ runAct s c w v (.wait s) = modCore s c (fun k => { k with waiting := some x }) := by
  simp only [runAct]
  split
  case isTrue hissued =>
    obtain ⟨x, hx, _⟩ := (Option.any_eq_true _ _).1 hissued
    refine ⟨x, hw x hx, (modCore_eq_self ?_).symm⟩
    rw [← hx]
  case isFalse => exact ⟨_, rfl, rfl⟩

/-- R177: the message that leaves takes a credit of its triple. -/
theorem creditsUsed_sent (s : State) (c d : Fin 16) (w : DWord) :
    creditsUsed (finish (bump { s with mesh := s.mesh ++ [sentMsg s c d w] } (.core c 0) 3) c false) c d (chanX w) =
      creditsUsed s c d (chanX w) + 1 := by
  rw [creditsUsed_finish, (OnlyEvents.bump _ _ _ _).creditsUsed]
  exact creditsUsed_mesh_append s (sentMsg s c d w)

/-- R177: the message that is taken returns the credit of its triple. -/
theorem creditsUsed_received {s : State} {c : Fin 16} {m : Msg} {ms : List Msg} (w : DWord)
    (hq : (getCore s c).msgs = m :: ms) (hdst : m.dst = c.val) :
    creditsUsed (finish (receivedMsg s c w m ms) c false) m.src c m.chan + 1 = creditsUsed s m.src c m.chan := by
  rw [creditsUsed_finish, receivedMsg, (OnlyEvents.bump _ _ _ _).creditsUsed, spadWriteP,
    creditsUsed_modCore _ _ (fun _ => by rfl)]
  exact creditsUsed_msgs_tail hq hdst

/-! ## The obligations -/

/-- Settles O46: each of the six rows issues with the V mark, so it takes the trap, which changes its own core's trap record
and, besides, only what the host sees. -/
theorem variableInstructionsTrap : Obligations.VariableInstructionsTrap := by
  unfold Obligations.VariableInstructionsTrap
  intro s c w i op hrow hpf hrun hheld hwait hpc halign hpend hop hregs
  obtain ⟨hdef, _, a, rfl, hexec⟩ := exec_variableRow s hrow
  rw [issue_variable a hpf hrun hheld hwait hpc halign hpend hop hdef hregs] at hexec
  have hcount : OnlyEvents s (bump s .determinism 6) := .bump _ _ _ _
  refine ⟨_, hexec, ?_, keepsRest_trans (hcount.keepsRest c) (takeTrap_keepsRest _ c w _ _ _ _)⟩
  rw [getCore_takeTrap, hcount.getCore]
  rfl

/-- Settles O51: a message on its way or queued holds its triple's credit, so a SEND adds one and a RECV takes one away. -/
theorem messageCredits : Obligations.MessageCredits := by
  unfold Obligations.MessageCredits
  intro s c d w hfn hpeer hspad
  refine ⟨fun hissue hfence => ⟨fun hcredit => ?_, fun hcredit => ?_⟩, fun m ms hissue hq hsrc hdst hchan => ?_⟩
  · exact ⟨_, exec_send_of_credit hfn hpeer hspad hissue hfence hcredit, creditsUsed_sent s c d w⟩
  · obtain ⟨x, hx, hwaits⟩ := runAct_wait false (mayIssue_waiting hissue)
    refine ⟨_, exec_send_of_no_credit hfn hpeer hspad hissue hfence hcredit, ?_, x, hx, ?_⟩
    · rw [hwaits, modCore_mesh]
    · rw [hwaits, getCore_modCore_self]
  · refine ⟨_, exec_recv_head hfn hpeer hspad hissue hq hsrc hchan, ?_⟩
    rw [← hsrc, ← hchan]
    exact creditsUsed_received w hq hdst

end Sys2Proof.Machine

/-! The throttle (R721, R192): what a command that issues an instruction can do, then a sparse map above a changed key, and a
core's counters over one alignment frame. -/

namespace Sys2Proof.Machine

open Sys2Proof

/-! ## Issue in a withheld frame -/

theorem issue_withheld {s : State} (c : Fin 16) (op : Nat) (v legal : Bool) (w : DWord) (a : Act)
    (h : withheld s = true) : issue c op v legal w s a = s := by
  have hheld : notIssuing s c w = true := by simp [notIssuing, h]
  rw [issue, if_pos hheld]

/-- A command that issues an instruction goes through `issue`, unless its word is a row with the same opcode and another
sub-function, which that row's own command issues. -/
theorem exec_of_issued {i : Instr} {c : Fin 16} {w : DWord} (s : State) (h : i.issued = some (c, w)) :
    ∃ t, exec i s = .next t ∧ (t = s ∨ ∃ op v legal a, t = issue c op v legal w s a) := by
  cases i <;> cases h
  case loop | loopPop | pack | unpack =>
    refine ⟨_, rfl, ?_⟩
    split
    · exact .inl rfl
    · exact .inr ⟨_, _, _, _, rfl⟩
  all_goals exact ⟨_, rfl, .inr ⟨_, _, _, _, rfl⟩⟩

theorem exec_withheld {s : State} {i : Instr} {c : Fin 16} {w : DWord} (hi : i.issued = some (c, w))
    (h : withheld s = true) : exec i s = .next s := by
  obtain ⟨t, ht, rfl | ⟨op, v, legal, a, rfl⟩⟩ := exec_of_issued s hi
  · exact ht
  · rw [ht, issue_withheld c op v legal w a h]

/-! ## Look-up above a changed key

As below it, a change at a key leaves larger keys alone in every list. -/

section
variable {α : Type}

theorem mget_cons_of_gt (a : Nat × α) (t : SMap α) {i : Nat} (h : a.1 < i) : mget (a :: t) i = mget t i := by
  rw [mget, if_neg (by omega), if_neg (by omega)]

theorem mget_mput_of_gt (m : SMap α) {i j : Nat} (x : α) (h : j < i) : mget (mput m j x) i = mget m i := by
  induction m with
  | nil => exact mget_cons_of_gt (j, x) [] h
  | cons a t ih =>
    simp only [mput]
    split
    · next he => rw [mget_cons_of_gt _ _ h, mget_cons_of_gt a t (he ▸ h)]
    · split
      · rw [mget_cons_of_gt _ _ h]
      · simp only [mget, ih]

theorem mget_mdel_of_gt (m : SMap α) {i j : Nat} (h : j < i) : mget (mdel m j) i = mget m i := by
  induction m with
  | nil => rfl
  | cons a t ih =>
    simp only [mdel]
    split
    · next he => rw [mget_cons_of_gt a t (he ▸ h)]
    · split
      · rfl
      · simp only [mget, ih]

theorem mget_mputD_of_gt [DecidableEq α] (m : SMap α) {i j : Nat} (d x : α) (h : j < i) :
    mget (mputD m d j x) i = mget m i := by
  unfold mputD
  split
  · exact mget_mdel_of_gt m h
  · exact mget_mput_of_gt m x h

end

/-! ## Counters (R114, R116) -/

theorem getPage_bump_of_ne (s : State) {a b : PageId} (i n : Nat) (h : b ≠ a) : getPage (bump s a i n) b = getPage s b := by
  unfold bump
  split
  · rfl
  · exact getPage_modPage_of_ne _ _ h

theorem ctrOf_bump_of_gt (s : State) (pg : PageId) {i j : Nat} (n : Nat) (h : j < i) :
    ctrOf (bump s pg j n) pg i = ctrOf s pg i := by
  unfold bump
  split
  · rfl
  · simp only [ctrOf, getPage_modPage_self, mmodD, mgetD, mget_mputD_of_gt _ _ _ h]

/-- A counter that does not wrap to zero counts one more. -/
theorem ctrOf_bump_self {s : State} {pg : PageId} {i : Nat} (h : ctrOf s pg i ≠ BitVec.allOnes 64) :
    ctrOf (bump s pg i) pg i = ctrOf s pg i + 1 := by
  have hne : ctrOf s pg i + 1 ≠ 0 := fun h0 => h ((eq_neg_of_add_eq_zero_left h0).trans BitVec.neg_one_eq_allOnes)
  have hset : mget (getPage (bump s pg i) pg).ctrs i = some (ctrOf s pg i + 1) := by
    rw [bump, if_neg Nat.one_ne_zero, getPage_modPage_self]
    exact mget_mputD_self_of_ne _ i hne
  rw [ctrOf, mgetD, hset, Option.getD_some]

/-! ## One frame over the cores (R85, R721) -/

theorem withheld_congr {s t : State} (hclock : getPage t .clock = getPage s .clock) (hmgmt : t.mgmt = s.mgmt) :
    withheld t = withheld s := by
  rw [withheld, withheld, frameCount, frameCount, ctrOf, ctrOf, hclock, hmgmt]

/-- `t` has the same throttle as `s`, and of core `c` the same state and the same page. -/
structure SameFrameOf (c : Fin 16) (s t : State) : Prop where
  core : getCore t c = getCore s c
  page : getPage t (.core c 0) = getPage s (.core c 0)
  held : withheld t = withheld s

namespace SameFrameOf

theorem refl (c : Fin 16) (s : State) : SameFrameOf c s s := ⟨rfl, rfl, rfl⟩

theorem trans {c : Fin 16} {s t u : State} (h : SameFrameOf c s t) (h' : SameFrameOf c t u) : SameFrameOf c s u :=
  ⟨h'.core.trans h.core, h'.page.trans h.page, h'.held.trans h.held⟩

theorem ctrOf {c : Fin 16} {s t : State} (h : SameFrameOf c s t) (i : Nat) :
    ctrOf t (.core c 0) i = ctrOf s (.core c 0) i := by
  simp only [Machine.ctrOf, h.page]

end SameFrameOf

@[simp] theorem newCycle_cores (s : State) : (newCycle s).cores = s.cores := rfl

@[simp] theorem newCycle_pages (s : State) : (newCycle s).pages = s.pages := rfl

theorem withheld_bump_core (s : State) (c : Fin 16) (i n : Nat) : withheld (bump s (.core c 0) i n) = withheld s :=
  withheld_congr (getPage_bump_of_ne s i n (by simp)) (bump_mgmt s _ i n)

theorem bump_sameFrameOf (s : State) {c d : Fin 16} (i n : Nat) (h : d ≠ c) : SameFrameOf c s (bump s (.core d 0) i n) where
  core := by simp only [getCore, bump_cores]
  page := getPage_bump_of_ne s i n (by simpa using h.symm)
  held := withheld_bump_core s d i n

theorem modCore_sameFrameOf (s : State) {c d : Fin 16} (f : Core → Core) (h : d ≠ c) : SameFrameOf c s (modCore s d f) where
  core := getCore_modCore_of_ne s f h.symm
  page := rfl
  held := withheld_congr rfl rfl

theorem tickCore_sameFrameOf (s : State) {c d : Fin 16} (h : d ≠ c) : SameFrameOf c s (tickCore s d) := by
  have hcycles := (bump_sameFrameOf s 1 6 h).trans (modCore_sameFrameOf _ (fun k => { k with cycles := k.cycles + 6 }) h)
  unfold tickCore
  split
  · dsimp only
    split
    · exact hcycles.trans (bump_sameFrameOf _ 5 1 h)
    · exact hcycles
  · exact .refl c s

theorem foldl_tickCore_sameFrameOf (s : State) {c : Fin 16} {l : List (Fin 16)} (h : c ∉ l) :
    SameFrameOf c s (l.foldl tickCore s) :=
  List.foldlRecOn l tickCore (.refl c s) fun _ ht _ hd => ht.trans (tickCore_sameFrameOf _ fun he => h (he ▸ hd))

theorem ctrOf_tickCore_withheld {s : State} {c : Fin 16} (hrun : coreRuns (getCore s c) = true) (hheld : withheld s = true)
    (hmax : ctrOf s (.core c 0) 5 ≠ BitVec.allOnes 64) :
    ctrOf (tickCore s c) (.core c 0) 5 = ctrOf s (.core c 0) 5 + 1 := by
  have hcycles : ∀ f, withheld (modCore (bump s (.core c 0) 1 6) c f) = true ∧
      ctrOf (modCore (bump s (.core c 0) 1 6) c f) (.core c 0) 5 = ctrOf s (.core c 0) 5 :=
    fun _ => ⟨(withheld_bump_core s c 1 6).trans hheld, ctrOf_bump_of_gt s _ 6 (by decide)⟩
  obtain ⟨hheld', hsame⟩ := hcycles fun k => { k with cycles := k.cycles + 6 }
  rw [tickCore, if_pos hrun, if_pos hheld', ctrOf_bump_self (hsame ▸ hmax), hsame]

/-- Over the frame a core counts once: the cores before and after it leave its page alone. -/
theorem ctrOf_tickCores_withheld {s : State} {c : Fin 16} (hrun : coreRuns (getCore s c) = true) (hheld : withheld s = true)
    (hmax : ctrOf s (.core c 0) 5 ≠ BitVec.allOnes 64) :
    ctrOf ((List.finRange 16).foldl tickCore s) (.core c 0) 5 = ctrOf s (.core c 0) 5 + 1 := by
  obtain ⟨before, after, hsplit⟩ := List.append_of_mem (List.mem_finRange c)
  have hnodup := hsplit ▸ List.nodup_finRange 16
  have hbefore : c ∉ before := fun hc => (List.nodup_append.1 hnodup).2.2 c hc c List.mem_cons_self rfl
  have hafter : c ∉ after := (List.nodup_cons.1 (List.nodup_append.1 hnodup).2.1).1
  have h := foldl_tickCore_sameFrameOf s hbefore
  rw [hsplit, List.foldl_append, List.foldl_cons, (foldl_tickCore_sameFrameOf _ hafter).ctrOf,
    ctrOf_tickCore_withheld (h.core ▸ hrun) (h.held.trans hheld) (h.ctrOf 5 ▸ hmax), h.ctrOf]

/-! ## An upset cell or link leaves the cores' pages (R165, R429) -/

@[simp] theorem freeBytes_pages (n : Nat) (s : State) : (freeBytes n s).2.pages = s.pages := by
  induction n generalizing s with
  | zero => rfl
  | succ n ih => rw [freeBytes, ih, drawFree_pages]

theorem getPage_upset_core (s : State) (c : Fin 16) (j : Fin 6) : getPage (upset s) (.core c j) = getPage s (.core c j) := by
  have hdraw : getPage (drawFree s).2 (.core c j) = getPage s (.core c j) := rfl
  rw [← hdraw]
  unfold upset
  dsimp only
  split
  · rfl
  · split
    case h_4 =>
      split
      · exact getPage_bump_of_ne _ _ _ (by simp)
      · rfl
    case h_1 =>
      split
      · simp [getPage]
      · rfl
    all_goals split <;> simp [getPage]

theorem step_empty_released {s : State} (hq : s.pending = []) (hrel : s.power.released = true) :
    step s = .next ((List.finRange 12).foldl ueFence
      (upset ((List.finRange 16).foldl tickCore (bump (newCycle s) .clock 0)))) := by
  simp only [step, hq, tick, hrel, if_true]

/-- Settles O50: an instruction that issues meets the throttle first, and a core's count over a frame is its own tick's. -/
theorem throttleWithholdsIssue : Obligations.ThrottleWithholdsIssue := by
  unfold Obligations.ThrottleWithholdsIssue
  intro s
  refine ⟨fun i c w hi hlt => ?_, fun i c w hi hlevel => ?_, fun c hq hrel hrun hheld hmax => ?_⟩
  · exact exec_withheld hi (decide_eq_true hlt)
  · exact exec_withheld hi (decide_eq_true (hlevel.symm ▸ Nat.mod_lt _ (by decide : 0 < 8)))
  · have hclock : ctrOf (bump (newCycle s) .clock 0) (.core c 0) 5 = ctrOf s (.core c 0) 5 := by
      rw [ctrOf, getPage_bump_of_ne _ _ _ (by simp), getPage, newCycle_pages, ← getPage, ← ctrOf]
    refine ⟨_, step_empty_released hq hrel, ?_⟩
    rw [ctrOf, getPage_upset_core, ← ctrOf, ctrOf_tickCores_withheld, hclock]
    · rwa [getCore, bump_cores, newCycle_cores]
    · exact hheld
    · exact hclock ▸ hmax

end Sys2Proof.Machine

/-! The invariants of a step (R82 to R84, R608, R714 to R722; the canonical form of the stores) and the queue: what every
command keeps is said of its own meaning in the Laws, so one line per command carries it to `exec`, and `step` adds a frame. -/

namespace Sys2Proof.Machine

open Sys2Proof

section
variable {W : Prop} {q : List Instr} {lb : Bool} {s : State}

/-- Every command keeps the queue, the legality of the power state and the canonical form of the stores. -/
theorem exec_good (i : Instr) (h : Good W q (Legal lb) s) : GoodRes W q (Legal lb) (exec i s) := by
  cases i with
  | standbyPowerUp => exact execStandbyPowerUp_good h
  | mainPowerArrival _ _ => exact execMainPowerArrival_good h
  | railsGood => exact execRailsGood_good h
  | mainPowerLoss => exact execMainPowerLoss_good h
  | thermalTrip => exact execThermalTrip_good h
  | perstAssert => exact execPerstAssert_good h
  | perstDeassert => exact execPerstDeassert_good h
  | linkInitiatedReset => exact execLinkInitiatedReset_good h
  | dividerRelease _ _ => exact execDividerRelease_good h
  | rootLockLoss => exact execRootLockLoss_good h
  | statusReady _ => exact execStatusReady_good h
  | configRequest _ _ _ => exact execConfigRequest_good h
  | d3hotEntry _ => exact execD3hotEntry_good h
  | d0Return _ => exact execD0Return_good h
  | msixUnmask _ _ => exact execMsixUnmask_good h
  | busMasterDisable _ => exact execBusMasterDisable_good h
  | registerWrite _ _ _ => exact execRegisterWrite_good h
  | irqStatusClear _ _ _ => exact execIrqStatusClear_good h
  | irqForce _ _ _ => exact execIrqForce_good h
  | errCountRead _ _ => exact execErrCountRead_good h
  | badAccessRead _ => exact execBadAccessRead_good h
  | counterLowRead _ _ _ => exact execCounterLowRead_good h
  | ctrlEnable _ _ _ => exact execCtrlEnable_good h
  | enableClearOnIdle _ => exact execEnableClearOnIdle_good h
  | ctrlQuiesce _ _ _ => exact execCtrlQuiesce_good h
  | ctrlLock _ _ _ => exact execCtrlLock_good h
  | irqRouteWrite _ _ _ => exact execIrqRouteWrite_good h
  | photoFinish _ _ => exact execPhotoFinish_good h
  | photoFinishActivation => exact execPhotoFinishActivation_good h
  | fullReset _ _ => exact execFullReset_good h
  | unitFence _ => exact execUnitFence_good h
  | mbNop _ => exact execMbNop_good h
  | mbLogInfo _ => exact execMbLogInfo_good h
  | mbReadLog _ => exact execMbReadLog_good h
  | mbReadRecord _ => exact execMbReadRecord_good h
  | mbReadReturnCode _ => exact execMbReadReturnCode_good h
  | mbRemoteIdent _ => exact execMbRemoteIdent_good h
  | remoteIdentTimeout => exact execRemoteIdentTimeout_good h
  | add _ _ => exact execAdd_good h
  | sub _ _ => exact execSub_good h
  | mul _ _ => exact execMul_good h
  | logic _ _ => exact execLogic_good h
  | shift _ _ => exact execShift_good h
  | addi _ _ => exact execAddi_good h
  | cmp _ _ => exact execCmp_good h
  | select _ _ => exact execSelect_good h
  | movi _ _ => exact execMovi_good h
  | rdsr _ _ => exact execRdsr_good h
  | rdcyc _ _ => exact execRdcyc_good h
  | br _ _ => exact execBr_good h
  | call _ _ => exact execCall_good h
  | jr _ _ => exact execJr_good h
  | loop _ _ => exact execLoop_good h
  | loopPop _ _ => exact execLoopPop_good h
  | halt _ _ => exact execHalt_good h
  | haltComplete _ => exact execHaltComplete_good h
  | vadd _ _ => exact execVadd_good h
  | vsub _ _ => exact execVsub_good h
  | vmul _ _ => exact execVmul_good h
  | vfma _ _ => exact execVfma_good h
  | vminmax _ _ => exact execVminmax_good h
  | vunary _ _ => exact execVunary_good h
  | vcmp _ _ => exact execVcmp_good h
  | vsel _ _ => exact execVsel_good h
  | vcvt _ _ => exact execVcvt_good h
  | vbcast _ _ => exact execVbcast_good h
  | vperm _ _ => exact execVperm_good h
  | vbits _ _ => exact execVbits_good h
  | vred _ _ => exact execVred_good h
  | vidx _ _ => exact execVidx_good h
  | vpred _ _ => exact execVpred_good h
  | ld _ _ => exact execLd_good h
  | st _ _ => exact execSt_good h
  | vld _ _ => exact execVld_good h
  | vst _ _ => exact execVst_good h
  | vlds _ _ => exact execVlds_good h
  | vsts _ _ => exact execVsts_good h
  | vgather _ _ => exact execVgather_good h
  | vscatter _ _ => exact execVscatter_good h
  | dmaGo _ _ => exact execDmaGo_good h
  | dmaComplete _ _ => exact execDmaComplete_good h
  | tmma _ _ => exact execTmma_good h
  | tmmaComplete _ => exact execTmmaComplete_good h
  | tmovIn _ _ => exact execTmovIn_good h
  | tmovOut _ _ => exact execTmovOut_good h
  | tzero _ _ => exact execTzero_good h
  | agOpen _ _ => exact execAgOpen_good h
  | agClose _ _ => exact execAgClose_good h
  | agSave _ _ => exact execAgSave_good h
  | agLoad _ _ => exact execAgLoad_good h
  | agChain _ _ => exact execAgChain_good h
  | chainTransferComplete _ _ _ => exact execChainTransferComplete_good h
  | efn _ _ => exact execEfn_good h
  | erow _ _ => exact execErow_good h
  | empld _ _ => exact execEmpld_good h
  | imgDataRead _ _ => exact execImgDataRead_good h
  | spThr _ _ => exact execSpThr_good h
  | spSort _ _ => exact execSpSort_good h
  | spMerge _ _ => exact execSpMerge_good h
  | spLadder _ _ => exact execSpLadder_good h
  | spDrain _ _ => exact execSpDrain_good h
  | fold _ _ => exact execFold_good h
  | conservationCheck _ _ => exact execConservationCheck_good h
  | pack _ _ => exact execPack_good h
  | unpack _ _ => exact execUnpack_good h
  | packHist _ _ => exact execPackHist_good h
  | packCompletion _ => exact execPackCompletion_good h
  | send _ _ => exact execSend_good h
  | messageDelivery _ _ _ => exact execMessageDelivery_good h
  | recv _ _ => exact execRecv_good h
  | recvAny _ _ => exact execRecvAny_good h
  | msgProbe _ _ => exact execMsgProbe_good h
  | rpost _ _ => exact execRpost_good h
  | spost _ _ => exact execSpost_good h
  | fence _ _ => exact execFence_good h
  | wait _ _ => exact execWait_good h
  | waitFirst _ _ => exact execWaitFirst_good h
  | test _ _ => exact execTest_good h
  | barrier _ _ => exact execBarrier_good h
  | cmld _ _ => exact execCmld_good h
  | cmst _ _ => exact execCmst_good h
  | cmadd _ _ => exact execCmadd_good h
  | cmatom _ _ => exact execCmatom_good h
  | gunWait _ _ => exact execGunWait_good h
  | trap _ _ => exact execTrap_good h
  | brk _ _ => exact execBrk_good h
  | waitTimeout _ => exact execWaitTimeout_good h
  | run _ _ => exact execRun_good h
  | stop _ _ => exact execStop_good h
  | coreReset _ _ => exact execCoreReset_good h
  | coreResetComplete _ => exact execCoreResetComplete_good h
  | imemDataHi _ _ _ => exact execImemDataHi_good h
  | chunkCheck _ => exact execChunkCheck_good h
  | linkEnable _ _ _ => exact execLinkEnable_good h
  | retrain _ _ _ => exact execRetrain_good h
  | autonegComplete _ _ => exact execAutonegComplete_good h
  | linkTrainingComplete _ => exact execLinkTrainingComplete_good h
  | fecLock _ => exact execFecLock_good h
  | bringupTimeout _ => exact execBringupTimeout_good h
  | hello _ _ => exact execHello_good h
  | helloTimer _ => exact execHelloTimer_good h
  | idleHello _ => exact execIdleHello_good h
  | liveness _ => exact execLiveness_good h
  | pcsLoss _ => exact execPcsLoss_good h
  | data _ _ => exact execData_good h
  | ack _ _ => exact execAck_good h
  | nak _ _ => exact execNak_good h
  | credit _ _ => exact execCredit_good h
  | pfc _ _ => exact execPfc_good h
  | pause _ => exact execPause_good h
  | pauseExpiry _ _ => exact execPauseExpiry_good h
  | pfcRepeat _ _ => exact execPfcRepeat_good h
  | ackDelayTimer _ _ => exact execAckDelayTimer_good h
  | retransmitTimeout _ _ => exact execRetransmitTimeout_good h
  | dataFrameStart _ _ _ => exact execDataFrameStart_good h
  | frameForward _ _ => exact execFrameForward_good h
  | stallDrop _ _ => exact execStallDrop_good h
  | identReq _ _ => exact execIdentReq_good h
  | identResp _ _ => exact execIdentResp_good h
  | openWindow _ => exact execOpenWindow_good h
  | revoke _ => exact execRevoke_good h
  | bindQueue _ => exact execBindQueue_good h
  | pageReady _ => exact execPageReady_good h
  | pageUnmap _ => exact execPageUnmap_good h
  | storkWrite _ => exact execStorkWrite_good h
  | storkRead _ => exact execStorkRead_good h
  | storkFlag _ => exact execStorkFlag_good h
  | flagSend _ => exact execFlagSend_good h
  | writeData _ _ => exact execWriteData_good h
  | flagFrame _ _ => exact execFlagFrame_good h
  | readReq _ _ => exact execReadReq_good h
  | readData _ _ => exact execReadData_good h
  | response _ _ => exact execResponse_good h
  | responseCoalesceTimer _ => exact execResponseCoalesceTimer_good h
  | stallExpiry => exact execStallExpiry_good h
  | resendRound _ => exact execResendRound_good h
  | progressTimeout _ => exact execProgressTimeout_good h
  | replay _ => exact execReplay_good h
  | routeWaitExpiry _ => exact execRouteWaitExpiry_good h
  | compressedWriteDiscard _ => exact execCompressedWriteDiscard_good h
  | keyLoad _ _ => exact execKeyLoad_good h
  | keyClear _ _ => exact execKeyClear_good h
  | keyOpComplete => exact execKeyOpComplete_good h
  | relayCreate _ => exact execRelayCreate_good h
  | relayStep _ => exact execRelayStep_good h
  | relayReform _ => exact execRelayReform_good h
  | relayDissolve _ => exact execRelayDissolve_good h
  | dissolveRelease _ => exact execDissolveRelease_good h
  | count _ _ => exact execCount_good h
  | up _ _ => exact execUp_good h
  | down _ _ => exact execDown_good h
  | endFrame _ _ => exact execEndFrame_good h
  | doneFrame _ _ => exact execDoneFrame_good h
  | release _ _ => exact execRelease_good h
  | abort _ _ => exact execAbort_good h
  | topo _ _ => exact execTopo_good h
  | commit _ _ => exact execCommit_good h
  | formWait _ => exact execFormWait_good h
  | createWait _ => exact execCreateWait_good h
  | stepWait _ => exact execStepWait_good h
  | leaseExpiry _ _ => exact execLeaseExpiry_good h
  | gunArm _ _ => exact execGunArm_good h
  | gunAbort _ _ => exact execGunAbort_good h
  | gunReady _ => exact execGunReady_good h
  | ready _ _ _ => exact execReady_good h
  | fire _ _ _ => exact execFire_good h
  | gunAbortMessage _ _ => exact execGunAbortMessage_good h
  | gunFire _ => exact execGunFire_good h
  | gunArmWait => exact execGunArmWait_good h
  | gunNoFire => exact execGunNoFire_good h
  | delayMeasurement _ _ => exact execDelayMeasurement_good h
  | delayReq _ _ _ _ => exact execDelayReq_good h
  | delayResp _ _ _ => exact execDelayResp_good h
  | pacerEnable _ _ _ => exact execPacerEnable_good h
  | pacerDisable _ _ => exact execPacerDisable_good h
  | pacerResponseDelivery _ => exact execPacerResponseDelivery_good h
  | pace _ _ => exact execPace_good h
  | pacedDoorbell _ _ => exact execPacedDoorbell_good h
  | pacerWindowEnd _ => exact execPacerWindowEnd_good h
  | digest _ _ => exact execDigest_good h
  | pacerStop => exact execPacerStop_good h
  | recordStart _ _ => exact execRecordStart_good h
  | replayStart _ _ => exact execReplayStart_good h
  | recStop _ _ => exact execRecStop_good h
  | recordCountRewrite => exact execRecordCountRewrite_good h
  | replayRelease => exact execReplayRelease_good h
  | replayInputTimeout => exact execReplayInputTimeout_good h
  | sqDb _ _ _ _ => exact execSqDb_good h
  | cqDb _ _ _ _ => exact execCqDb_good h
  | ringCfgEnable _ _ _ _ => exact execRingCfgEnable_good h
  | ringCfgDisable _ _ _ _ => exact execRingCfgDisable_good h
  | descriptorFetch _ _ => exact execDescriptorFetch_good h
  | completionWrite _ => exact execCompletionWrite_good h
  | coalesceTimer _ _ => exact execCoalesceTimer_good h
  | hostNop _ => exact execHostNop_good h
  | copy _ _ => exact execCopy_good h
  | launch _ => exact execLaunch_good h
  | repartition _ => exact execRepartition_good h
  | repartitionComplete => exact execRepartitionComplete_good h
  | resetRequest _ _ _ => exact execResetRequest_good h
  | drainAck _ _ _ => exact execDrainAck_good h
  | drainPeriodEnd => exact execDrainPeriodEnd_good h
  | gets _ _ => exact execGets_good h
  | getm _ _ => exact execGetm_good h
  | atomic _ _ _ => exact execAtomic_good h
  | putm _ _ _ => exact execPutm_good h
  | puts _ _ => exact execPuts_good h
  | agentFence _ => exact execAgentFence_good h
  | retry _ _ => exact execRetry_good h
  | reservationExpiry _ => exact execReservationExpiry_good h
  | parityError _ _ => exact execParityError_good h
  | stackPhyFail _ => exact execStackPhyFail_good h
  | hbmScrub _ _ => exact execHbmScrub_good h
  | cmScrub _ _ => exact execCmScrub_good h
  | serdesRecalibration _ lane => exact execSerdesRecalibration_good (lane := lane) h
  | sensorCalibration _ => exact execSensorCalibration_good h
  | flashWear _ => exact execFlashWear_good h
  | telemetrySample _ => exact execTelemetrySample_good h
  | bgPause _ _ => exact execBgPause_good h
  | autoResume _ => exact execAutoResume_good h
  | sample _ _ _ => exact execSample_good h
  | bandFrame => exact execBandFrame_good h
  | toneBlock => exact execToneBlock_good h
  | ringBlockWrite => exact execRingBlockWrite_good h
  | postfillEnd => exact execPostfillEnd_good h
  | biasFault _ => exact execBiasFault_good h
  | pdmStuck => exact execPdmStuck_good h
  | levelUpdate => exact execLevelUpdate_good h
  | biasChange _ _ => exact execBiasChange_good h
  | wakeAck _ _ => exact execWakeAck_good h
  | testWake _ _ => exact execTestWake_good h
  | ovrClear _ _ => exact execOvrClear_good h
  | ringEn _ _ => exact execRingEn_good h
  | ringEnClear _ _ => exact execRingEnClear_good h
  | ringRelease _ _ => exact execRingRelease_good h
  | ringDataRead _ => exact execRingDataRead_good h
  | panelCommit => exact execPanelCommit_good h
  | panelDraw => exact execPanelDraw_good h
  | busyFall => exact execBusyFall_good h
  | panelFail => exact execPanelFail_good h
  | panelRedraw => exact execPanelRedraw_good h
  | panelUpdate _ _ => exact execPanelUpdate_good h
  | recordDataRead _ => exact execRecordDataRead_good h
  | headerDetect _ => exact execHeaderDetect_good h
  | getIdent _ => exact execGetIdent_good h
  | getState _ => exact execGetState_good h
  | getDieTemp _ => exact execGetDieTemp_good h
  | getHbmTemp _ => exact execGetHbmTemp_good h
  | getPower _ => exact execGetPower_good h
  | getReturnCode _ => exact execGetReturnCode_good h
  | getRecordLo _ => exact execGetRecordLo_good h
  | getRecordHi _ => exact execGetRecordHi_good h
  | getFaultSummary _ => exact execGetFaultSummary_good h
  | setPowerLimit _ _ => exact execSetPowerLimit_good h
  | smbusUnknownCommand _ _ => exact execSmbusUnknownCommand_good h
  | standbyPowerLoss => exact execStandbyPowerLoss_good h
  | hbmPhyTrainingLoss _ _ => exact execHbmPhyTrainingLoss_good h
  | pdmTransitionsResume => exact execPdmTransitionsResume_good h
  | minimumServiceSetFailure _ => exact execMinimumServiceSetFailure_good h
  | foreignFrame _ _ => exact execForeignFrame_good h
  | classDCompletion _ => exact execClassDCompletion_good h
  -- The case left is `recall`, which is no case name here: Mathlib has a command of that name.
  | _ => exact execRecall_good h

theorem good_of_queue (s : State) : Good False s.pending (Legal false) s :=
  good_iff.2 ⟨rfl, legal_false, False.elim⟩

/-- A step keeps the legality of the power state and the canonical form of the stores, whatever its queue holds. -/
theorem step_good (h : Good W s.pending (Legal lb) s) : ∃ q, GoodRes W q (Legal lb) (step s) := by
  unfold step
  cases hq : s.pending with
  | nil => exact ⟨s.pending, goodRes_next (tick_good h)⟩
  | cons i rest => exact ⟨rest, exec_good i ⟨rfl, h.power, h.hbm, h.cm, h.cores, h.dir, h.pages⟩⟩

end

/-- Settles O57: what every command keeps, asked of the queue alone. -/
theorem commandsLeaveTheQueue : Obligations.CommandsLeaveTheQueue := by
  unfold Obligations.CommandsLeaveTheQueue
  intro i s t ht
  exact (exec_good i (good_of_queue s) t ht).queue

/-- Settles O58: what every step keeps, asked of the power state. -/
theorem powerStaysLegal : Obligations.PowerStaysLegal := by
  unfold Obligations.PowerStaysLegal
  intro s t hs ht
  obtain ⟨q, hstep⟩ := step_good (W := False) (good_iff.2 ⟨rfl, fun _ => hs, False.elim⟩ : Good False _ (Legal true) s)
  exact (hstep t ht).power rfl

/-- Settles O59: what every step keeps, asked of the stores. -/
theorem storesStayCanonical : Obligations.StoresStayCanonical := by
  unfold Obligations.StoresStayCanonical
  intro s t hs ht
  obtain ⟨q, hstep⟩ := step_good (W := True) (good_iff.2 ⟨rfl, legal_false, fun _ => hs⟩ : Good True _ (Legal false) s)
  exact (good_iff.1 (hstep t ht)).2.2 trivial

end Sys2Proof.Machine

/-! The frames of the register instructions, the loads and the stores (R152, R158 to R167): what `issue` can change besides the
instruction's own effect, then which register or which bytes that effect may write. -/

namespace Sys2Proof.Machine

open Sys2Proof

/-! ## A change confined to one core -/

/-- The register files and the scratchpad of a core stand. -/
def sameFiles (k k' : Core) : Prop :=
  k'.spad = k.spad ∧ k'.sregs = k.sregs ∧ k'.vregs = k.vregs ∧ k'.preds = k.preds

/-- The fields of its own core that `keepsRest` asks to stand. -/
def sameStores (k k' : Core) : Prop :=
  k'.imem = k.imem ∧ k'.pool = k.pool ∧ k'.groups = k.groups ∧ k'.slots = k.slots ∧ k'.dops = k.dops ∧
    k'.dmaTags = k.dmaTags ∧ k'.dmaQ = k.dmaQ ∧ k'.msgs = k.msgs ∧ k'.cycles = k.cycles ∧ k'.runs = k.runs ∧
    k'.array = k.array ∧ k'.micro = k.micro ∧ k'.ladder = k.ladder ∧ k'.fold = k.fold ∧ k'.packQ = k.packQ

theorem keepsRest_modCore {s : State} {c : Fin 16} {f : Core → Core} (h : sameStores (getCore s c) (f (getCore s c))) :
    keepsRest s (modCore s c f) c := by
  have hother : ∀ d, d ≠ c → getCore (modCore s c f) d = getCore s d := fun _ hd => getCore_modCore_of_ne s f hd
  simp only [keepsRest, getCore_modCore_self]
  exact ⟨hother, by simpa [regOf, getPage, sameStores] using h⟩

/-- Outside core `c` only what `keepsRest` leaves open has changed, and the core has become one with the property `Q`. -/
structure Confined (c : Fin 16) (Q : Core → Prop) (s t : State) : Prop where
  rest : keepsRest s t c
  core : Q (getCore t c)

/-- A property of a core that its register files and its scratchpad decide. -/
def FileProp (Q : Core → Prop) : Prop := ∀ k k', sameFiles k k' → Q k → Q k'

/-- A change that leaves the files and the stores of core `c` alone. -/
abbrev Quiet (c : Fin 16) (s t : State) : Prop := Confined c (sameFiles (getCore s c)) s t

variable {c : Fin 16} {Q : Core → Prop} {s t u : State}

theorem Confined.quiet (h : Confined c Q s t) (hu : Quiet c t u) (hQ : FileProp Q) : Confined c Q s u :=
  ⟨keepsRest_trans h.rest hu.rest, hQ _ _ hu.core h.core⟩

theorem fileProp_sameFiles (k : Core) : FileProp (sameFiles k) := by
  rintro k₁ k₂ ⟨h1, h2, h3, h4⟩ ⟨g1, g2, g3, g4⟩
  exact ⟨h1.trans g1, h2.trans g2, h3.trans g3, h4.trans g4⟩

theorem Confined.trans_quiet (h : Quiet c s t) (hu : Quiet c t u) : Quiet c s u := h.quiet hu (fileProp_sameFiles _)

theorem OnlyEvents.quiet (h : OnlyEvents s t) (c : Fin 16) : Quiet c s t := by
  refine ⟨h.keepsRest c, ?_⟩
  rw [h.getCore]
  exact ⟨rfl, rfl, rfl, rfl⟩

theorem quiet_self (s : State) (c : Fin 16) : Quiet c s s := (OnlyEvents.refl s).quiet c

theorem confined_modCore {f : Core → Core} (h : sameStores (getCore s c) (f (getCore s c))) (hQ : Q (f (getCore s c))) :
    Confined c Q s (modCore s c f) :=
  ⟨keepsRest_modCore h, by rwa [getCore_modCore_self]⟩

theorem quiet_takeTrap (s : State) (c : Fin 16) (w : DWord) (cause code shared addr : Nat) :
    Quiet c s (takeTrap s c w cause code shared addr) := by
  refine ⟨takeTrap_keepsRest s c w cause code shared addr, ?_⟩
  rw [getCore_takeTrap]
  exact ⟨rfl, rfl, rfl, rfl⟩

theorem quiet_waiting (s : State) (c : Fin 16) (x : Option Waiting) : Quiet c s (modCore s c (fun k => { k with waiting := x })) :=
  confined_modCore (by simp [sameStores]) (by simp [sameFiles])

theorem quiet_retire (s : State) (c : Fin 16) (v : Bool) : Quiet c s (retire s c v) :=
  (quiet_waiting s c none).trans_quiet ((retire_onlyEvents s c v).quiet c)

theorem quiet_advance (s : State) (c : Fin 16) : Quiet c s (advance s c) :=
  confined_modCore (by simp [sameStores]) (by simp [sameFiles])

theorem quiet_goto (s : State) (c : Fin 16) (pc : DWord) : Quiet c s (modCore s c (fun k => { k with pc := pc })) :=
  confined_modCore (by simp [sameStores]) (by simp [sameFiles])

/-! ## What issue adds to an effect -/

/-- Whatever state an effect offers is confined to core `c`. -/
def ActConfined (c : Fin 16) (Q : Core → Prop) (s : State) : Act → Prop
  | .trapIn t _ _ _ _ | .wait t | .hold t | .done t | .goto t _ | .stay t => Confined c Q s t
  | .ill | .trap _ _ _ _ | .fault _ _ _ _ _ => True

theorem runAct_confined {w : DWord} {v : Bool} {a : Act} (hQ : FileProp Q) (h0 : Q (getCore s c)) (ha : ActConfined c Q s a) :
    Confined c Q s (runAct s c w v a) := by
  have hs : ∀ {t}, Quiet c s t → Confined c Q s t := fun ht => ⟨ht.rest, hQ _ _ ht.core h0⟩
  cases a with
  | ill =>
    simp only [runAct]
    exact hs (quiet_takeTrap ..)
  | trap cause =>
    simp only [runAct]
    split
    · exact hs (((OnlyEvents.bump ..).quiet c).trans_quiet (quiet_takeTrap ..))
    · exact hs (quiet_takeTrap ..)
  | trapIn t => exact ha.quiet (quiet_takeTrap ..) hQ
  | fault j =>
    simp only [runAct]
    split
    · exact hs (((OnlyEvents.captureError ..).quiet c).trans_quiet (quiet_takeTrap ..))
    · exact hs (((OnlyEvents.captureOpen ..).quiet c).trans_quiet (quiet_takeTrap ..))
  | wait t | hold t =>
    simp only [runAct]
    split
    · exact ha
    · exact ha.quiet (quiet_waiting ..) hQ
  | done t => exact (ha.quiet (quiet_retire ..) hQ).quiet (quiet_advance ..) hQ
  | goto t pc => exact (ha.quiet (quiet_retire ..) hQ).quiet (quiet_goto ..) hQ
  | stay t => exact ha

theorem gateUnit_confined {w : DWord} {a : Act} (h0 : Confined c Q s s) (ha : ActConfined c Q s a) :
    ActConfined c Q s (gateUnit s c w a) := by
  unfold gateUnit
  split
  · split
    · exact h0
    · exact ha
  · dsimp only
    split
    · exact h0
    · split
      · trivial
      · split
        · exact h0
        · exact ha

/-- An instruction changes what its effect changes, and besides only trap record, PC, counters and what its core waits on. -/
theorem issue_confined {op : Nat} {v legal : Bool} {w : DWord} {a : Act} (hQ : FileProp Q) (h0 : Q (getCore s c))
    (ha : ActConfined c Q s a) : Confined c Q s (issue c op v legal w s a) := by
  have hs : ∀ {t}, Quiet c s t → Confined c Q s t := fun ht => ⟨ht.rest, hQ _ _ ht.core h0⟩
  have hself : Confined c Q s s := hs (quiet_self s c)
  have hpend : Quiet c s (modCore s c (fun k => { k with pendingTrap := none })) :=
    confined_modCore (by simp [sameStores]) (by simp [sameFiles])
  unfold issue
  dsimp only
  split_ifs
  · exact hself
  · exact hs (quiet_takeTrap ..)
  · exact hs (hpend.trans_quiet (quiet_takeTrap ..))
  · exact hs (quiet_takeTrap ..)
  · exact hself
  · exact hs (quiet_takeTrap ..)
  · exact runAct_confined hQ h0 trivial
  · exact runAct_confined hQ h0 hself
  · exact runAct_confined hQ h0 (gateUnit_confined hself ha)

theorem next_issue_confined {r : Res} {op : Nat} {v legal : Bool} {w : DWord} {a : Act} (hr : r = .next t)
    (hi : r = .next (issue c op v legal w s a)) (hQ : FileProp Q) (h0 : Q (getCore s c)) (ha : ActConfined c Q s a) :
    Confined c Q s t := by
  rw [hr] at hi
  cases hi
  exact issue_confined hQ h0 ha

/-! ## The traps of an access -/

theorem spadCheck_confined {al a n : Nat} {x : Act} (h : spadCheck s c al a n = some x) : ActConfined c Q s x := by
  unfold spadCheck at h
  split_ifs at h <;> cases h <;> trivial

theorem spadReadCheck_confined {al a n : Nat} {x : Act} (h : spadReadCheck s c al a n = some x) : ActConfined c Q s x := by
  unfold spadReadCheck at h
  split at h
  next hx => cases h; exact spadCheck_confined hx
  next => split_ifs at h; cases h; trivial

theorem firstTrap_confined {rd : Bool} {n : Nat} {l : List Nat} {x : Act} (h : firstTrap s c rd n l = some x) :
    ActConfined c Q s x := by
  induction l with
  | nil => cases h
  | cons a as ih =>
    unfold firstTrap at h
    split at h
    next hx =>
      cases h
      split_ifs at hx
      · exact spadReadCheck_confined hx
      · exact spadCheck_confined hx
    next => exact ih h

/-! ## One register of a core -/

/-- Of the files of core `k` only scalar register `r` may have changed in `k'`. -/
def onlyS (k : Core) (r : Nat) (k' : Core) : Prop :=
  k'.spad = k.spad ∧ k'.vregs = k.vregs ∧ k'.preds = k.preds ∧ ∀ i, i ≠ r → getS k' i = getS k i

/-- Of the files of core `k` only vector register `r` may have changed in `k'`. -/
def onlyV (k : Core) (r : Nat) (k' : Core) : Prop :=
  k'.spad = k.spad ∧ k'.sregs = k.sregs ∧ k'.preds = k.preds ∧ ∀ i, i ≠ r → getV k' i = getV k i

/-- Of the files of core `k` only predicate register `r` may have changed in `k'`. -/
def onlyP (k : Core) (r : Nat) (k' : Core) : Prop :=
  k'.spad = k.spad ∧ k'.sregs = k.sregs ∧ k'.vregs = k.vregs ∧ ∀ i, i ≠ r → getP k' i = getP k i

theorem fileProp_onlyS (k : Core) (r : Nat) : FileProp (onlyS k r) := by
  rintro k₁ k₂ ⟨h1, h2, h3, h4⟩ ⟨g1, g2, g3, g4⟩
  exact ⟨h1.trans g1, h3.trans g2, h4.trans g3, fun i hi => by rw [← g4 i hi, getS, getS, h2]⟩

theorem fileProp_onlyV (k : Core) (r : Nat) : FileProp (onlyV k r) := by
  rintro k₁ k₂ ⟨h1, h2, h3, h4⟩ ⟨g1, g2, g3, g4⟩
  exact ⟨h1.trans g1, h2.trans g2, h4.trans g3, fun i hi => by rw [← g4 i hi, getV, getV, h3]⟩

theorem fileProp_onlyP (k : Core) (r : Nat) : FileProp (onlyP k r) := by
  rintro k₁ k₂ ⟨h1, h2, h3, h4⟩ ⟨g1, g2, g3, g4⟩
  exact ⟨h1.trans g1, h2.trans g2, h3.trans g3, fun i hi => by rw [← g4 i hi, getP, getP, h4]⟩

theorem getS_setS_of_ne (k : Core) {i r : Nat} (v : DWord) (h : i ≠ r) : getS (setS k r v) i = getS k i := by
  by_cases hr : 0 < r ∧ r < 32
  · simp [getS, setS, hr, Vector.getElem_set_ne, h.symm]
  · simp [setS, hr]

theorem getV_setV_of_ne (k : Core) {i r : Nat} (v : BitVec 2048) (h : i ≠ r) : getV (setV k r v) i = getV k i := by
  by_cases hr : r < 64
  · simp only [getV, setV, dif_pos hr, Vector.getElem_set_ne _ _ h.symm]
  · simp only [setV, dif_neg hr]

theorem getP_setP_of_ne (k : Core) {i r : Nat} (v : DWord) (h : i ≠ r) : getP (setP k r v) i = getP k i := by
  by_cases hr : 0 < r ∧ r < 8
  · simp [getP, setP, hr, Vector.getElem_set_ne, h.symm]
  · simp [setP, hr]

theorem doneS_confined (r : Nat) (v : DWord) : ActConfined c (onlyS (getCore s c) r) s (doneS s c r v) := by
  refine confined_modCore (f := fun k => setS k r v) ?_ ⟨?_, ?_, ?_, fun i hi => getS_setS_of_ne _ v hi⟩
  all_goals unfold setS; split <;> simp [sameStores]

theorem doneV_confined (r : Nat) (v : BitVec 2048) : ActConfined c (onlyV (getCore s c) r) s (doneV s c r v) := by
  refine confined_modCore (f := fun k => setV k r v) ?_ ⟨?_, ?_, ?_, fun i hi => getV_setV_of_ne _ v hi⟩
  all_goals unfold setV; split <;> simp [sameStores]

theorem doneP_confined (r : Nat) (v : DWord) : ActConfined c (onlyP (getCore s c) r) s (doneP s c r v) := by
  refine confined_modCore (f := fun k => setP k r v) ?_ ⟨?_, ?_, ?_, fun i hi => getP_setP_of_ne _ v hi⟩
  all_goals unfold setP; split <;> simp [sameStores]

theorem vredAct_confined {p : Prop} [Decidable p] {cause code shared addr r : Nat} {v : DWord} :
    ActConfined c (onlyS (getCore s c) r) s (if p then .trap cause code shared addr else doneS s c r v) := by
  split
  · trivial
  · exact doneS_confined r v

theorem loadAct_confined {w : DWord} (addr : Nat → Nat) :
    ActConfined c (onlyV (getCore s c) (fRd w)) s (loadAct c w s addr) := by
  unfold loadAct
  dsimp only
  split
  next hx => exact firstTrap_confined hx
  next => exact doneV_confined _ _

/-! ## Bytes of a scratchpad -/

/-- Of the files of core `k` only scratchpad bytes outside `p` may have changed in `k'`. -/
def onlyBytesOff (k : Core) (p : Nat → Prop) (k' : Core) : Prop :=
  k'.sregs = k.sregs ∧ k'.vregs = k.vregs ∧ k'.preds = k.preds ∧ ∀ a, p a → k'.spad.byte a = k.spad.byte a

theorem fileProp_onlyBytesOff (k : Core) (p : Nat → Prop) : FileProp (onlyBytesOff k p) := by
  rintro k₁ k₂ ⟨h1, h2, h3, h4⟩ ⟨g1, g2, g3, g4⟩
  exact ⟨h2.trans g1, h3.trans g2, h4.trans g3, fun a ha => by rw [← g4 a ha, h1]⟩

theorem onlyBytesOff_self (k : Core) (p : Nat → Prop) : onlyBytesOff k p k := ⟨rfl, rfl, rfl, fun _ _ => rfl⟩

section
variable (hwf : (getCore s c).spad.wf = true)
include hwf

/-- A store writes its own bytes (R159). -/
theorem spadWrite_confined (a : Nat) (bs : List Byte) :
    Confined c (onlyBytesOff (getCore s c) (fun j => j < a ∨ a + bs.length ≤ j)) s (spadWrite s c a bs) := by
  refine confined_modCore (by simp [sameStores]) ⟨rfl, rfl, rfl, fun j hj => ?_⟩
  rw [Memory.byte_store, Memory.byte_write_outside hj hwf]

/-- A vector store writes the bytes of its governed elements (R139). -/
theorem storeAct_confined {w : DWord} (addr : Nat → Nat) :
    ActConfined c (onlyBytesOff (getCore s c) (fun a => ∀ j ∈ active (8 * dtBytes (dtM w)) (laneMask (getCore s c) w),
      a < addr j ∨ addr j + dtBytes (dtM w) ≤ a)) s (storeAct c w s addr) := by
  unfold storeAct
  dsimp only
  split
  next hx => exact firstTrap_confined hx
  next => exact confined_modCore (by simp [sameStores]) ⟨rfl, rfl, rfl, fun a ha => byte_scatterV_outside ha hwf⟩

theorem exec_st_confined {w : DWord} (ht : exec (.st c w) s = .next t) :
    Confined c (onlyBytesOff (getCore s c) (fun a => a < addrM (getCore s c) w ∨
      addrM (getCore s c) w + dtBytes (dtM w) ≤ a)) s t := by
  refine next_issue_confined ht rfl (fileProp_onlyBytesOff _ _) (onlyBytesOff_self _ _) ?_
  split
  next hx => exact spadCheck_confined hx
  next =>
    have h := spadWrite_confined hwf (addrM (getCore s c) w) (leBytes (dtBytes (dtM w)) (getS (getCore s c) (fRd w)).toNat)
    rwa [leBytes_length] at h

theorem exec_vst_confined {w : DWord} (ht : exec (.vst c w) s = .next t) :
    Confined c (onlyBytesOff (getCore s c) (fun a => ∀ j ∈ active (8 * dtBytes (dtM w)) (laneMask (getCore s c) w),
      a < unitAddr (getCore s c) w j ∨ unitAddr (getCore s c) w j + dtBytes (dtM w) ≤ a)) s t :=
  next_issue_confined ht rfl (fileProp_onlyBytesOff _ _) (onlyBytesOff_self _ _) (storeAct_confined hwf _)

theorem exec_vsts_confined {w : DWord} (ht : exec (.vsts c w) s = .next t) :
    Confined c (onlyBytesOff (getCore s c) (fun a => ∀ j ∈ active (8 * dtBytes (dtM w)) (laneMask (getCore s c) w),
      a < strideAddr (getCore s c) w j ∨ strideAddr (getCore s c) w j + dtBytes (dtM w) ≤ a)) s t :=
  next_issue_confined ht rfl (fileProp_onlyBytesOff _ _) (onlyBytesOff_self _ _) (storeAct_confined hwf _)

end

theorem Confined.files {k : Core} {p : Nat → Prop} (h : Confined c (onlyBytesOff k p) s t) :
    keepsRest s t c ∧ (getCore t c).sregs = k.sregs ∧ (getCore t c).vregs = k.vregs ∧ (getCore t c).preds = k.preds :=
  ⟨h.rest, h.core.1, h.core.2.1, h.core.2.2.1⟩

/-! ## The rows, by the file they write -/

section
variable {w : DWord} {i : Instr}

theorem exec_scalarRow_confined (hi : i ∈ [Instr.add c w, .sub c w, .mul c w, .logic c w, .shift c w, .addi c w, .select c w,
    .movi c w, .rdsr c w, .rdcyc c w, .vred c w, .ld c w]) (ht : exec i s = .next t) :
    Confined c (onlyS (getCore s c) (fRd w)) s t := by
  have hQ := fileProp_onlyS (getCore s c) (fRd w)
  have h0 : onlyS (getCore s c) (fRd w) (getCore s c) := ⟨rfl, rfl, rfl, fun _ _ => rfl⟩
  simp only [List.mem_cons, List.not_mem_nil, or_false] at hi
  obtain rfl | rfl | rfl | rfl | rfl | rfl | rfl | rfl | rfl | rfl | rfl | rfl := hi
  case inr.inr.inr.inr.inr.inr.inr.inr.inr.inr.inl => exact next_issue_confined ht rfl hQ h0 vredAct_confined
  case inr.inr.inr.inr.inr.inr.inr.inr.inr.inr.inr =>
    refine next_issue_confined ht rfl hQ h0 ?_
    split
    next hx => exact spadReadCheck_confined hx
    next => exact doneS_confined _ _
  all_goals exact next_issue_confined ht rfl hQ h0 (doneS_confined _ _)

theorem exec_vectorRow_confined (hi : i ∈ [Instr.vadd c w, .vsub c w, .vmul c w, .vfma c w, .vminmax c w, .vunary c w,
    .vsel c w, .vcvt c w, .vbcast c w, .vperm c w, .vbits c w, .vidx c w, .vld c w, .vlds c w]) (ht : exec i s = .next t) :
    Confined c (onlyV (getCore s c) (fRd w)) s t := by
  have hQ := fileProp_onlyV (getCore s c) (fRd w)
  have h0 : onlyV (getCore s c) (fRd w) (getCore s c) := ⟨rfl, rfl, rfl, fun _ _ => rfl⟩
  simp only [List.mem_cons, List.not_mem_nil, or_false] at hi
  obtain rfl | rfl | rfl | rfl | rfl | rfl | rfl | rfl | rfl | rfl | rfl | rfl | rfl | rfl := hi
  case inr.inr.inr.inr.inr.inr.inr.inr.inr.inr.inr.inr.inl | inr.inr.inr.inr.inr.inr.inr.inr.inr.inr.inr.inr.inr =>
    exact next_issue_confined ht rfl hQ h0 (loadAct_confined _)
  all_goals exact next_issue_confined ht rfl hQ h0 (doneV_confined _ _)

theorem exec_compareRow_confined (hi : i ∈ [Instr.cmp c w, .vcmp c w]) (ht : exec i s = .next t) :
    Confined c (onlyP (getCore s c) (fRd w)) s t := by
  have hQ := fileProp_onlyP (getCore s c) (fRd w)
  have h0 : onlyP (getCore s c) (fRd w) (getCore s c) := ⟨rfl, rfl, rfl, fun _ _ => rfl⟩
  simp only [List.mem_cons, List.not_mem_nil, or_false] at hi
  obtain rfl | rfl := hi
  all_goals exact next_issue_confined ht rfl hQ h0 (doneP_confined _ _)

theorem loopAct_quiet : ActConfined c (sameFiles (getCore s c)) s (loopAct c w s) := by
  unfold loopAct
  dsimp only
  split_ifs
  · trivial
  all_goals exact confined_modCore (by simp [sameStores]) (by simp [sameFiles])

theorem exec_controlRow_quiet (hi : i ∈ [Instr.br c w, .jr c w, .loop c w, .loopPop c w, .trap c w, .brk c w])
    (ht : exec i s = .next t) : Quiet c s t := by
  have hQ := fileProp_sameFiles (getCore s c)
  have h0 : sameFiles (getCore s c) (getCore s c) := ⟨rfl, rfl, rfl, rfl⟩
  have hself := quiet_self s c
  simp only [List.mem_cons, List.not_mem_nil, or_false] at hi
  obtain rfl | rfl | rfl | rfl | rfl | rfl := hi
  case inl =>
    refine next_issue_confined ht rfl hQ h0 ?_
    split <;> exact hself
  case inr.inl => exact next_issue_confined ht rfl hQ h0 hself
  case inr.inr.inl =>
    cases ht
    split
    · exact hself
    · exact issue_confined hQ h0 loopAct_quiet
  case inr.inr.inr.inl =>
    cases ht
    split
    · exact hself
    · refine issue_confined hQ h0 ?_
      split
      · trivial
      · exact confined_modCore (by simp [sameStores]) (by simp [sameFiles])
  all_goals exact next_issue_confined ht rfl hQ h0 trivial

end

/-! ## The obligations -/

/-- Settles O52: a row's effect writes its one register, and issue adds nothing to the files. -/
theorem registerInstructionsFrame : Obligations.RegisterInstructionsFrame := by
  unfold Obligations.RegisterInstructionsFrame
  intro s t c w i
  refine ⟨fun hi ht => ?_, fun hi ht => ?_, fun hi ht => ?_, fun hi ht => ?_⟩
  · obtain ⟨hrest, hcore⟩ := exec_scalarRow_confined hi ht
    exact ⟨hrest, hcore⟩
  · obtain ⟨hrest, hcore⟩ := exec_vectorRow_confined hi ht
    exact ⟨hrest, hcore⟩
  · obtain ⟨hrest, hcore⟩ := exec_compareRow_confined hi ht
    exact ⟨hrest, hcore⟩
  · obtain ⟨hrest, hcore⟩ := exec_controlRow_quiet hi ht
    exact ⟨hrest, hcore⟩

/-- Settles O53: a store's effect writes its own bytes, and issue adds nothing to the files. -/
theorem storesFrame : Obligations.StoresFrame := by
  unfold Obligations.StoresFrame
  rintro s t c w _ _ _ rfl rfl rfl hwf
  refine ⟨fun ht => (exec_st_confined hwf ht).core.2.2.2, fun ht => (exec_vst_confined hwf ht).core.2.2.2,
    fun ht => (exec_vsts_confined hwf ht).core.2.2.2, fun i hi ht => ?_⟩
  simp only [List.mem_cons, List.not_mem_nil, or_false] at hi
  obtain rfl | rfl | rfl := hi
  · exact (exec_st_confined hwf ht).files
  · exact (exec_vst_confined hwf ht).files
  · exact (exec_vsts_confined hwf ht).files

end Sys2Proof.Machine

/-! The rows of a core that complete with a register write (R137 to R153, R156): immediates, comparisons and shifts read as bit
vectors, then each row's next state. -/

namespace Sys2Proof.Machine

open Sys2Proof

/-! ## Signed readings as bit vectors -/

theorem ofNat_toNat_self {n : Nat} (x : BitVec n) : BitVec.ofNat n x.toNat = x := by
  rw [BitVec.ofNat_toNat, BitVec.setWidth_eq]

theorem sgn_eq_toInt {n : Nat} (hn : 0 < n) (x : BitVec n) : sgn n x.toNat = x.toInt := by
  simp only [sgn, Nat.mod_eq_of_lt x.isLt, BitVec.toInt_eq_toNat_cond]
  obtain ⟨m, rfl⟩ := Nat.exists_eq_succ_of_ne_zero hn.ne'
  simp only [Nat.succ_sub_one, pow_succ]
  split <;> split <;> omega

theorem wrap_eq_toNat_ofInt (n : Nat) (i : Int) : wrap n i = (BitVec.ofInt n i).toNat := by
  rw [BitVec.toNat_ofInt]
  rfl

theorem imm32_eq_toInt (w : DWord) : imm32 w = (w.extractLsb' 0 32).toInt := by
  rw [← sgn_eq_toInt (by decide)]
  simp [imm32, fld, bitsOf]

@[simp] theorem ofInt_imm32 (w : DWord) : BitVec.ofInt 64 (imm32 w) = (w.extractLsb' 0 32).signExtend 64 := by
  rw [imm32_eq_toInt]
  rfl

theorem branchTarget_eq (k : Core) (w : DWord) : branchTarget k w = k.pc + 8 * (w.extractLsb' 0 32).signExtend 64 := by
  rw [branchTarget, BitVec.ofInt_mul, ofInt_imm32]
  rfl

theorem wrap_add_imm32 (w : DWord) (j : Nat) :
    wrap 32 ((j : Int) + imm32 w) = (BitVec.ofNat 32 j + w.extractLsb' 0 32).toNat := by
  rw [wrap_eq_toNat_ofInt, BitVec.ofInt_add, imm32_eq_toInt, BitVec.ofInt_toInt, BitVec.ofInt_natCast]

theorem logicOp_eq (fn : Nat) (a b : DWord) : BitVec.ofNat 64 (logicOp fn 64 a.toNat b.toNat) = match fn with
    | 0 => a &&& b
    | 1 => a ||| b
    | 2 => a ^^^ b
    | _ => a &&& ~~~b := by
  have hnot : 2 ^ 64 - 1 - b.toNat = (~~~b).toNat := BitVec.toNat_not.symm
  simp only [logicOp, Nat.mod_eq_of_lt a.isLt, Nat.mod_eq_of_lt b.isLt, hnot, ← BitVec.toNat_and, ← BitVec.toNat_or,
    ← BitVec.toNat_xor]
  rcases fn with _ | _ | _ | fn
  all_goals exact ofNat_toNat_self _

theorem scaleI_neg (m : Int) (n : Nat) : scaleI m (-(n : Int)) = m >>> n := by
  rw [Int.shiftRight_eq_div_pow]
  cases n with
  | zero => exact (Int.mul_one m).trans (Int.ediv_one m).symm
  | succ n => rfl

theorem shiftOp_eq (fn : Nat) (a b : DWord) : BitVec.ofNat 64 (shiftOp fn 64 a.toNat b.toNat) = match fn with
    | 0 => a <<< (b.toNat % 64)
    | 1 => a >>> (b.toNat % 64)
    | _ => a.sshiftRight (b.toNat % 64) := by
  simp only [shiftOp, Nat.mod_eq_of_lt a.isLt, ← BitVec.toNat_shiftLeft, ← BitVec.toNat_ushiftRight,
    sgn_eq_toInt (by decide : 0 < 64), scaleI_neg, wrap_eq_toNat_ofInt]
  rcases fn with _ | _ | fn
  all_goals exact ofNat_toNat_self _

theorem popCount_eq_length (n k : Nat) : popCount n k = ((List.range k).filter (fun i => n.testBit i)).length := by
  induction k with
  | zero => rfl
  | succ k ih =>
    rw [popCount, ih, List.range_succ, List.filter_append, List.length_append, bit01]
    cases h : n.testBit k <;> simp [h]

/-! ## A row that completes with a register write -/

section
variable {r : Res} {op : Nat} {v l : Bool} {c : Fin 16} {w : DWord} {s t : State} {a : Act}

theorem next_issue_runs (h : mayIssue s c w op v = true) (hr : r = .next (issue c op v l w s a)) (hl : l = true) :
    r = .next (runAct s c w v a) := by
  rw [hr, issue_runs a h hl]

theorem next_issue_done (h : mayIssue s c w op v = true) (hr : r = .next (issue c op v l w s a)) (hl : l = true)
    (ha : a = .done t) : r = .next (finish t c v) := by
  rw [hr, ha, issue_done h hl]

theorem next_issue_goto {pc : DWord} (h : mayIssue s c w op v = true) (hr : r = .next (issue c op v l w s a)) (hl : l = true)
    (ha : a = .goto t pc) : r = .next (finishAt t c v pc) := by
  rw [hr, ha, issue_goto h hl]

theorem next_issue_doneS {i : Nat} {x y : DWord} (h : mayIssue s c w op v = true)
    (hr : r = .next (issue c op v l w s (doneS s c i x))) (hl : l = true) (hxy : x = y) :
    r = .next (finish (withS s c i y) c v) :=
  next_issue_done h hr hl (congrArg (doneS s c i) hxy)

theorem next_issue_doneV {i : Nat} {x y : BitVec 2048} (h : mayIssue s c w op v = true)
    (hr : r = .next (issue c op v l w s (doneV s c i x))) (hl : l = true) (hxy : x = y) :
    r = .next (finish (withV s c i y) c v) :=
  next_issue_done h hr hl (congrArg (doneV s c i) hxy)

theorem next_issue_doneP {i : Nat} {x y : DWord} (h : mayIssue s c w op v = true)
    (hr : r = .next (issue c op v l w s (doneP s c i x))) (hl : l = true) (hxy : x = y) :
    r = .next (finish (withP s c i y) c v) :=
  next_issue_done h hr hl (congrArg (doneP s c i) hxy)

end

/-! ## Scalar rows -/

/-- The high half of a register takes the immediate of a MOVI (R152). -/
theorem movi_high (w x : DWord) :
    BitVec.ofNat 64 (immU w * 2 ^ 32 + fld x 31 0) = w.extractLsb' 0 32 ++ x.extractLsb' 0 32 := by
  apply BitVec.eq_of_toNat_eq
  have hw : immU w = (w.extractLsb' 0 32).toNat := by simp [immU, fld, bitsOf]
  have hx : fld x 31 0 = (x.extractLsb' 0 32).toNat := by simp [fld, bitsOf]
  rw [hw, hx, BitVec.toNat_append, BitVec.toNat_ofNat, Nat.shiftLeft_eq, Nat.mul_comm,
    ← Nat.two_pow_add_eq_or_of_lt (x.extractLsb' 0 32).isLt, Nat.mod_eq_of_lt]
  have := (w.extractLsb' 0 32).isLt
  have := (x.extractLsb' 0 32).isLt
  omega

/-- The special registers by their number (R156). -/
theorem specialReg_eq (s : State) (c : Fin 16) (fn : Nat) : specialReg s c fn = match fn with
    | 0 => BitVec.ofNat 64 (partLogical s c)
    | 1 => BitVec.ofNat 64 (partCount s (partOfCore s c))
    | 2 => BitVec.ofNat 64 (chipId s)
    | 3 => BitVec.ofNat 64 (partOfCore s c)
    | 4 => s.mode.setWidth 64
    | 5 => if s.pfActive then 1 else 0
    | _ => (getCore s c).runPc := by
  rcases fn with _ | _ | _ | _ | _ | _ | fn
  case succ.succ.succ.succ.succ.zero =>
    rw [specialReg]
    cases s.pfActive <;> rfl
  all_goals rfl

/-- Settles O1: each row may issue, so its register write is its next state. -/
theorem scalarInstructionsComplete : Obligations.ScalarInstructionsComplete := by
  unfold Obligations.ScalarInstructionsComplete
  intro s c w
  refine ⟨fun h hl => next_issue_doneS h rfl hl rfl, fun h hl => next_issue_doneS h rfl hl rfl,
    fun h hl => next_issue_doneS h rfl hl rfl, fun h hf hd hz => next_issue_doneS h rfl (by simp [hf, hd, hz]) (logicOp_eq _ _ _),
    fun h hf hd hz => next_issue_doneS h rfl (by simp [hf, hd, hz]) (shiftOp_eq _ _ _),
    fun h hf => next_issue_doneS h rfl (decide_eq_true hf) (by rw [ofInt_imm32]),
    fun h hf hd hz => next_issue_doneP h rfl (by simp [hf, hd, hz]) rfl,
    fun h hl => next_issue_doneS h rfl hl rfl,
    fun h hf => next_issue_doneS h rfl (by simp [hf]) (by rw [if_pos hf, ofInt_imm32]),
    fun h hf => next_issue_doneS h rfl (by simp [hf]) (by rw [if_neg (by simp [hf]), movi_high]),
    fun h hf => next_issue_doneS h rfl (decide_eq_true hf) (specialReg_eq s c _),
    fun h hf => next_issue_doneS h rfl (decide_eq_true hf) rfl⟩

end Sys2Proof.Machine

/-! Control flow, vector instructions and scratchpad accesses of a core (R138 to R167): each row's next state. -/

namespace Sys2Proof.Machine

open Sys2Proof

theorem modCore_congr {s : State} {c : Fin 16} {f g : Core → Core} (h : f (getCore s c) = g (getCore s c)) :
    modCore s c f = modCore s c g := by
  rw [modCore, modCore, show f s.cores[c] = g s.cores[c] from h]

/-! ## Control flow (R143, R146, R192) -/

section
variable {s : State} {c : Fin 16} {w : DWord}

/-- A LOOP outside every loop opens its body at the next instruction (R143). -/
theorem loopAct_outermost (hloops : (getCore s c).loops = []) (hlast : (getCore s c).pc.toNat / 8 + immU w < 16384)
    (hn : getS (getCore s c) (fRd w) ≠ 0) :
    loopAct c w s = .goto (modCore s c (fun k => { k with
      loops := [⟨k.pc.toNat / 8 + 1, k.pc.toNat / 8 + immU w, getS k (fRd w) - 1⟩] })) ((getCore s c).pc + 8) := by
  have hfits : ¬ 16384 ≤ (getCore s c).pc.toNat / 8 + immU w := Nat.not_le.2 hlast
  simp only [loopAct, hloops, List.length_nil, hn, if_false]
  rw [if_neg (by simp [hfits])]
  exact congrArg (Act.goto · _) (modCore_congr (by rw [hloops]))

/-- Settles O2: a row that may issue takes its branch or falls through; a halt with nothing outstanding stops its core. -/
theorem controlFlowCompletes : Obligations.ControlFlowCompletes := by
  unfold Obligations.ControlFlowCompletes
  intro s c w
  have hlegal : fnB w = 0 → zeroB w = true → (fnB w = 0 && zeroB w) = true := fun hf hz => by simp [hf, hz]
  refine ⟨fun h hf hz hp => ?_, fun h hf hz hp => next_issue_done h rfl (hlegal hf hz) (if_neg (by simp [hp])),
    fun h hf hz => ?_, fun h hf hz => next_issue_goto h rfl (hlegal hf hz) rfl, fun h hf hz hi hl hlast hn => ?_,
    fun e es h hf hz hd hi hl => ?_, fun h hf hz hw => ?_, fun hst hw => ?_⟩
  · rw [← branchTarget_eq]
    exact next_issue_goto h rfl (hlegal hf hz) (if_pos hp)
  · rw [← branchTarget_eq]
    exact next_issue_goto h rfl (hlegal hf hz) rfl
  · refine next_issue_goto h (congrArg Host.Outcome.next (if_neg ?_)) ?_ (loopAct_outermost hl hlast hn)
    · simp [hf]
    · simp [hf, hz]
      omega
  · refine next_issue_done h (congrArg Host.Outcome.next (if_neg ?_)) ?_ (by rw [hl])
    · simp [hf]
    · simp [hf, hz, hd, hi]
  · refine (next_issue_runs h rfl (hlegal hf hz)).trans ?_
    rw [hw]
    rfl
  · exact congrArg Host.Outcome.next (if_pos (by simp [hst, hw]))

end

/-! ## Vectors (R138, R139, R149) -/

/-- Settles O3: each row may issue, so its register write is its next state. -/
theorem vectorInstructionsComplete : Obligations.VectorInstructionsComplete := by
  unfold Obligations.VectorInstructionsComplete
  rintro s c w _ _ _ rfl rfl rfl
  refine ⟨fun h hl => next_issue_doneV h rfl hl rfl, fun h hl => next_issue_doneV h rfl hl rfl,
    fun h hl => next_issue_doneV h rfl hl rfl, fun h hf hd hz => next_issue_doneV h rfl (by simp [hf, hd, hz]) rfl,
    fun h hf hd hz => next_issue_doneV h rfl (by simp [hf, hd, hz]) rfl,
    fun h hf hd hz => next_issue_doneV h rfl (by simp [hf, hd, hz]) rfl,
    fun h hf hd hz => next_issue_doneP h rfl (by simp [hf, hd, hz]) rfl, fun h hl => next_issue_doneV h rfl hl rfl,
    fun h hd hf hlt hz => next_issue_doneV h rfl (by simp [hf, hd, hz, hlt]) ?_, fun h hl => next_issue_doneV h rfl hl rfl,
    fun h hl => next_issue_doneV h rfl hl rfl, fun h hf hd hz => next_issue_doneV h rfl (by simp [hf, hd, hz]) rfl,
    fun h hf hd hz hfits => ?_, fun h hf => next_issue_doneV h rfl (decide_eq_true hf) ?_,
    fun h hf hd hz => ?_, fun h hf hd hz => ?_, fun h hf hd hz => ?_, fun h hf hd hz => ?_⟩
  · simp only [Bool.and_eq_true, decide_eq_true_eq]
  · exact next_issue_done h rfl (by simp [hf, hd, hz]) (if_neg (by rw [hfits]; exact Bool.false_ne_true))
  · simp only [wrap_add_imm32]
  all_goals refine next_issue_done h rfl (by simp [hf, hd, hz]) ?_
  on_goal 4 => rw [← popCount_eq_length]
  all_goals rw [hf]; rfl

/-! ## The scratchpad (R146, R158 to R167) -/

@[simp] theorem modCore_modCore (s : State) (c : Fin 16) (f g : Core → Core) :
    modCore (modCore s c f) c g = modCore s c (fun k => g (f k)) := by
  simp [modCore]

section
variable {s : State} {c : Fin 16} {w : DWord}

theorem loadAct_allowed {addr : Nat → Nat}
    (h : firstTrap s c true (dtBytes (dtM w)) ((active (8 * dtBytes (dtM w)) (laneMask (getCore s c) w)).map addr) = none) :
    loadAct c w s addr = doneV s c (fRd w) (vmap (8 * dtBytes (dtM w)) (laneMask (getCore s c) w) (getV (getCore s c) (fRd w))
      (fun j => leNat (spadRead s c (addr j) (dtBytes (dtM w))))) := by
  simp only [loadAct, h]
  rfl

theorem storeAct_allowed {addr : Nat → Nat} {f : Core → Core}
    (h : firstTrap s c false (dtBytes (dtM w)) ((active (8 * dtBytes (dtM w)) (laneMask (getCore s c) w)).map addr) = none)
    (hf : f (getCore s c) = { getCore s c with
      spad := scatterV (getCore s c).spad (dtBytes (dtM w)) (laneMask (getCore s c) w) (getV (getCore s c) (fRd w)) addr }) : storeAct c w s addr = .done (modCore s c f) := by
  simp only [storeAct, h]
  exact congrArg Act.done (modCore_congr hf.symm)

theorem indexAct_allowed {rd : Bool} (h : firstTrap s c rd (dtBytes (dtM w))
    ((active (8 * dtBytes (dtM w)) (laneMask (getCore s c) w)).map
      (indexAddr (addrM (getCore s c) w) (dtBytes (dtM w)) (getV (getCore s c) (fnM w)))) = none) :
    indexAct c w s rd = .done (pushD s c w) := by
  simp only [indexAct, h]

end

/-- Settles O4: an access that meets no check takes its effect. -/
theorem scratchpadAccessesComplete : Obligations.ScratchpadAccessesComplete := by
  unfold Obligations.ScratchpadAccessesComplete
  rintro s c w _ _ _ rfl rfl rfl
  refine ⟨fun h hf hd hc => ?_, fun h hf hd hc => ?_, fun h hf hd hc => ?_, fun h hf hd hc => ?_, fun h hd hc => ?_,
    fun h hd hc => ?_, fun h hd hc => ?_, fun h hd hc => ?_⟩
  · exact next_issue_done h rfl (by simp [hf, hd]) (by rw [hc]; rfl)
  · exact next_issue_done h rfl (by simp [hf, hd]) (by rw [hc])
  · exact next_issue_done h rfl (by simp [hf, hd]) (loadAct_allowed hc)
  · exact next_issue_done h rfl (by simp [hf, hd]) (storeAct_allowed hc rfl)
  · exact next_issue_done h rfl hd (loadAct_allowed hc)
  · exact next_issue_done h rfl hd (storeAct_allowed hc rfl)
  · exact next_issue_done h rfl hd (indexAct_allowed hc)
  · exact next_issue_done h rfl hd (indexAct_allowed hc)

/-- Settles O5: the completion of a gather or scatter is one change of its core. -/
theorem indexedAccessCompletes : Obligations.IndexedAccessCompletes := by
  unfold Obligations.IndexedAccessCompletes
  rintro s c d rest _ _ hq rfl rfl
  rw [← ofInt_imm32]
  refine ⟨fun hop => ?_, fun hop => ?_⟩
  all_goals
    show execClassDCompletion c s = _
    simp only [execClassDCompletion, hq, hop, decide_true, Bool.true_or, Bool.or_true, if_true, finishIndexed,
      modCore_modCore]
    rfl

end Sys2Proof.Machine

/-! The DMA engines (R168 to R173): an accepted descriptor, and a one-row copy that ends OK. -/

namespace Sys2Proof.Machine

open Sys2Proof

@[simp] theorem getCore_bump (s : State) (pg : PageId) (i n : Nat) (c : Fin 16) : getCore (bump s pg i n) c = getCore s c :=
  (OnlyEvents.bump s pg i n).getCore c

@[simp] theorem engFin_val (e : Fin 4) : engFin e.val = e := Fin.ext (Nat.mod_eq_of_lt e.isLt)

/-! ## The engines of a core start what heads their queues (R102) -/

@[simp] theorem dmaStart_hbm (s : State) (c : Fin 16) : (dmaStart s c).hbm = s.hbm := by
  unfold dmaStart
  split <;> rfl

@[simp] theorem dmaStart_cm (s : State) (c : Fin 16) : (dmaStart s c).cm = s.cm := by
  unfold dmaStart
  split <;> rfl

@[simp] theorem getCore_dmaStart_spad (s : State) (c : Fin 16) : (getCore (dmaStart s c) c).spad = (getCore s c).spad := by
  unfold dmaStart
  split <;> simp

@[simp] theorem getCore_dmaStart_dmaTags (s : State) (c : Fin 16) :
    (getCore (dmaStart s c) c).dmaTags = (getCore s c).dmaTags := by
  unfold dmaStart
  split <;> simp

theorem dmaHead_map {α : Type} (g : DmaJob → α) (hg : ∀ j, g { j with started := true } = g j) (q : List DmaJob) :
    (dmaHead q).map g = q.map g := by
  cases q with
  | nil => rfl
  | cons j q => simp [dmaHead, hg]

/-- A start changes no descriptor and no slot of a queue. -/
theorem getCore_dmaStart_dmaQ (s : State) (c : Fin 16) (e : Fin 4) :
    (getCore (dmaStart s c) c).dmaQ[e].map (fun x => (x.desc, x.slot)) =
      (getCore s c).dmaQ[e].map (fun x => (x.desc, x.slot)) := by
  unfold dmaStart
  split
  · rfl
  · simp [dmaHead_map]

/-! ## A one-row copy -/

theorem markedGrans_of_clean (space a : Nat) {bs : List PByte} (h : anyMark bs = false) : markedGrans space a bs = 0 := by
  rw [markedGrans, List.length_eq_zero_iff, List.filter_eq_nil_iff]
  intro g _ hg
  obtain ⟨b, hb, hm⟩ := List.any_eq_true.1 hg
  exact Bool.eq_false_iff.1 h (List.any_eq_true.2 ⟨b, List.mem_of_mem_drop (List.mem_of_mem_take hb), hm⟩)

section
variable {s : State} {c : Fin 16} {p : Nat} {d : BitVec 256}

/-- The state a row leaves that is copied whole. -/
def copiedRow (s : State) (c : Fin 16) (p : Nat) (d : BitVec 256) : State :=
  let rd := devRead s (some c) p (dmaSpace d 0) (dmaAddr d 0) (dmaRowBytes d)
  devWrite rd.2 (some c) p (dmaSpace d 1) (dmaAddr d 1) rd.1

theorem dmaRun_oneRow (hsrc : devCheck s (some c) p (dmaSpace d 0) (dmaAddr d 0) (dmaRowBytes d) false = stOk)
    (hdst : devCheck s (some c) p (dmaSpace d 1) (dmaAddr d 1) (dmaRowBytes d) true = stOk)
    (hclean : anyMark (devRead s (some c) p (dmaSpace d 0) (dmaAddr d 0) (dmaRowBytes d)).1 = false) :
    dmaRun c p d 1 0 s 0 0 0 = (copiedRow s c p d, stOk, 0, dmaRowBytes d, 0) := by
  simp [dmaRun, dmaRowAddr, hsrc, hdst, hclean, markedGrans_of_clean, copiedRow]

/-- The state once the engine has retired a descriptor that ended OK (R172, R193). -/
def dmaEnded (u : State) (c : Fin 16) (e : Fin 4) (rest : List DmaJob) (tag n : Nat) : State :=
  bump (bump (bump (dmaStart (modCore u c (fun k => { k with
    dmaQ := k.dmaQ.set e rest, dmaTags := mput k.dmaTags tag (.done stOk) })) c) (.core c 5) e.val n) (.core c 5) 4) (.core c 5) 5 0

theorem exec_dmaComplete_ok {e : Fin 4} {j : DmaJob} {rest : List DmaJob} {u : State} {n : Nat}
    (hq : (getCore s c).dmaQ[e] = j :: rest) (hst : j.started = true) (hshape : dmaShapeOk j.desc = true)
    (hrun : dmaRun c (partOfCore s c) j.desc (dmaRows j.desc) 0 s 0 0 0 = (u, stOk, 0, n, 0)) :
    exec (.dmaComplete c e) s =
      .next (dmaEnded u c e rest (16 * e.val + j.slot) n) := by
  show execDmaComplete c e s = _
  simp only [execDmaComplete, hq, hst, hshape, hrun, Bool.not_true, Bool.false_eq_true, if_false, if_true, decide_true, Bool.true_or]
  rfl

end

theorem dmaEnded_stores (u : State) (c : Fin 16) (e : Fin 4) (rest : List DmaJob) (tag n : Nat) :
    let t := dmaEnded u c e rest tag n
    (getCore t c).dmaQ[e].map (fun x => (x.desc, x.slot)) = rest.map (fun x => (x.desc, x.slot)) ∧
      mget (getCore t c).dmaTags tag = some (.done stOk) ∧ t.hbm = u.hbm ∧ t.cm = u.cm ∧
      (getCore t c).spad = (getCore u c).spad := by
  refine ⟨?_, by simp [dmaEnded, mget_mput_self]⟩
  simp only [dmaEnded, getCore_bump, getCore_dmaStart_dmaQ]
  simp

/-- Settles O6: a descriptor that meets no check takes its slot, and a clean row is read, then written. -/
theorem dmaCompletes : Obligations.DmaCompletes := by
  unfold Obligations.DmaCompletes
  intro s c w e
  refine ⟨?_, ?_⟩
  · rintro _ i h hfn hread rfl hok hslot
    have hlt : fnX w < 4 := hfn ▸ e.isLt
    refine next_issue_done h rfl (decide_eq_true hlt) ?_
    rw [hread]
    simp only [hok, hfn, Nat.mod_eq_of_lt e.isLt, hslot, engFin_val, Bool.false_eq_true, if_false]
  · rintro j rest _ _ _ _ hq hst rfl hshape hrows rfl rfl rfl hsrc hdst hclean
    have hrun := dmaRun_oneRow hsrc hdst hclean
    rw [← hrows] at hrun
    exact ⟨_, exec_dmaComplete_ok hq hst hshape hrun, dmaEnded_stores ..⟩

end Sys2Proof.Machine

/-! The tile and group instructions (R197 to R238): the checks that pass let the effect through. -/

namespace Sys2Proof.Machine

open Sys2Proof

/-! ## Checks that pass -/

theorem firstAct_of_none {l : List (Option Act)} {a : Act} (h : ∀ x ∈ l, x = none) : firstAct l a = a := by
  induction l with
  | nil => rfl
  | cons x l ih =>
    obtain rfl := h x List.mem_cons_self
    exact ih fun y hy => h y (List.mem_cons_of_mem _ hy)

theorem tileCheck_passes {k : Core} {w : DWord} {useS : Bool} {f : Group → Act} {g : Group}
    (hrd : rdOk (getS k (fRd w)) = true) (hrc : rcOk (getS k (fRc w)) useS = true)
    (hg : mget k.groups (fld (getS k (fRd w)) 4 0) = some g)
    (hfit : fld (getS k (fRd w)) 31 16 + shapeM (getS k (fRc w)) * shapeN (getS k (fRc w)) ≤ groupElems g) :
    tileCheck k w useS f = f g := by
  simp [tileCheck, hrd, hrc, hg, Nat.not_lt.2 hfit]

/-- A scale that R52 allows where it asks for one. -/
theorem scaleFault_false {dt : Nat} {double : Bool} {sc : Int} (h : dt = 4 → double = false → -112 ≤ sc ∧ sc ≤ 119) :
    (dt = 0x4 && !double && !scaleFits sc) = false := by
  by_cases hdt : dt = 4
  · cases double with
    | false => simp [scaleFits, h hdt rfl]
    | true => simp
  · simp [hdt]

theorem tileMem_passes {s : State} {c : Fin 16} {q : Tile} {a : Act} (hal : q.stride % dtBytes q.dt = 0)
    (hlen : q.n * dtBytes q.dt ≤ q.stride)
    (hrow : ∀ i < q.m, spadCheck s c (dtBytes q.dt) (q.a + i * q.stride) (q.n * dtBytes q.dt) = none) :
    tileMem s c q a = a := by
  have hrows : firstAct ((List.range q.m).map
      (fun i => spadCheck s c (dtBytes q.dt) (q.a + i * q.stride) (q.n * dtBytes q.dt))) a = a :=
    firstAct_of_none (by simpa using fun i hi => hrow i hi)
  simp [tileMem, hal, Nat.not_lt.2 hlen, hrows]

/-! ## The array drains (R204, R208) -/

theorem exec_tmmaComplete_more {s : State} {c : Fin 16} {q : ArrayOp} {rest : List ArrayOp}
    (h : (getCore s c).array = q :: rest) (hmore : rest ≠ []) :
    exec (.tmmaComplete c) s = .next (macReport (modCore s c (fun k => { k with array := rest })) c {}) := by
  show execTmmaComplete c s = _
  simp only [execTmmaComplete, h, List.isEmpty_eq_false_iff.2 hmore, Bool.false_eq_true, if_false]
  exact congrArg (fun s => Host.Outcome.next (macReport s c {})) (modCore_congr rfl)

theorem exec_tmmaComplete_last {s : State} {c : Fin 16} {q : ArrayOp} (h : (getCore s c).array = [q]) :
    exec (.tmmaComplete c) s = .next (macReport (modCore s c (fun _ => { (flushAll (getCore s c) {}).1 with array := [] })) c
      (flushAll (getCore s c) {}).2) := by
  show execTmmaComplete c s = _
  simp only [execTmmaComplete, h, List.isEmpty_nil, if_true]

/-- Settles O7: what passes its checks enters the array or the queue, and the array's oldest leaves. -/
theorem tileInstructionsComplete : Obligations.TileInstructionsComplete := by
  unfold Obligations.TileInstructionsComplete
  rintro s c w _ _ _ _ _ g rfl rfl rfl rfl rfl hg hrd hfit
  refine ⟨fun h hdt hfn hz hrc hs ha hb => ?_, fun h hdt hfn hz hrc hs hal hlen hrow => ?_,
    fun h hdt hfn hz hrc hal hlen hrow hclean => ?_, fun h hfn hdt hz hrc => ?_,
    fun q rest hq hmore => exec_tmmaComplete_more hq hmore, fun q hq => exec_tmmaComplete_last hq⟩
  · have hbf : (dtA w = 0x1 && !g.double) = false := by
      rcases hdt with hdt | hdt | ⟨_, hdouble⟩ <;> simp [*]
    refine next_issue_done h rfl ?_ ((tileCheck_passes hrd hrc hg hfit).trans ?_)
    · rcases hdt with hdt | hdt | ⟨hdt, _⟩ <;> simp [hdt, hfn, hz]
    · simp only [hbf, scaleFault_false hs, Bool.false_eq_true, if_false]
      exact firstAct_of_none (by simp [ha, hb])
  · refine next_issue_done h rfl (by simp [hdt, hfn, hz]) ((tileCheck_passes hrd hrc hg hfit).trans ?_)
    exact (if_neg (Bool.eq_false_iff.1 (scaleFault_false hs))).trans (tileMem_passes hal hlen hrow)
  · refine next_issue_done h rfl (by simp [hdt, hfn, hz]) ((tileCheck_passes hrd hrc hg hfit).trans ?_)
    refine (tileMem_passes hal hlen hrow).trans (if_neg ?_)
    simpa [tileOf] using hclean
  · exact next_issue_done h rfl (by simp [hdt, hfn, hz]) (tileCheck_passes hrd hrc hg hfit)

/-! ## Groups and chains (R214 to R238) -/

theorem takeFirst_head {α : Type} {p : α → Bool} {x : α} (xs : List α) (h : p x = true) :
    takeFirst p (x :: xs) = (some x, xs) := by
  simp only [takeFirst, h, if_true]

theorem recCheck_passes {s : State} {c : Fin 16} {w : DWord} {a : Act} {g : Group}
    (hg : mget (getCore s c).groups (fRd w % 32) = some g)
    (hspad : spadCheck s c 32 (addrM (getCore s c) w) (recLen g + mapLen g) = none) : recCheck s c w a = a := by
  simp only [recCheck, hg]
  exact firstAct_of_none (by simp [hspad])

/-- Settles O8: what passes its checks takes effect or is queued, and a chain's send meets its add. -/
theorem groupInstructionsComplete : Obligations.GroupInstructionsComplete := by
  unfold Obligations.GroupInstructionsComplete
  intro s c w
  refine ⟨?_, fun h hfn himm hopen => ?_, fun g h hdt hfn hg hspad => ?_, fun g h hdt hfn hg hspad => ?_,
    fun d g h hfn himm hd hg hf => ?_, fun d g h hfn himm hd hg hf => ?_, ?_⟩
  · rintro _ h hfn hlow hhigh rfl hnone hfit hmeet
    refine next_issue_done h rfl (decide_eq_true hfn) ?_
    have hany : ((getCore s c).groups.any (fun x => blocksMeet x.2
        ⟨bitsOf (immU w) 15 6, bitsOf (immU w) 25 16 + 1, (fnI w).testBit 5⟩)) = false :=
      List.any_eq_false.2 fun x hx => by simp [hmeet x hx]
    have hfit' := Nat.not_lt.2 hfit
    simp only [hlow, hhigh, hnone, hany, hfit', bne_self_eq_false, Bool.or_self, Option.isSome_none, Bool.false_eq_true, if_false]
    rfl
  · have hsome : (mget (getCore s c).groups (fnI w % 32)).isNone = false := by
      rw [Nat.mod_eq_of_lt hfn, Option.isNone_eq_false_iff]
      exact hopen
    refine next_issue_done h rfl (decide_eq_true hfn) ?_
    simp only [himm, hsome, bne_self_eq_false, Bool.false_eq_true, if_false]
  · exact next_issue_done h rfl (by simp [hdt, hfn]) (recCheck_passes hg hspad)
  · exact next_issue_done h rfl (by simp [hdt, hfn]) (recCheck_passes hg hspad)
  · refine next_issue_done h rfl (by simp [hfn]) ?_
    simp only [hd, Nat.not_le.2 himm, Nat.mod_eq_of_lt himm, hg, hf, hfn, Bool.false_eq_true, if_false, if_true]
    rfl
  · refine next_issue_done h rfl (by simp [hfn]) ?_
    simp only [hd, Nat.not_le.2 himm, Nat.mod_eq_of_lt himm, hg, hf, hfn, Bool.false_eq_true, if_false, Nat.one_ne_zero]
    rfl
  · intro dst chan x xs y ys hx hy hxs hxd hxc hys hyd hyc
    show execChainTransferComplete c dst chan s = _
    simp only [execChainTransferComplete, hx, hy, takeFirst_head, hxs, hxd, hxc, hys, hyd, hyc, decide_true, Bool.and_self]

end Sys2Proof.Machine

/-! The Egret instructions (R250 to R280): the core that completes, the governed results of EFN, and the checks that pass. -/

namespace Sys2Proof.Machine

open Sys2Proof

/-! ## The core after a completion (R143, R192) -/

theorem getCore_finish (s : State) (c : Fin 16) (v : Bool) :
    getCore (finish s c v) c = { getCore s c with
      waiting := none
      loops := (loopNext ((getCore s c).pc.toNat / 8) (getCore s c).loops).1
      pc := match (loopNext ((getCore s c).pc.toNat / 8) (getCore s c).loops).2 with
        | some i => BitVec.ofNat 64 (8 * i)
        | none => (getCore s c).pc + 8 } := by
  have hk : getCore (retire s c v) c = { getCore s c with waiting := none } := by
    rw [(retire_onlyEvents s c v).getCore, getCore_modCore_self]
  rw [finish, advance, getCore_modCore_self, hk] <;> rfl

theorem OnlyEvents.pulseIrq (s : State) (pg : PageId) (bit : Nat) : OnlyEvents s (pulseIrq s pg bit) :=
  .updIrq s pg fun _ => rfl

/-! ## EFN (R250 to R255) -/

theorem egretCount_onlyEvents (s : State) (c : Fin 16) (l : List FnRes) : OnlyEvents s (egretCount s c l) := by
  have hdomain : OnlyEvents s (bump s (.core c 2) 1 (l.filter (·.domain)).length) := .bump ..
  unfold egretCount
  dsimp only
  split
  · exact (hdomain.trans (.bump ..)).trans (.bump ..)
  · exact ((hdomain.trans (.pulseIrq ..)).trans (.bump ..)).trans (.bump ..)

/-- Looking an element up among the governed results. -/
theorem find_active {wd : Nat} {mask : DWord} (g : Nat → FnRes) {j : Nat} (hj : j < elems wd) :
    ((active wd mask).map (fun i => (i, g i))).find? (fun x => x.1 = j) =
      if mask.toNat.testBit (laneOf wd j) then some (j, g j) else none := by
  have hcomp : (fun x : Nat × FnRes => decide (x.1 = j)) ∘ (fun i => (i, g i)) = (fun i => i == j) := rfl
  rw [List.find?_map, hcomp]
  split
  case isTrue h =>
    have hmem : j ∈ active wd mask := by simpa [active, hj] using h
    obtain ⟨i, hi⟩ := Option.isSome_iff_exists.1
      (List.find?_isSome (p := fun i => i == j).2 ⟨j, hmem, beq_self_eq_true j⟩)
    have hij := List.find?_some hi
    rw [hi, beq_iff_eq.1 hij, Option.map_some]
  case isFalse h =>
    have hmem : j ∉ active wd mask := by simp [active, h]
    rw [List.find?_eq_none.2 fun i hi => by simpa using fun hij : i = j => hmem (hij ▸ hi), Option.map_none]

/-- The destination of an EFN: each governed element takes its function's bits. -/
def efnResult (k : Core) (w : DWord) : BitVec 2048 :=
  vmap (dtWidth (dtA w)) (laneMask k w) (getV k (fRd w)) (fun j =>
    (efnElem k (fnA w) (dtA w) (scaleOf k (fRc w)) (elem (dtWidth (dtA w)) (getV k (fRa w)) j)).bits)

theorem efnResult_builtin {k : Core} {w : DWord} (h : fnA w ≤ 0x0C) :
    efnResult k w = vmap (dtWidth (dtA w)) (laneMask k w) (getV k (fRd w)) (fun j =>
      (builtin (fnA w) (dtA w) (scaleOf k (fRc w)) (elem (dtWidth (dtA w)) (getV k (fRa w)) j)).bits) := by
  have h20 : ¬ 0x20 ≤ fnA w := by omega
  have h80 : ¬ 0x80 ≤ fnA w := by omega
  simp only [efnResult, efnElem, h20, h80, if_false]

/-- What EFN leaves of its core, up to the long-log words. -/
theorem efnAct_core (s : State) (c : Fin 16) (w : DWord) :
    ∃ t, efnAct c w s = .done t ∧
      ∃ m, getCore t c = { setV (getCore s c) (fRd w) (efnResult (getCore s c) w) with l32 := m } := by
  refine ⟨_, rfl, ?_⟩
  simp only [(egretCount_onlyEvents _ _ _).getCore, apply_ite (getCore · c), getCore_bump, ite_self,
    (OnlyEvents.drawFree _).getCore, getCore_modCore_self]
  refine ⟨_, congrArg (fun v => ({ setV (getCore s c) (fRd w) v with l32 := _ } : Core))
    (congrArg (ofElems _) (List.map_congr_left fun j hj => ?_))⟩
  rw [find_active _ (List.mem_range.1 hj)]
  by_cases hgov : (laneMask (getCore s c) w).toNat.testBit (laneOf (dtWidth (dtA w)) j)
  · simp only [hgov, if_true]
  · simp only [hgov, if_false, Bool.false_eq_true]

/-! ## Checks that pass -/

theorem gatedRead_readable {s : State} {rq : Requester} {pg p : PageId} (k : PageId → State) (h : readable s rq pg = some p) :
    gatedRead s rq pg k = k p := by
  simp only [gatedRead, h]

/-- Writing a vector register changes the vector file only. -/
theorem setV_eq (k : Core) (i : Nat) (v : BitVec 2048) : setV k i v = { k with vregs := (setV k i v).vregs } := by
  unfold setV
  split <;> rfl

/-- A phase SUM reads its one row and writes none (R265). -/
theorem rowSum_checks {q : RowOp} {rc : DWord} (hphase : q.phase = 1) (h : rowShapeOk q rc = true) :
    q.rows = 1 ∧ rowReads q = true ∧ rowWrites q = false := by
  simp only [rowShapeOk, hphase, Bool.and_eq_true] at h
  obtain ⟨⟨⟨-, hrows⟩, -⟩, -⟩ := h
  exact ⟨by simpa using hrows, by simp [rowReads, hphase], by simp [rowWrites, hphase]⟩

/-- Settles O9: EFN writes its governed results, a row or an image that passes its checks is queued, and the image read
answers and moves on. -/
theorem egretInstructionsComplete : Obligations.EgretInstructionsComplete := by
  unfold Obligations.EgretInstructionsComplete
  rintro s c w _ rfl
  refine ⟨fun h hfn hdt hz => ?_, ?_, fun h hfn hdt hhead himage => ?_, fun rq n n' hp => ?_⟩
  · obtain ⟨t, ht, m, hm⟩ := efnAct_core s c w
    have hmod : fnA w % 64 = fnA w := Nat.mod_eq_of_lt (by omega)
    have hbit : (fnA w).testBit 6 = false := Nat.testBit_lt_two_pow (by omega)
    have h20 : ¬ 0x20 ≤ fnA w := by omega
    have h80 : ¬ 0x80 ≤ fnA w := by omega
    refine ⟨finish t c false, next_issue_done h rfl (by simp [hmod, hbit, hfn, hdt, hz]) ?_, ?_⟩
    · simp only [hmod, h20, h80, if_false, ht]
    · rw [← efnResult_builtin hfn, withV, getCore_modCore_self, getCore_finish, hm, setV_eq]
      exact ⟨rfl, rfl, rfl, rfl, fun hl => by simp [hl, loopNext]⟩
  · rintro _ rfl h hdt hz hop hphase hshape hslot hspad
    refine next_issue_done h rfl (by simp [hdt, hop, hz]) ?_
    obtain ⟨hrows, hreads, hwrites⟩ := rowSum_checks hphase hshape
    simp only [hphase, hshape, hslot, hrows, hreads, hwrites, Bool.not_true, Bool.false_eq_true, if_false, if_true]
    exact firstAct_of_none (by simpa using hspad)
  · refine next_issue_done h rfl (by simp [hfn, hdt]) ?_
    simp only [hhead]
    exact firstAct_of_none (by simp [himage])
  · exact congrArg Host.Outcome.next (gatedRead_readable _ hp)

end Sys2Proof.Machine

/-! Sandpiper and the fold (R287 to R319): the checks of a descriptor that pass, and the end of a fold whose two sides agree. -/

namespace Sys2Proof.Machine

open Sys2Proof

/-! ## Checks that pass (R288, R323, R324) -/

theorem selCheck_passes {s : State} {c : Fin 16} {shape : Bool} {ins outs : List Span} {same : Span → Span → Bool} {a : Act}
    (hshape : shape = true) (hspans : ∀ x ∈ ins ++ outs, x.a % x.al = 0 ∧ spadOk s c x.a x.n = true)
    (hover : overlaps ins outs same = false) : selCheck s c shape ins outs same a = a := by
  have haligned : (ins ++ outs).find? (fun x => x.a % x.al != 0) = none :=
    List.find?_eq_none.2 fun x hx => by simp [(hspans x hx).1]
  have hrange : (ins ++ outs).find? (fun x => !spadOk s c x.a x.n) = none :=
    List.find?_eq_none.2 fun x hx => by simp [(hspans x hx).2]
  simp only [selCheck, hshape, haligned, hrange, hover, Bool.not_true, Bool.false_eq_true, if_false]

theorem descAct_passes {s : State} {c : Fin 16} {w : DWord} {f : BitVec 512 → Bool → Act}
    (h : spadCheck s c 64 (getS (getCore s c) (fRa w)).toNat 64 = none) :
    descAct s c w f = f (BitVec.ofNat 512 (leNat (spadRead s c (getS (getCore s c) (fRa w)).toNat 64)))
      (spadPoison s c (getS (getCore s c) (fRa w)).toNat 64) := by
  simp only [descAct, h]

/-! ## The end of a fold (R314, R315, R325) -/

theorem getCore_selReport (s : State) (c : Fin 16) (flags : Nat) :
    getCore (selReport s c flags) c = { getCore s c with lastFlags := flags % 256 } := by
  simp only [selReport, apply_ite (getCore · c), (OnlyEvents.pulseIrq _ _ _).getCore, getCore_bump, ite_self,
    getCore_modCore_self]

theorem getCore_foldOk (s : State) (c : Fin 16) (f : FoldPend) : ∃ spad, getCore (foldOk s c f) c =
    { setS { getCore s c with spad := spad, fold := none } f.rd (f.status.zeroExtend 64) with lastFlags := f.flags % 256 } := by
  refine ⟨(getCore s c).spad.storeP 32 f.summaryAddr (withMark f.poisoned f.summary), ?_⟩
  simp only [foldOk, getCore_selReport, putSummary, spadWriteP, getCore_modCore_self, foldCounts, getCore_bump]

/-- Writing a scalar register changes the scalar file only, and there the same for two cores with one file. -/
theorem setS_eq (k : Core) (i : Nat) (v : DWord) : setS k i v = { k with sregs := (setS k i v).sregs } := by
  unfold setS
  split <;> rfl

theorem setS_sregs_congr {k k' : Core} (i : Nat) (v : DWord) (h : k.sregs = k'.sregs) :
    (setS k i v).sregs = (setS k' i v).sregs := by
  unfold setS
  split <;> simp [h]

/-- Settles O10: what passes its checks is queued, or folds, and a fold whose sides agree ends with its status in RD. -/
theorem sandpiperInstructionsComplete : Obligations.SandpiperInstructionsComplete := by
  unfold Obligations.SandpiperInstructionsComplete
  rintro s c w _ _ rfl rfl
  refine ⟨fun h hdt hfn hz hspad hsel hrc hri hro hg hs hnar hspans hover => ?_, fun h hdt hfn hz => ?_,
    fun h hdt hfn hz hregs => ?_, fun h hdt hfn hz hnew hlow hhigh => ?_, fun l h hfn hdt hz hl hspad => ?_,
    fun h hdt hfn hz hspad hsel hrc hgs hspans hover => ?_, fun f hf heq => ?_⟩
  · refine next_issue_done h rfl (by simp [hdt, hfn, hz]) ((descAct_passes hspad).trans (selCheck_passes ?_ hspans hover))
    simp [hsel, hrc, hri, hro, hg, hnar, hs]
  · exact next_issue_done h rfl (by simp [hdt, hz]) (if_pos hfn)
  · exact next_issue_done h rfl (by simp [hdt, hz]) ((if_neg (Nat.not_le.2 hfn)).trans (if_pos hregs))
  · refine next_issue_done h rfl (by simp [hdt, hz]) ((if_neg (Nat.not_le.2 hfn)).trans ((if_pos hnew).trans ?_))
    exact if_pos ⟨hlow, hhigh⟩
  · refine next_issue_done h rfl hz ?_
    simp only [hfn, hdt, hl, bne_self_eq_false, Bool.or_self, Bool.false_eq_true, if_false]
    exact firstAct_of_none (by simp [hspad])
  · refine next_issue_done h rfl (by simp [hdt, hfn, hz]) ((descAct_passes hspad).trans (selCheck_passes ?_ hspans hover))
    simp [hsel, hrc, hgs]
  · obtain ⟨spad, hcore⟩ := getCore_foldOk s c f
    refine ⟨foldOk s c f, ?_, ?_⟩
    · show execConservationCheck c 0 s = _
      simp [execConservationCheck, hf, heq]
    · rw [hcore, setS_eq]
      exact ⟨rfl, setS_sregs_congr _ _ rfl, rfl, rfl⟩

end Sys2Proof.Machine

/-! The packer, messages, posts, waits and software traps (R152, R174 to R186, R353 to R358, R586 to R588). -/

namespace Sys2Proof.Machine

open Sys2Proof

/-! ## The packer (R353, R375) -/

theorem packAct_takes {s : State} {c : Fin 16} {w : DWord} {op tag : Nat}
    (hspad : spadCheck s c 64 (addrX (getCore s c) w) 64 = none) (htag : freeTag s (partOfCore s c) = some tag)
    (hroom : (getCore s c).packQ.length < 4) :
    packAct c w op s = .done (modCore (takeCtx s tag (coreCtxOf s c .pack (addrX (getCore s c) w))) c (fun k => setS { k with
      packQ := k.packQ ++ [⟨op, addrX (getCore s c) w, tag⟩] } (fRd w) (BitVec.ofNat 64 tag))) := by
  simp only [packAct, hspad, htag, Nat.not_le.2 hroom, if_false, coreCtxOf]

/-- What a context's end does to the contexts rests on them alone. -/
theorem finishCtx_ctxs_congr {s t : State} (tag : Nat) (r : Result) (h : s.ctxs = t.ctxs) :
    (finishCtx s tag r).ctxs = (finishCtx t tag r).ctxs := by
  unfold finishCtx
  rw [h]
  split
  · split <;> simp [h]
  · exact h

/-- A context's end changes the contexts only. -/
theorem finishCtx_eq (s : State) (tag : Nat) (r : Result) :
    finishCtx s tag r = { s with ctxs := (finishCtx s tag r).ctxs } := by
  unfold finishCtx
  split
  · split <;> rfl
  · rfl

theorem getCore_finishCtx (s : State) (c : Fin 16) (tag : Nat) (r : Result) : getCore (finishCtx s tag r) c = getCore s c := by
  rw [finishCtx_eq]
  rfl

theorem finishCtx_hbm (s : State) (tag : Nat) (r : Result) : (finishCtx s tag r).hbm = s.hbm := by rw [finishCtx_eq]

theorem finishCtx_cm (s : State) (tag : Nat) (r : Result) : (finishCtx s tag r).cm = s.cm := by rw [finishCtx_eq]

theorem OnlyEvents.modCore {s t : State} (h : OnlyEvents s t) (c : Fin 16) (f : Core → Core) :
    OnlyEvents (modCore s c f) (modCore t c f) := by
  refine ⟨?_, h.regs⟩
  rw [h.rest]
  rfl

theorem OnlyEvents.ite {s t u : State} {p : Prop} [Decidable p] (h : OnlyEvents s t) (h' : OnlyEvents s u) :
    OnlyEvents s (if p then t else u) := by
  split
  · exact h
  · exact h'

/-- What a run of the packer that ended as `e` leaves, up to what a page sees and the context's result. -/
def packEnded (e : PackEnd) (c : Fin 16) (rest : List PackOp) : State :=
  Machine.modCore e.s c (fun k => { k with packQ := rest, lastStatus := e.code.toNat, lastDetail := e.detail })

theorem exec_packCompletion {s : State} {c : Fin 16} {x : PackOp} {rest : List PackOp} {e : PackEnd}
    (hq : (getCore s c).packQ = x :: rest)
    (he : e = if x.op = 1 then runUnpack s c (packDesc (spadRead s c x.addr 64)) (spadPoison s c x.addr 64)
      else runPack s c (packDesc (spadRead s c x.addr 64)) (x.op = 2) (spadPoison s c x.addr 64)) :
    ∃ u, OnlyEvents (packEnded e c rest) u ∧
      exec (.packCompletion c) s = .next (finishCtx u x.tag { code := e.code, detail := e.detail }) := by
  show ∃ u, _ ∧ execPackCompletion c s = _
  simp only [execPackCompletion, hq, ← he]
  refine ⟨_, .trans (.modCore ?_ _ _) (.captureError ..), rfl⟩
  have hcount : OnlyEvents e.s (bump e.s (.core c 4) (if x.op = 1 then 1 else 0)) := .bump ..
  exact .ite ((hcount.trans (.bump ..)).trans (.pulseIrq ..)) hcount

/-- Settles O11: an instruction takes its context and joins the queue, and the completion records how the oldest ended. -/
theorem packerCompletes : Obligations.PackerCompletes := by
  unfold Obligations.PackerCompletes
  rintro s c w tag _ hspad htag hroom hcore hchan rfl
  refine ⟨fun h hfn => ?_, fun h hfn => ?_, fun h hfn => ?_, ?_⟩
  · exact next_issue_done (l := true) h (congrArg Host.Outcome.next (by simp [hfn, hcore, hchan])) rfl (packAct_takes hspad htag hroom)
  · exact next_issue_done h (congrArg Host.Outcome.next (if_neg (by simp [hfn]))) (by simp [hfn, hcore, hchan])
      (packAct_takes hspad htag hroom)
  · exact next_issue_done h rfl (by simp [hfn, hcore, hchan]) (packAct_takes hspad htag hroom)
  · intro x rest e hq he
    obtain ⟨u, hu, hexec⟩ := exec_packCompletion hq he
    have hcore : getCore u c = _ := (hu.getCore c).trans (getCore_modCore_self ..)
    refine ⟨_, hexec, ?_⟩
    rw [getCore_finishCtx, hcore, finishCtx_ctxs_congr x.tag _ (show u.ctxs = e.s.ctxs by rw [hu.rest]; rfl), finishCtx_hbm, finishCtx_cm]
    exact ⟨rfl, rfl, rfl, rfl, by rw [hu.rest]; rfl, by rw [hu.rest]; rfl, rfl⟩

/-! ## Messages (R174 to R180) -/

theorem ofNat_bit01 (b : Bool) : BitVec.ofNat 64 (bit01 b) = if b then 1 else 0 := by cases b <;> rfl

/-- Settles O12: a message leaves with a credit, enters its receiver's queue, and is taken from its head. -/
theorem messagesComplete : Obligations.MessagesComplete := by
  unfold Obligations.MessagesComplete
  rintro s c d w _ rfl
  refine ⟨fun h hfn hd hspad hf hcr => exec_send_of_credit hfn hd hspad h hf hcr, fun chan m ms hm hsrc hdst hchan => ?_,
    fun m ms h hfn hd hspad hq hsrc hchan => exec_recv_head hfn hd hspad h hq hsrc hchan,
    fun m ms h hfn hspad hq hchan => ?_, fun h hfn hd => ?_⟩
  · show execMessageDelivery c d chan s = _
    simp only [execMessageDelivery, hm, takeFirst_head, hsrc, hdst, hchan, decide_true, Bool.and_self]
  · have htake := takeMsg_head (p := fun m => m.chan = chanX w) w hq (by simp [hchan])
    refine ⟨finish (withS (receivedMsg s c w m ms) c (fRd w) (BitVec.ofNat 64 (partLogical s m.src))) c true,
      next_issue_done h rfl (decide_eq_true hfn) ?_, ?_⟩
    · simp only [msgCheck, hspad, htake]
      rfl
    · rw [getCore_finish, withS, receivedMsg, getCore_modCore_self, getCore_bump, spadWriteP, spadWriteP, getCore_modCore_self,
        getCore_modCore_self, getCore_modCore_self, setS_eq]
      exact ⟨rfl, rfl, setS_sregs_congr _ _ rfl⟩
  · refine next_issue_doneS h rfl (decide_eq_true hfn) ?_
    simp only [hd, ofNat_bit01]

/-! ## Posts (R443, R494, R586, R588) -/

theorem postAct_takes {s : State} {c : Fin 16} {w : DWord} {kind : CtxKind} {tag : Nat}
    (htag : freeTag s (partOfCore s c) = some tag) (hspad : spadCheck s c 1 (getS (getCore s c) (fRa w)).toNat 64 = none)
    (hpacer : s.pacer.st ≠ .running) :
    postAct c w kind s = .done (withS (takeCtx s tag (coreCtxOf s c kind (getS (getCore s c) (fRa w)).toNat)) c (fRd w)
      (BitVec.ofNat 64 tag)) := by
  simp only [postAct, hspad, htag, hpacer, if_false, decide_false]
  rfl

/-- Settles O13: a post takes the lowest free context for the descriptor at RA. -/
theorem postsComplete : Obligations.PostsComplete := by
  unfold Obligations.PostsComplete
  intro s c w tag htag hspad hfn hpacer
  exact ⟨fun h => next_issue_done h rfl (decide_eq_true hfn) (postAct_takes htag hspad hpacer),
    fun h => next_issue_done h rfl (decide_eq_true hfn) (postAct_takes htag hspad hpacer)⟩

/-! ## Waits (R152, R169, R182, R550, R587) -/

theorem bitList_two_pow {i n : Nat} (h : i < n) : bitList (2 ^ i) n = [i] := by
  have htest : (fun j => (2 ^ i).testBit j) = fun j => j == i := by
    funext j
    rw [Nat.testBit_two_pow, Bool.beq_eq_decide_eq, decide_eq_decide]
    exact eq_comm
  rw [bitList, htest, List.filter_beq, List.count_eq_one_of_mem List.nodup_range (List.mem_range.2 h), List.replicate_one]

/-- Settles O14: each wait goes on when what it waits for has come about. -/
theorem waitsComplete : Obligations.WaitsComplete := by
  unfold Obligations.WaitsComplete
  rintro s c w _ rfl
  refine ⟨fun h hfn hdone => ?_, fun code h hfn htag => ?_, fun x r h hfn hx hr => ?_, fun t h hfn ht hbit hdone hfirst => ?_,
    fun h hfn => next_issue_doneS h rfl (decide_eq_true hfn) rfl, fun h hmask hcount hpeer hf => ?_,
    fun x h hfn hx hissued hfires => ?_⟩
  · refine next_issue_done h rfl (decide_eq_true hfn) (if_pos ?_)
    exact List.all_eq_true.2 fun i hi => by
      obtain ⟨hi, hbit⟩ := List.mem_filter.1 hi
      exact hdone i (List.mem_range.1 hi) hbit
  · refine next_issue_done h rfl (by simp [hfn]) ?_
    simp only [hfn, htag, if_true]
    rfl
  · refine next_issue_done h rfl (by simp [hfn]) ?_
    simp only [hfn, hx, hr, Nat.one_ne_zero, if_false]
    rfl
  · refine next_issue_done h rfl (decide_eq_true hfn) ?_
    rw [bitList, List.find?_filter, List.find?_range_eq_some.2 ⟨?_, List.mem_range.2 ht, ?_⟩]
    · rfl
    · obtain ⟨code, hcode⟩ := hdone
      simp [hbit, hcode]
    · intro u hu
      cases hu' : (getS (getCore s c) (fRa w)).toNat.testBit u with
      | false => simp
      | true =>
        have hopen := hfirst u hu hu'
        simp
  · have hlt : partLogical s c < 16 := by
      by_contra hge
      have h16 : 2 ^ 16 ≤ 2 ^ partLogical s c := Nat.pow_le_pow_right (by decide) (Nat.le_of_not_lt hge)
      omega
    refine next_issue_done h rfl rfl ?_
    simp [hmask, bitList_two_pow hlt, hpeer, hf]
  · refine next_issue_done h rfl (decide_eq_true hfn) ?_
    simp only [hx, hissued, hfires, decide_false, Bool.not_true, Bool.or_self, Bool.false_eq_true, if_false]

/-! ## Software traps (R181, R184 to R186) -/

/-- Settles O15: each cause reaches the trap, which records it. -/
theorem softwareTrapsComplete : Obligations.SoftwareTrapsComplete := by
  unfold Obligations.SoftwareTrapsComplete
  rintro s c w i cause code (⟨rfl, h, hfn, rfl, rfl⟩ | ⟨rfl, h, hfn, rfl, rfl⟩ | ⟨rfl, hst, happlies, hreg, ⟨x, hx, rfl⟩, rfl, rfl⟩)
  · refine ⟨_, next_issue_runs h rfl (decide_eq_true hfn), (getCore_takeTrap ..).trans ?_⟩
    rw [Nat.mod_mod]
    rfl
  · exact ⟨_, next_issue_runs h rfl (decide_eq_true hfn), getCore_takeTrap ..⟩
  · refine ⟨takeTrap s c x.w 0x07 0 0x07 0, ?_, getCore_takeTrap ..⟩
    show execWaitTimeout c s = _
    simp [execWaitTimeout, hx, coreBusy, hst, happlies, hreg]

end Sys2Proof.Machine

/-! Control memory (R154, R155, R643 to R651) over a directory that lists a line twice.  Both statements speak of every state; they
describe what follows a line's update by the line as it was, which needs the directory in canonical form. -/

namespace Sys2Proof.Machine

open Sys2Proof

/-- A device in service, its core 0 running, with the directory `dir`. -/
def servingWith (dir : SMap DirLine) : State := { State.reset with
  power := { phase := .ready }
  units := { cores := 0xFFFF, slices := 0xFFFF }
  pages := Vector.replicate 155 { enable := true, ready := true }
  cores := (Vector.replicate 16 {}).set 0 { st := .running }
  dir := dir }

/-- The RETRY bit of core 0 is all that the first entry of line 0x40 holds; a second entry is poisoned. -/
def poisonBehind : State := servingWith [(0x40, { retried := 1 }), (0x40, { cachedPoison := true })]

/-- CMLD s1, [s0 + 0x1000], the first word of line 0x40. -/
def cmldWord : DWord := 0x8500400000001000

theorem exec_cmld_poisonBehind_traps : ∃ t, exec (.cmld 0 cmldWord) poisonBehind = .next t ∧ (getCore t 0).st = .trapped :=
  ⟨_, rfl, by decide +kernel⟩

/-- Refutes O16: in a directory that lists line 0x40 twice, asking for the line deletes its first entry, and the poisoned one
behind it makes CMLD trap. -/
theorem not_controlMemoryAccessesComplete : ¬ Obligations.ControlMemoryAccessesComplete := by
  unfold Obligations.ControlMemoryAccessesComplete
  intro h
  obtain ⟨-, hmiss, -⟩ := h poisonBehind 0 cmldWord 0x1000 0x40 0 { retried := 1 } (by decide +kernel) rfl rfl
    (by decide +kernel) (by decide +kernel) (by decide +kernel) (by decide +kernel) (by decide +kernel) rfl
  obtain ⟨t, ht, htrapped⟩ := exec_cmld_poisonBehind_traps
  have hdone := hmiss (by decide +kernel) (by decide +kernel) (by decide +kernel) (by decide +kernel) (by decide +kernel) rfl
  rw [hdone, Host.Outcome.next.injEq] at ht
  rw [← ht] at htrapped
  exact absurd htrapped (by decide +kernel)

/-- The RETRY bit of agent 3 is all that the first entry of line 0x4000 holds; in a second entry agent 5 heads the queue. -/
def queueBehind : State := servingWith [(0x4000, { retried := 8 }), (0x4000, { resv := [5] })]

theorem exec_getm_queueBehind_refused : ∃ t, exec (.getm 3 0x4000) queueBehind = .next t ∧ t.granted = [] :=
  ⟨_, rfl, by decide +kernel⟩

/-- Refutes O17: in a directory that lists line 0x4000 twice, asking for the line deletes its first entry, and the queue of the
one behind it refuses the GETM. -/
theorem not_directoryCommandsComplete : ¬ Obligations.DirectoryCommandsComplete := by
  unfold Obligations.DirectoryCommandsComplete
  intro h
  obtain ⟨hserve, -⟩ := h queueBehind 3 0x4000 { retried := 8 } _ (by decide +kernel) rfl
  obtain ⟨hserved, -⟩ := hserve (by decide +kernel) (by decide +kernel) (by decide +kernel)
  obtain ⟨hgrant, -⟩ := (hserved (by decide +kernel) (by decide +kernel)).2 (by decide +kernel)
  obtain ⟨t, ht, hgranted⟩ := exec_getm_queueBehind_refused
  rw [hgrant, Host.Outcome.next.injEq] at ht
  rw [← ht] at hgranted
  exact absurd hgranted (by decide +kernel)

end Sys2Proof.Machine

/-! Register pages (R94 to R124): what reaches a page, and the route words of the interrupt tree. -/

namespace Sys2Proof.Machine

open Sys2Proof

/-! ## An effect under a condition that holds -/

section
variable {s t u : State} {a : Access} {pg p : PageId}

theorem next_if_pos {c : Prop} [Decidable c] (h : c) : (.next (if c then t else u) : Res) = .next t := by rw [if_pos h]

theorem next_if_neg {c : Prop} [Decidable c] (h : ¬ c) : (.next (if c then t else u) : Res) = .next u := by rw [if_neg h]

theorem next_gated (off : Nat) (k : PageId → State) (h : reaches s a pg p = true) :
    (.next (gated s a pg off k) : Res) = .next (k p) := by rw [gated_reaches off k h]

end

/-- Settles O18: what reaches its page acts there, and what is read is cleared or shadowed. -/
theorem headerCommandsComplete : Obligations.HeaderCommandsComplete := by
  unfold Obligations.HeaderCommandsComplete
  intro s a pg p data
  refine ⟨fun h => ⟨execIrqStatusClear_reaches data h, ?_, ?_, ?_, ?_⟩,
    fun rq h => ⟨congrArg Host.Outcome.next (gatedRead_readable _ h), fun pair hpair => ⟨?_, ?_⟩⟩,
    fun rq h => congrArg Host.Outcome.next (gatedRead_readable _ h), fun hdis hidle => ?_⟩
  iterate 4 exact next_gated _ _ h
  · exact congrArg Host.Outcome.next ((gatedRead_readable _ h).trans (if_pos hpair))
  · refine congrArg Host.Outcome.next ((gatedRead_readable _ h).trans ((if_pos hpair).trans ?_))
    simp only [if_true, ofNat_toNat_self]
  · show execEnableClearOnIdle pg s = _
    simp only [execEnableClearOnIdle, hdis, hidle, Bool.and_self, if_true]

/-! ## Route words (R122, R124) -/

theorem srcLevel_putReg (s : State) (pg : PageId) (off v src : Nat) : srcLevel (putReg s pg off v) src = srcLevel s src := by
  have hline : ∀ q, pageLine (getPage (putReg s pg off v) q) = pageLine (getPage s q) := by
    intro q
    by_cases hq : q = pg
    · subst hq
      rw [putReg, getPage_modPage_self]
      rfl
    · rw [putReg, getPage_modPage_of_ne _ _ hq]
  unfold srcLevel
  split
  · rw [hline]
    rfl
  · rfl

/-- A conjunction, split at bit `k`. -/
theorem and_split (k n m : Nat) : n &&& m = (n % 2 ^ k &&& m % 2 ^ k) + 2 ^ k * (n / 2 ^ k &&& m / 2 ^ k) := by
  rw [← Nat.and_mod_two_pow, ← Nat.and_div_two_pow, Nat.mod_add_div]

theorem bit01_testBit (n i : Nat) : bit01 (n.testBit i) = n / 2 ^ i % 2 := by
  rw [← Nat.toNat_testBit]
  cases n.testBit i <;> rfl

/-- The defined bits of a route word are bits 5:0 and 15 of each entry. -/
theorem routeBits_eq (d : Word) :
    bitsOf d.toNat 5 0 + bit01 (d.toNat.testBit 15) * 2 ^ 15 + bitsOf d.toNat 21 16 * 2 ^ 16 + bit01 (d.toNat.testBit 31) * 2 ^ 31 =
      d.toNat &&& 0x803F803F := by
  have hlt := d.isLt
  generalize d.toNat = n at hlt ⊢
  have hlow : n % 64 &&& 63 = n % 64 := by rw [Nat.and_two_pow_sub_one_eq_mod _ 6, Nat.mod_mod]
  have hmid : n / 32768 % 128 &&& 127 = n / 32768 % 128 := by rw [Nat.and_two_pow_sub_one_eq_mod _ 7, Nat.mod_mod]
  have hhigh : n / 2147483648 &&& 1 = n / 2147483648 % 2 := Nat.and_two_pow_sub_one_eq_mod _ 1
  rw [and_split 6, and_split 9 (n / 2 ^ 6), and_split 7 (n / 2 ^ 6 / 2 ^ 9), and_split 9 (n / 2 ^ 6 / 2 ^ 9 / 2 ^ 7)]
  norm_num [Nat.div_div_eq_div_mul, hlow, hmid, hhigh, bitsOf, bit01_testBit, Nat.shiftRight_eq_div_pow]
  omega

/-- Settles O19: the page that answers takes the write, and a route word takes its defined bits. -/
theorem registerWritesComplete : Obligations.RegisterWritesComplete := by
  unfold Obligations.RegisterWritesComplete
  intro s a data
  refine ⟨fun addr pg p off hpg hoff hroute h => ?_, fun i v hp hbe hlo hhi hlow hhigh hv => ?_⟩
  · subst hoff
    show execRegisterWrite a addr data s = _
    simp only [execRegisterWrite, hpg, hroute, if_false, gated_reaches _ _ h]
  · have hword : bitsOf data.toNat 15 0 % 65536 + 65536 * bitsOf data.toNat 31 16 = data.toNat := by
      have := data.isLt
      simp only [bitsOf, Nat.shiftRight_eq_div_pow]
      omega
    show execIrqRouteWrite a i data s = _
    simp only [execIrqRouteWrite, hp, hbe, hlo, hhi, bne_self_eq_false, Bool.false_eq_true, if_false, if_true, hword, routeBits_eq,
      srcLevel_putReg, hlow, hhigh, Bool.and_false, ← hv]

end Sys2Proof.Machine

/-! Power, boot and resets (R82 to R89, R136, R583, R608 to R619, R714 to R722). -/

namespace Sys2Proof.Machine

open Sys2Proof

theorem modPower_congr {s : State} {f g : Power → Power} (h : f s.power = g s.power) : modPower s f = modPower s g := by
  rw [modPower, modPower, h]

/-! ## The pages of a device in service (R92, R613) -/

/-- The page is enabled and ready. -/
def opened (s : State) (pg : PageId) : Prop := (getPage s pg).enable = true ∧ (getPage s pg).ready = true

/-- A page made ready, as STATUS_READY leaves it. -/
def openPage (s : State) (pg : PageId) : State := modPage s pg (fun p => { p with enable := true, ready := true })

theorem opened_openPage (s : State) (pg q : PageId) (h : q = pg ∨ opened s q) : opened (openPage s pg) q := by
  by_cases hq : q = pg
  · subst hq
    simp only [opened, openPage, getPage_modPage_self, and_self]
  · simpa only [opened, openPage, getPage_modPage_of_ne _ _ hq] using h.resolve_left hq

theorem opened_foldl_openPage {l : List PageId} {s : State} {q : PageId} (h : q ∈ l ∨ opened s q) :
    opened (l.foldl openPage s) q := by
  induction l generalizing s with
  | nil => exact h.resolve_left List.not_mem_nil
  | cons pg l ih =>
    refine ih ?_
    rcases h with h | h
    · rcases List.mem_cons.1 h with h | h
      · exact .inr (opened_openPage s pg q (.inl h))
      · exact .inl h
    · exact .inr (opened_openPage s pg q (.inr h))

theorem units_foldl_openPage (l : List PageId) (s : State) : (l.foldl openPage s).units = s.units := by
  induction l generalizing s with
  | nil => rfl
  | cons pg l ih => exact (ih _).trans rfl

theorem opened_of_pages {s t : State} {q : PageId} (hp : t.pages = s.pages) (h : opened s q) : opened t q := by
  simpa only [opened, getPage, hp] using h

theorem opened_bump {s : State} {q : PageId} (pg : PageId) (i n : Nat) (h : opened s q) : opened (bump s pg i n) q := by
  unfold bump
  split
  · exact h
  · by_cases hq : q = pg
    · subst hq
      simpa only [opened, getPage_modPage_self] using h
    · simpa only [opened, getPage_modPage_of_ne _ _ hq] using h

theorem opened_presentBittern {s : State} {q : PageId} (h : opened s q) : opened (presentBittern s) q := by
  have hline : ∀ u, opened u q → opened (if pageLine (getPage u .bittern) then deliverSrc u (pageSrc .bittern) else u) q := by
    intro u hu
    split
    · exact opened_of_pages (deliverSrc_pages _ _) hu
    · exact hu
  unfold presentBittern
  split
  · exact h
  · refine hline _ ?_
    split
    · exact opened_bump _ _ _ h
    · exact h

theorem announceReady_pages (s : State) : (announceReady s).pages = s.pages :=
  List.foldlRecOn (motive := fun t : State => t.pages = s.pages) _ _ rfl fun _ h _ _ => (sendMsi_pages _ _ _).trans h

theorem presentBittern_onlyEvents (s : State) : OnlyEvents s (presentBittern s) := by
  have hwake : OnlyEvents s (if s.bittern.wakePending then bump s .bittern 7 else s) := .ite (.bump ..) (.refl s)
  unfold presentBittern
  exact .ite (.refl s) (.ite (hwake.trans (.deliverSrc ..)) hwake)

theorem announceReady_onlyEvents (s : State) : OnlyEvents s (announceReady s) :=
  List.foldlRecOn _ _ (motive := OnlyEvents s) (.refl s) fun _ h _ _ => h.trans (.sendMsi ..)

theorem OnlyEvents.units {s t : State} (h : OnlyEvents s t) : t.units = s.units := by rw [h.rest]

theorem OnlyEvents.power {s t : State} (h : OnlyEvents s t) : t.power = s.power := by rw [h.rest]

theorem servicePages_congr {s t : State} (h : s.units = t.units) : servicePages s = servicePages t := by
  unfold servicePages fewSlices numCores
  rw [h]

theorem logFault_units (s : State) (kind cls block inst : Nat) (code : Byte) (detail arg : Nat) :
    (logFault s kind cls block inst code detail arg).units = s.units := by
  unfold logFault
  dsimp only
  split
  · exact bump_units ..
  · rfl

theorem logTest_units (s : State) (t : SelfTest) : (logTest s t).units = s.units := by
  have hone : ∀ (l : List Nat) (block : Nat) (u : State),
      (l.foldl (fun s i => logFault s 0x01 1 block i stFenced 0 0) u).units = u.units := by
    intro l block u
    induction l generalizing u with
    | nil => rfl
    | cons i l ih => exact (ih _).trans (logFault_units ..)
  simp only [logTest, hone]

theorem logRecovery_units (s : State) : (logRecovery s).units = s.units := by
  unfold logRecovery
  split
  · rfl
  · exact logFault_units ..

/-! ## Power arriving, and the boot -/

theorem loading_of_phase {p : Phase} (h : p = .booting ∨ p = .resetting) : (decide (p = .booting) || decide (p = .resetting)) = true := by
  simpa using h

/-- A device that has loaded its dividers becomes ready, with the units and pages the self-test leaves. -/
theorem exec_statusReady {s : State} (test : SelfTest) (hphase : s.power.phase = .booting ∨ s.power.phase = .resetting)
    (hreleased : s.power.released = true) :
    ∃ t, exec (.statusReady test) s = .next t ∧ t.power.phase = .ready ∧ t.units = serviceUnits s.units test ∧
      ∀ pg ∈ servicePages t, opened t pg := by
  set u := logRecovery (logTest { s with units := serviceUnits s.units test } test) with hu
  set v := modPower ((servicePages u).foldl openPage u) (fun p => { p with phase := .ready, announce := false }) with hv
  set x := if s.power.announce then announceReady v else v with hx
  have hunits : u.units = serviceUnits s.units test := (logRecovery_units _).trans (logTest_units _ _)
  have hevents : OnlyEvents v x := .ite (announceReady_onlyEvents v) (.refl v)
  have hlast := hevents.trans (presentBittern_onlyEvents x)
  have hvunits : v.units = u.units := by rw [hv, modPower_units, units_foldl_openPage]
  refine ⟨presentBittern x, ?_, ?_, ?_, fun pg hpg => ?_⟩
  · show execStatusReady test s = _
    simp only [execStatusReady, loading_of_phase hphase, hreleased, Bool.not_true, Bool.or_self, Bool.false_eq_true, if_false]
    rfl
  · rw [hlast.power]
    rfl
  · rw [hlast.units, hvunits, hunits]
  · rw [servicePages_congr (hlast.units.trans hvunits)] at hpg
    have hfold : opened ((servicePages u).foldl openPage u) pg := opened_foldl_openPage (.inl hpg)
    have hopen : opened v pg := opened_of_pages (by rw [hv, modPower_pages]) hfold
    refine opened_presentBittern ?_
    rw [hx]
    split
    · exact opened_of_pages (announceReady_pages v) hopen
    · exact hopen

/-- Settles O21: each arrival and each stage of the boot finds what it waits for. -/
theorem powerUpCompletes : Obligations.PowerUpCompletes := by
  unfold Obligations.PowerUpCompletes
  intro s
  refine ⟨rfl, fun haux => ⟨fun h12 => ⟨fun s0 s1 hs => ?_, ?_⟩, fun low => ?_, fun hperst hrails hneed => ?_,
    fun hperst hrails hneed => ?_, fun h12 hoff htrip hneed hrails hfailed => ?_⟩, fun co rp hphase hrel => ?_,
    fun test hphase hrel => exec_statusReady test hphase hrel⟩
  · show execMainPowerArrival s0 s1 s = _
    cases s0 <;> cases s1 <;> simp_all [execMainPowerArrival, senseTable]
  · show execMainPowerArrival true true s = _
    simp [execMainPowerArrival, senseTable, haux, h12]
  · exact next_if_pos haux
  · have hpin : modPower s (fun p => { p with
        perst := false, wakePin := false, needPerst := if p.needPerst = 1 then 0 else p.needPerst }) =
        modPower s (fun p => { p with perst := false, wakePin := false }) := modPower_congr (by simp [hneed])
    show execPerstDeassert s = _
    simp [execPerstDeassert, hperst, haux, hpin, hrails]
  · have hpin : modPower s (fun p => { p with
        perst := false, wakePin := false, needPerst := if p.needPerst = 1 then 0 else p.needPerst }) =
        modPower s (fun p => { p with perst := false, wakePin := false }) := modPower_congr (by simp [hneed])
    show execPerstDeassert s = _
    simp [execPerstDeassert, hperst, haux, hpin, hrails]
  · have hdue : railsDue s.power = true := by simp [railsDue, haux, h12, hoff, htrip, hneed, hrails, hfailed]
    show execRailsGood s = _
    simp only [execRailsGood, hdue, Bool.not_true, Bool.false_eq_true, if_false]
  · show execDividerRelease co rp s = _
    simp only [execDividerRelease, loading_of_phase hphase, hrel, Bool.not_true, Bool.or_self, Bool.false_eq_true, if_false]

end Sys2Proof.Machine

/-! Resets, PCI Express and unit failures (R88 to R92, R126, R136, R578 to R583, R608 to R619, R633). -/

namespace Sys2Proof.Machine

open Sys2Proof

/-! ## Resets -/

theorem not_booting_of_phase {p : Phase} (h : p = .ready ∨ p = .resetting) : p ≠ .booting := by
  rintro rfl
  simp at h

theorem qPage_val (p : Fin 4) : qPage p.val = .queues p :=
  congrArg PageId.queues (Fin.ext (Nat.mod_eq_of_lt p.isLt))

/-- Settles O22: what each loss and each request of a reset finds lets it act. -/
theorem resetsComplete : Obligations.ResetsComplete := by
  unfold Obligations.ResetsComplete
  intro s
  refine ⟨rfl, fun h12 => ?_, fun hrails => ?_, fun hperst haux => ?_, fun hon => next_if_pos hon,
    fun hphase hroot => ?_, fun a h => ?_, fun a p hready h => ⟨?_, fun d hd hmore => ?_, fun d hd hall hon => ?_⟩,
    fun hdrain hon => ?_⟩
  · show execMainPowerLoss s = _
    simp only [execMainPowerLoss, h12, Bool.not_true, Bool.false_eq_true, if_false]
  · show execThermalTrip s = _
    simp only [execThermalTrip, hrails, Bool.not_true, Bool.false_eq_true, if_false]
  · show execPerstAssert s = _
    simp only [execPerstAssert, hperst, haux, Bool.not_true, Bool.or_self, Bool.false_eq_true, if_false]
  · have hon : isOn s = true := by rcases hphase with h | h <;> simp [isOn, h]
    show execRootLockLoss s = _
    simp only [execRootLockLoss, hon, hroot, not_booting_of_phase hphase, Bool.not_true, Bool.or_self,
      Bool.false_eq_true, if_false]
  · exact next_gated _ _ h
  · have hnot : s.power.phase ≠ .resetting := by simp [hready]
    refine congrArg Host.Outcome.next ((if_neg hnot).trans ((gated_reaches _ _ h).trans ((if_pos rfl).trans ?_)))
    rw [qPage_val]
  · refine congrArg Host.Outcome.next ((gated_reaches _ _ h).trans ((if_pos (by decide)).trans ?_))
    simp only [ackDrain, hd, hmore, if_false]
  · refine congrArg Host.Outcome.next ((gated_reaches _ _ h).trans ((if_pos (by decide)).trans ?_))
    simp only [ackDrain, hd, hall, if_true, requestedReset, hon]
  · refine congrArg Host.Outcome.next ((if_pos hdrain).trans ?_)
    simp [requestedReset, hon]

/-! ## PCI Express (R126, R578, R581, R583, R615) -/

/-- Settles O23: a served function acts, and an unmasked vector sends its pending message. -/
theorem pcieCommandsComplete : Obligations.PcieCommandsComplete := by
  unfold Obligations.PcieCommandsComplete
  intro s fn
  refine ⟨fun hserved => ⟨fun reg => next_if_pos hserved, fun reg w => next_if_pos hserved,
    next_if_pos hserved, next_if_pos hserved, next_if_pos hserved,
    fun v hd3 hen hmask hbus hpend => ?_⟩, fun reg wr hboot => ?_⟩
  · have hdecoded : (cfgServed s && !(s.fns[fn]).d3hot) = true := by rw [hserved, hd3, Bool.not_false, Bool.and_self]
    simp only [Fin.getElem_fin] at hd3 hen hmask hbus hpend
    refine ⟨_, congrArg Host.Outcome.next ((if_pos hdecoded).trans (if_pos ?_)), ?_⟩
    · simp [msixHeld, hen, hmask, hbus, hpend, hd3]
    · simp
  · show execConfigRequest fn reg wr s = _
    simp [execConfigRequest, cfgServed, hboot]

/-! ## Units that fail (R88, R89, R92, R633) -/

theorem getLsbD_two_pow (k : Fin 12) : (BitVec.ofNat 12 (2 ^ k.val)).getLsbD k.val = true := by
  rw [BitVec.getLsbD_ofNat, Nat.testBit_two_pow_self, Bool.and_true, decide_eq_true k.isLt]

/-- The training bit of a stack is what its last retraining left. -/
theorem training_testBit (u : BitVec 12) (k : Fin 12) (ok : Bool) :
    (if ok then u &&& ~~~(BitVec.ofNat 12 (2 ^ k.val)) else u ||| BitVec.ofNat 12 (2 ^ k.val)).toNat.testBit k.val = !ok := by
  rw [BitVec.testBit_toNat]
  cases ok with
  | false => rw [if_neg (by decide), BitVec.getLsbD_or, getLsbD_two_pow, Bool.or_true, Bool.not_false]
  | true => rw [if_pos rfl, BitVec.getLsbD_and, BitVec.getLsbD_not, getLsbD_two_pow, Bool.not_true, Bool.and_false, Bool.and_false]

theorem fenced_bump (s : State) (pg q : PageId) (i n : Nat) : (getPage (bump s pg i n) q).fenced = (getPage s q).fenced := by
  unfold bump
  split
  · rfl
  · by_cases hq : q = pg
    · subst hq
      rw [getPage_modPage_self]
    · rw [getPage_modPage_of_ne _ _ hq]

theorem stackFin_val (k : Fin 12) : stackFin k.val = k := Fin.ext (Nat.mod_eq_of_lt k.isLt)

/-- Settles O25: a unit of a device in service is fenced, and training decides what a stack answers. -/
theorem unitFailuresComplete : Obligations.UnitFailuresComplete := by
  unfold Obligations.UnitFailuresComplete
  intro s
  refine ⟨fun hready => ?_, rfl, rfl, rfl, rfl⟩
  have hserving : ¬ (s.power.phase != .ready) = true := by simp [hready]
  refine ⟨fun c => next_if_neg hserving, fun k => next_if_neg hserving,
    fun j => next_if_neg hserving, fun m => next_if_neg hserving,
    fun k => next_if_pos hready, fun k ok hk hfenced => ?_⟩
  refine ⟨_, congrArg Host.Outcome.next (if_neg (by simp [hready, hk, hfenced])), ?_, ?_⟩
  · have hpage : (getPage { s with units := { s.units with
        training := if ok then s.units.training &&& ~~~(BitVec.ofNat 12 (2 ^ k.val)) else s.units.training ||| BitVec.ofNat 12 (2 ^ k.val) } }
        (.hbm k)).fenced = false := hfenced
    rw [stackFenced, stackFin_val, fenced_bump, hpage, bump_units, training_testBit, Bool.false_or]
  · rw [bump_units]

end Sys2Proof.Machine

/-! Baton links: bring-up, frames received and sent, and frames on their way (R370, R371, R381 to R388, R398 to R425). -/

namespace Sys2Proof.Machine

open Sys2Proof

/-! ## Ports -/

@[simp] theorem getPort_setPort_self (s : State) (m : Fin 8) (p : Port) : getPort (setPort s m p) m = p := by
  simp [getPort]

@[simp] theorem getPort_modPort_self (s : State) (m : Fin 8) (f : Port → Port) :
    getPort (modPort s m f) m = f (getPort s m) := by
  simp [getPort]

theorem modPort_congr {s : State} {m : Fin 8} {f g : Port → Port} (h : f (getPort s m) = g (getPort s m)) :
    modPort s m f = modPort s m g :=
  congrArg (setPort s m) h

theorem modCls_congr {s : State} {m : Fin 8} {c : Fin 3} {f g : ClassState → ClassState}
    (h : f (getCls (getPort s m) c) = g (getCls (getPort s m) c)) : modCls s m c f = modCls s m c g :=
  modPort_congr (congrArg (fun x => { getPort s m with cls := (getPort s m).cls.set c x }) h)

theorem isUp_iff (s : State) (m : Fin 8) : isUp s m = true ↔ (getPort s m).st = .up := by
  have hm : portFin m.val = m := Fin.ext (Nat.mod_eq_of_lt m.isLt)
  rw [isUp, hm, decide_eq_true_iff]

theorem received_ok {s : State} {m : Fin 8} {f : Frame} {kind : Nat} (k : State) (h : frameFails s m f = none)
    (hkind : frKind f = kind) : received s m f kind k = k := by
  simp only [received, h, hkind, if_true]

/-! ## Bring-up (R381 to R388) -/

/-- Settles O26: each event of a bring-up finds the port in the state that waits for it. -/
theorem linkBringupCompletes : Obligations.LinkBringupCompletes := by
  unfold Obligations.LinkBringupCompletes
  rintro s m _ rfl
  refine ⟨fun a data h => ⟨next_gated _ _ h, next_gated _ _ h⟩, fun ts t hst ht => ?_, fun hst => next_if_pos hst,
    fun hst => next_if_pos hst, fun hdown hup => ?_, fun f hok hkind hst hwire hconf hpeer => ?_, fun hst => ?_, fun hst => ?_⟩
  · show execAutonegComplete m ts s = _
    simp only [execAutonegComplete, hst, ht]
  · show execBringupTimeout m s = _
    unfold execBringupTimeout
    split
    · contradiction
    · contradiction
    · rfl
  · refine congrArg Host.Outcome.next ((received_ok _ hok hkind).trans ?_)
    have hport : modPort s m (fun p => { p with
        peerChip := BitVec.ofNat 8 (hb f 16 1), peerPort := BitVec.ofNat 3 (hb f 17 1),
        peerMac := if p.ownCheck then p.peerMac else f.src, ownCheck := true, peerOk := p.peerOk || (hb f 17 1).testBit 7 }) =
        modPort s m (fun p => { p with
          peerChip := BitVec.ofNat 8 (hb f 16 1), peerPort := BitVec.ofNat 3 (hb f 17 1),
          peerMac := if p.ownCheck then p.peerMac else f.src, ownCheck := true, peerOk := true }) :=
      modPort_congr (by simp only [hpeer, Bool.or_true])
    simp only [takeHello, hst, hwire, hconf, Bool.and_self, if_true, hport, getPort_modPort_self, reduceCtorEq, if_false]
  · show execHelloTimer m s = _
    rcases hst with h | h <;> simp only [execHelloTimer, h]
  · have hup := (isUp_iff s m).2 hst
    exact ⟨next_if_pos hup, next_if_pos hup, next_if_pos hup⟩

/-! ## Frames on their way (R370, R371, R422, R425) -/

/-- Settles O28: a frame that may move leaves its buffer, and a good chunk is handed on. -/
theorem frameHandlingCompletes : Obligations.FrameHandlingCompletes := by
  unfold Obligations.FrameHandlingCompletes
  intro s m c f rest hbuf
  refine ⟨fun r hdst hfire hhops hmay hegress => ?_, fun hc => ?_, fun h hs es next clamped dirty hheld hcomplete hframes hgood =>
    ⟨fun hform => ?_, fun hform => ?_⟩⟩
  · show execFrameForward m c s = _
    simp only [execFrameForward, hbuf, hdst, hfire, hmay, forwardFrame, Nat.not_le.2 hhops, hegress, if_false, Bool.not_true,
      Bool.or_self, Bool.false_eq_true]
  · have hcls : c.val ≠ 2 := fun h => hc (Fin.ext h)
    show execStallDrop m c s = _
    simp only [execStallDrop, hbuf, hcls, if_false]
  · show execChunkCheck m s = _
    simp only [execChunkCheck, hheld, hcomplete, hgood, hform, Bool.not_true, Bool.false_eq_true, if_false]
  · show execChunkCheck m s = _
    simp only [execChunkCheck, hheld, hcomplete, hgood, hform, Bool.not_true, Bool.false_eq_true, if_false, if_true]

end Sys2Proof.Machine

/-! Frames of a port that is UP (R398 to R412). -/

namespace Sys2Proof.Machine

open Sys2Proof

/-! ## What the round robin and a credit change of a port (R404, R416) -/

@[simp] theorem setDeficit_cls (p : Port) (c : Fin 3) (n : Nat) : (setDeficit p c n).cls = p.cls := by
  unfold setDeficit
  split <;> rfl

/-- A port that the round robin answers has the class states of `p`. -/
def KeepsCls (p : Port) (o : Option Port) : Prop := ∀ q ∈ o, q.cls = p.cls

theorem keepsCls_none (p : Port) : KeepsCls p none := by simp [KeepsCls]

theorem keepsCls_ite {p : Port} {o o' : Option Port} {b : Prop} [Decidable b] (h : KeepsCls p o) (h' : KeepsCls p o') :
    KeepsCls p (if b then o else o') := by
  split
  · exact h
  · exact h'

theorem keepsCls_arbitrate (p : Port) (c : Fin 3) (f : Frame) (forM other : Option Frame) :
    KeepsCls p (arbitrate p c f forM other) := by
  have hstart : ∀ n t, KeepsCls p (some { setDeficit p c n with drrTurn := t }) := by
    rintro n t _ ⟨⟩
    exact setDeficit_cls p c n
  unfold arbitrate
  refine keepsCls_ite (by rintro _ ⟨⟩; rfl) (keepsCls_ite (keepsCls_none p) ?_)
  cases other with
  | none =>
    intro q hq
    obtain ⟨x, hx, rfl⟩ := Option.mem_map.1 hq
    rw [setDeficit_cls]
    exact hstart _ _ x hx
  | some g => exact keepsCls_ite (keepsCls_ite (hstart _ _) (keepsCls_none p)) (keepsCls_ite (keepsCls_none p) (hstart _ _))

/-- A credit spent leaves the class states of the port. -/
theorem spendCredit_cls (s : State) (m : Fin 8) (f : Frame) : (getPort (spendCredit s m f) m).cls = (getPort s m).cls := by
  have hopen : ∀ u : State, (getPort (if isChunkFrame f then modPort u m (fun p => { p with chunkOpen := !frLast f }) else u) m).cls =
      (getPort u m).cls := by
    intro u
    split
    · rw [getPort_modPort_self]
    · rfl
  unfold spendCredit
  dsimp only
  split
  · rw [← hopen s]
    simp [getPort]
  · exact hopen s

/-! ## Frames in sequence (R398, R407) -/

theorem sequenceData_next {s : State} {m : Fin 8} {f : Frame} {c : Fin 3} (hc : clsFin (frClass f) = c)
    (hseq : frSeq f = (getCls (getPort s m) c).expected) (hroom : occupancy (getPort s m) c + f.payload.length ≤ rxShare c.val) :
    ∃ u, u = acceptData (bump (bump (modCls s m c (fun x => { x with expected := x.expected + 1, nakSent := false }))
        (.baton m) 1) (.baton m) 3 f.payload.length) m f ∧
      sequenceData s m f = if 64 ≤ unacked u m c then sendAckNak u m c 1 else u := by
  refine ⟨_, rfl, ?_⟩
  have hback : ((getCls (getPort s m) c).expected - frSeq f).toNat = 0 := by rw [hseq, BitVec.sub_self]; rfl
  simp only [sequenceData, hc, hback, Nat.not_lt.2 hroom, decide_false, Bool.and_false, Bool.false_eq_true, if_false, if_true]

/-- Settles O27: a port that is UP does with each frame and each timer what go-back-N and flow control say. -/
theorem linkFramesComplete : Obligations.LinkFramesComplete := by
  unfold Obligations.LinkFramesComplete
  intro s m c f hup
  refine ⟨fun hok hc => ⟨fun hkind hack hseq hroom => ?_, fun hkind => ?_, fun n hkind hn => ?_, fun hkind => ?_⟩,
    fun i hfail hi => ?_, fun q => next_if_neg (by simp [hup]), rfl, fun hp => next_if_pos hp,
    fun hlocal hxon => next_if_pos (by simp [hlocal, hxon]), fun hun => next_if_pos (by simp [hup, hun]),
    fun hp hretx => next_if_pos (by simp [hup, hp, hretx]), fun rest now p hp hresend htx hwindow hshare hcredit harb => ?_⟩
  · obtain ⟨u, hu, hnext⟩ := sequenceData_next hc hseq hroom
    refine ⟨u, hu, congrArg Host.Outcome.next ((received_ok _ hok hkind).trans ?_)⟩
    simp only [hup, hack, hnext, Bool.not_true, Bool.false_eq_true, if_false]
  · refine congrArg Host.Outcome.next ((received_ok _ hok hkind).trans ?_)
    rw [if_pos hup, hc]
  · refine congrArg Host.Outcome.next ((received_ok _ hok hkind).trans ?_)
    simp only [hup, hc, hn, Bool.not_true, Bool.false_eq_true, if_false]
  · exact congrArg Host.Outcome.next ((received_ok _ hok hkind).trans (if_pos hup))
  · show execForeignFrame m f s = _
    simp only [execForeignFrame, hfail, hi, if_false]
  · have hstart : mayStart s m c f = true := by
      simp only [mayStart, Bool.and_eq_true, decide_eq_true_eq]
      exact ⟨⟨hwindow, hshare⟩, hcredit⟩
    have hnext : nextFrame s m c = some f := by simp [nextFrame, hup, hp, hresend, htx, hstart]
    have hcls : ∀ g, getCls (getPort (spendCredit (setPort s m p) m g) m) c = getCls (getPort s m) c := fun g => by
      simp only [getCls, spendCredit_cls, getPort_setPort_self, keepsCls_arbitrate _ _ _ _ _ _ harb]
    have hport : getCls (getPort (setPort s m p) m) c = getCls (getPort s m) c := by
      simp only [getCls, getPort_setPort_self, keepsCls_arbitrate _ _ _ _ _ _ harb]
    show execDataFrameStart m c now s = _
    simp only [execDataFrameStart, hnext, harb, hport, hresend, bne_self_eq_false, Bool.false_eq_true, if_false]
    refine congrArg (fun u => Host.Outcome.next (transmit u m c _ now)) (modCls_congr ?_)
    rw [hcls, htx, List.drop_one, List.tail_cons]

end Sys2Proof.Machine

/-! The background services (R389, R628 to R662), the commands of the Stork engine (R438 to R442, R460, R485 to R487) and its keys
(R465, R484). -/

namespace Sys2Proof.Machine

open Sys2Proof

/-! ## Background services -/

theorem hbmFind_clean {s : State} {k : Fin 12} {a : Nat} (h : mget s.hbmFlaws (hbmKey k a / 64) = none) : hbmFind s k a = s := by
  simp only [hbmFind, h]

theorem cmFind_clean {s : State} {line : Nat} (hmark : s.cm.marked line = false) (h : mget s.cmFlaws line = none) :
    cmFind s line = s := by
  simp only [cmFind, hmark, h, Bool.false_eq_true, if_false]

theorem ueFence_below {s : State} {k : Fin 12} (h : ueLimit s k = false) : ueFence s k = s := by
  simp only [ueFence, h, Bool.and_false, Bool.false_eq_true, if_false]

/-- Settles O29: a unit of work of a service that runs is done and counted. -/
theorem backgroundServicesComplete : Obligations.BackgroundServicesComplete := by
  unfold Obligations.BackgroundServicesComplete
  intro s
  refine ⟨fun k hruns hstack hpos hmark hflaw hlimit => ?_, fun j hruns hslice hfence hmark hflaw => ?_,
    fun m lane hready hpause hport hfence => next_if_pos (by simp [hready, hpause, hport, hfence]),
    fun hready hpause => congrArg Host.Outcome.next ((if_pos rfl).trans (if_pos (by simp [hready, hpause]))), fun hcal => next_if_pos hcal, rfl,
    fun herase haux hpause => ?_, fun herase => next_if_pos herase, fun x haux hrails hcal => ?_, fun a data h => next_gated _ _ h,
    fun i hi hpause => next_if_pos ?_⟩
  · have hgo : (!scrubRuns s 0 || !(scrubStacks s).contains k.val || stackLines ≤ mgetD s.mgmt.scrubPos 0 k) = false := by
      rw [hruns, hstack, decide_eq_false (Nat.not_le.2 hpos)]
      rfl
    show execHbmScrub k .clean s = _
    simp only [execHbmScrub, hgo, bump_hbm, bump_hbmFlaws, hmark, hflaw, Bool.false_eq_true, if_false, reduceCtorEq]
    rw [hbmFind_clean (by rw [bump_hbmFlaws, hflaw]), ueFence_below hlimit]
  · show execCmScrub j .correctable s = _
    simp only [execCmScrub, hruns, hslice, hfence, cmFind_clean hmark hflaw, Bool.not_true, Bool.or_self, Bool.false_eq_true, if_false]
  · show execFlashWear .eraseSpare s = _
    simp [execFlashWear, herase, haux, hpause]
  · show execTelemetrySample x s = _
    have hread : (readPanelTemp (bump s .background 5) x.panel).power = s.power := bump_power ..
    have hmgmt : (bump s .background 5).mgmt.calibrating = false := by rw [bump_mgmt, hcal]
    simp only [execTelemetrySample, haux, hmgmt, hread, hrails, Bool.not_true, Bool.false_eq_true, if_false]
    rw [if_neg (by simp [readPanelTemp, modMgmt, hcal])]
  · have hi' : i.val = 2 ∨ i.val = 3 := hi.imp (congrArg Fin.val) (congrArg Fin.val)
    simpa [hpause] using hi'

/-! ## Commands of the Stork engine (R438 to R442) -/

/-- Taking a context up changes the contexts only. -/
theorem startCtx_eq (s : State) (tag : Nat) : startCtx s tag = { s with ctxs := (startCtx s tag).ctxs } := by
  unfold startCtx
  split <;> rfl

/-- The engine carries a posted descriptor of one of its operations out. -/
theorem storkCmd_posted {s : State} {tag op : Nat} {x : Ctx} {d : SDesc} (k : State → Ctx → SDesc → State)
    (hop : ((1 ≤ op && op ≤ 3) || (0x10 ≤ op && op ≤ 0x14)) = true) (h : storkPosted s tag op x d = true) :
    (.next (storkCmd s tag op k) : Res) = .next (k (startCtx s tag) x d) := by
  simp only [storkPosted, Bool.and_eq_true, decide_eq_true_eq, Bool.not_eq_true'] at h
  obtain ⟨⟨⟨⟨⟨htake, hslices⟩, henable⟩, hclean⟩, hdesc⟩, rfl⟩ := h
  have hslices' : fewSlices (startCtx s tag) = false := by rw [startCtx_eq]; exact hslices
  have henable' : (getPage (startCtx s tag) .stork).enable = true := by rw [startCtx_eq]; exact henable
  simp only [storkCmd, htake, hdesc, hop, hslices', henable', hclean, bne_self_eq_false, Bool.and_false, Bool.not_true,
    Bool.false_eq_true, if_false]

theorem modStork_congr {s : State} {f g : Stork → Stork} (h : f s.stork = g s.stork) : modStork s f = modStork s g := by
  rw [modStork, modStork, h]

/-- Settles O30: a posted command whose checks pass changes its window or queue and ends OK. -/
theorem windowCommandsComplete : Obligations.WindowCommandsComplete := by
  unfold Obligations.WindowCommandsComplete
  rintro s tag x d _ _ rfl rfl
  refine ⟨fun h hown hdom hfence hvalid hshape hin hkey => ?_, fun h hcheck => ?_,
    fun h hown hdom hrest hw ho hl hv hr hm hk hc hfence hops => ?_, fun h hcheck hstall => ?_, fun h hcheck => ?_⟩
  · refine (storkCmd_posted _ rfl h).trans (congrArg Host.Outcome.next ?_)
    cases hseal : (cMode d).testBit 3 with
    | false => simp [hown, hdom, hfence, hvalid, hshape, hin]
    | true =>
      obtain ⟨hkeyOwn, hkeyFull⟩ := hkey hseal
      have hfull : (mget (startCtx s tag.toNat).stork.keys (cKey d)).isNone = false := by
        rw [Option.isNone_eq_false_iff]
        exact hkeyFull
      simp [hown, hdom, hfence, hvalid, hshape, hin, hkeyOwn, hfull]
  · refine (storkCmd_posted _ rfl h).trans ?_
    simp only [hcheck]
  · refine (storkCmd_posted _ rfl h).trans (congrArg Host.Outcome.next ?_)
    have hany : (startCtx s tag.toNat).stork.ops.any (fun o => (opDesc o).queue = d.queue) = false :=
      List.any_eq_false.2 fun o ho => by simpa using hops o ho
    simp [hown, hdom, hrest, hw, ho, hl, hv, hr, hm, hk, hc, hfence, hany]
  · refine (storkCmd_posted _ rfl h).trans ?_
    simp only [hcheck, hstall, List.filter_nil, List.foldl_nil]
    refine congrArg (fun v => Host.Outcome.next (bump (storkEnd v tag.toNat d stOk 0 (getWin v d.window).generation.toNat 0) .windows 3))
      (modStork_congr ?_)
    rw [hstall, List.filter_nil]
  · refine (storkCmd_posted _ rfl h).trans ?_
    simp only [hcheck]
    rfl

/-! ## Keys -/

/-- Settles O33: a guarded write starts its job, and the end of the job loads or empties the slot. -/
theorem keyCommandsComplete : Obligations.KeyCommandsComplete := by
  unfold Obligations.KeyCommandsComplete
  intro s a data
  refine ⟨fun h hguard hjob hen => ⟨fun hop => ?_, fun hop => ?_⟩, fun slot hjob hheld => ?_, fun slot hjob hheld => ?_⟩
  · refine (next_gated _ _ h).trans ?_
    simp [keyWrite, hguard, hop, hjob, hen]
  · refine (next_gated _ _ h).trans ?_
    simp [keyWrite, hguard, hop, hjob, hen]
  · show execKeyOpComplete s = _
    simp only [execKeyOpComplete, hjob, hheld, Bool.false_eq_true, if_false, if_true]
  · show execKeyOpComplete s = _
    simp only [execKeyOpComplete, hjob, hheld, Bool.false_eq_true, if_false]

end Sys2Proof.Machine

/-! Stork at the target, and at an initiator that holds one tag twice (R448 to R463). -/

namespace Sys2Proof.Machine

open Sys2Proof

/-! ## Frames of an unsealed window (R448, R452) -/

section
variable {s u : State} {a : Arrival} {f : Frame}

theorem targetInput_alone (effect : State → State) (h : ∀ c ∈ s.stork.coal, c.arrival = a → coalKey c f = true) :
    targetInput s a f effect = if frLastOfOp f then flushArrival (effect s) a else effect s := by
  have hother : s.stork.coal.any (fun c => c.arrival = a && !coalKey c f) = false :=
    List.any_eq_false.2 fun c hc => by simpa using h c hc
  simp only [targetInput, hother, Bool.false_eq_true, if_false]

variable (hfence : winFenced s (frWindow f) = false) (hsealed : (getWin s (frWindow f)).sealed = false) (hplain : frSealed f = false)
include hsealed hplain

theorem unsealFrame_plain : unsealFrame s f = (s, .ok f.payload) := by
  simp only [unsealFrame, hsealed, hplain, bne_self_eq_false, Bool.not_false, Bool.false_eq_true, if_false, if_true]

include hfence

theorem targetFrame_plain (bytes : Nat) (k : State → List Byte → State) : targetFrame s a f bytes k = k s f.payload := by
  simp only [targetFrame, hfence, unsealFrame_plain hsealed hplain, Bool.false_eq_true, if_false]

end

/-- Settles O32: a frame of an unsealed window is applied piece by piece, and what is due is answered. -/
theorem storkTargetCompletes : Obligations.StorkTargetCompletes := by
  unfold Obligations.StorkTargetCompletes
  rintro s a f _ _ rfl rfl
  refine ⟨fun hdst hfence hsealed hplain hcoal => ⟨fun hkind hcurlew => ?_, fun hkind => ?_, fun hkind hlen => ?_⟩,
    fun c hc => ?_, fun y rest hy => ?_, fun p hp => ?_⟩
  · refine (next_if_pos (by simp [hkind, skWrite, hdst])).trans (congrArg Host.Outcome.next ((targetInput_alone _ hcoal).trans ?_))
    simp only [hcurlew, targetFrame_plain hfence hsealed hplain, Bool.false_eq_true, if_false]
  · refine (next_if_pos (by simp [hkind, skFlag, hdst])).trans (congrArg Host.Outcome.next ((targetInput_alone _ hcoal).trans ?_))
    simp only [targetFrame_plain hfence hsealed hplain]
  · refine (next_if_pos (by simp [hkind, skReadReq, hdst])).trans (congrArg Host.Outcome.next ((targetInput_alone _ hcoal).trans ?_))
    simp only [hfence, unsealFrame_plain hsealed hplain, reqLen, Nat.min_eq_right hlen, Bool.false_eq_true, if_false]
  · show execResponseCoalesceTimer a s = _
    simp only [execResponseCoalesceTimer, flushArrival, hc]
  · show execStallExpiry s = _
    simp only [execStallExpiry, hy]
    rfl
  · show execCompressedWriteDiscard a s = _
    simp only [execCompressedWriteDiscard, hp]

/-! ## One tag, two operations (R463) -/

/-- Two operations of tag 5, of which the first has a range, of no bytes, to send again. -/
def sharedTag : State := { State.reset with stork := { State.reset.stork with
  ops := [{ tag := 5, desc := 0, part := 0, core := none, domain := 0, missed := [⟨0, 0⟩] },
    { tag := 5, desc := 0, part := 0, core := none, domain := 0 }] } }

theorem exec_resendRound_sharedTag :
    ∃ t, exec (.resendRound 5) sharedTag = .next t ∧ t.stork.ops.map (·.unanswered) = [[⟨0, 0⟩], []] :=
  ⟨_, rfl, by decide +kernel⟩

/-- Refutes O31: where two operations bear one tag, a round moves each one's own missed ranges, not those of the first to both. -/
theorem not_storkOperationsComplete : ¬ Obligations.StorkOperationsComplete := by
  unfold Obligations.StorkOperationsComplete
  intro h
  obtain ⟨-, hops, -⟩ := h sharedTag 5 { owner := .core 0, kind := .stork, part := 0 } (sDesc []) _ rfl
  obtain ⟨-, -, -, -, hround⟩ := hops { tag := 5, desc := 0, part := 0, core := none, domain := 0, missed := [⟨0, 0⟩] } (by decide +kernel)
  have hnext := hround ⟨0, 0⟩ rfl rfl rfl
  obtain ⟨t, ht, hunanswered⟩ := exec_resendRound_sharedTag
  rw [hnext, Host.Outcome.next.injEq] at ht
  rw [← ht] at hunanswered
  exact absurd hunanswered (by decide +kernel)

end Sys2Proof.Machine

/-! The Relay: commands, frames and timers (R494 to R530). -/

namespace Sys2Proof.Machine

open Sys2Proof

/-! ## Commands (R494, R497 to R502, R526) -/

/-- The Relay carries a posted descriptor of one of its operations out. -/
theorem relayCmd_posted {s : State} {tag op : Nat} {x : Ctx} {d : RDesc} (k : State → Ctx → RDesc → State)
    (hop : (1 ≤ op && op ≤ 4) = true) (h : relayPosted s tag op x d = true) :
    (.next (relayCmd s tag op k) : Res) = .next (k (startCtx s tag) x d) := by
  simp only [relayPosted, Bool.and_eq_true, decide_eq_true_eq] at h
  obtain ⟨⟨⟨htake, hdesc⟩, rfl⟩, hgate⟩ := h
  have hopen : relayGate (startCtx s tag) x d (ctxDesc s x).2 = none := Option.isNone_iff_eq_none.1 hgate
  simp only [relayCmd, htake, hdesc, hop, hopen, bne_self_eq_false, Bool.and_false, Bool.not_true, Bool.false_eq_true, if_false]

/-- Settles O34: a posted command whose checks pass acts on its group. -/
theorem relayCommandsComplete : Obligations.RelayCommandsComplete := by
  unfold Obligations.RelayCommandsComplete
  rintro s tag x d _ v set rfl
  refine ⟨fun h hst hcompl hkind hflags hscale hcap hcount haux hb54 hsrc2 hspace hchk hv hmark hset hin hstage hfence => ?_,
    fun h hover => ?_, fun h hbare hst => ?_, fun h hbare hst hdis => ?_, fun g t hdis ht hposted => ?_⟩
  · refine (relayCmd_posted _ rfl h).trans (congrArg Host.Outcome.next ?_)
    simp only [hcompl, hkind, hflags, hscale, hcap, hcount, haux, hb54, hsrc2, hspace, hst, hchk, ← hv, hmark, ← hset, hin, hstage,
      hfence, decide_true, Bool.and_self, Bool.not_true, bne_self_eq_false, Bool.false_eq_true, if_false]
    rfl
  · exact (relayCmd_posted _ rfl h).trans (next_if_neg (by simp [hover]))
  · refine (relayCmd_posted _ rfl h).trans ?_
    rcases hst with hst | hst <;>
      simp only [hbare, hst, Bool.not_true, Bool.false_eq_true, if_false, reduceCtorEq]
  · refine (relayCmd_posted _ rfl h).trans ?_
    simp [hbare, hst, hdis]
  · show execDissolveRelease g s = _
    simp only [execDissolveRelease, dissolveNow, hdis, ht, hposted, if_true, List.foldl_nil]

/-! ## Frames -/

/-- A COUNT of group 0 for chip 1. -/
def countForChip1 : Frame := mkFrame State.reset 0 2 1 0 [1] []

/-- Chip 0, with that COUNT at the head of port 0's class C buffer. -/
def holdingCount : State := modCls State.reset 0 2 (fun x => { x with rxbuf := [countForChip1] })

/-- The class C buffer of port 0. -/
def bufferC (s : State) : List Frame := (getCls (getPort s 0) 2).rxbuf

theorem exec_count_holdingCount : ∃ t, exec (.count 0 countForChip1) holdingCount = .next t ∧ bufferC t = [countForChip1] :=
  ⟨_, rfl, by decide +kernel⟩

/-- Refutes O35: a COUNT on its way to another chip does not leave its buffer for the Relay of this one. -/
theorem not_relayFramesComplete : ¬ Obligations.RelayFramesComplete := by
  unfold Obligations.RelayFramesComplete
  intro h
  obtain ⟨hsingle, -⟩ := h holdingCount 0 countForChip1
  have hnext := (hsingle (by decide +kernel) (by decide +kernel)).1 (by decide +kernel)
  obtain ⟨t, ht, hkept⟩ := exec_count_holdingCount
  rw [hnext, Host.Outcome.next.injEq] at ht
  rw [← ht] at hkept
  exact absurd hkept (by decide +kernel)

/-! ## Timers (R500, R516, R517, R523, R526) -/

/-- Settles O36: each timer finds the group in the phase it limits. -/
theorem relayTimersComplete : Obligations.RelayTimersComplete := by
  unfold Obligations.RelayTimersComplete
  rintro s g _ rfl
  refine ⟨fun hst hcand => ?_, fun set hst hcand => ?_, fun t hst ht => ?_, fun st hst hstep hphase hparent => ?_,
    fun m st l hst hstep hphase hl => ?_⟩
  · show execFormWait g s = _
    simp [execFormWait, hst, hcand]
  · show execFormWait g s = _
    simp [execFormWait, hst, hcand]
  · show execCreateWait g s = _
    simp [execCreateWait, hst, ht, rdCreateWait]
  · show execStepWait g s = _
    simp [execStepWait, getStep, parentOf, hst, hstep, hphase, hparent, rdStepWait]
  · show execLeaseExpiry g m s = _
    simp only [execLeaseExpiry, hst, hstep, hl, hphase, if_false]

end Sys2Proof.Machine

/-! The recorder's marks leave the gun alone (R544 to R549, R567 to R571). -/

namespace Sys2Proof.Machine

open Sys2Proof

theorem OnlyEvents.gun {s t : State} (h : OnlyEvents s t) : t.gun = s.gun := by rw [h.rest]

@[simp] theorem pulseIrq_gun (s : State) (pg : PageId) (bit : Nat) : (pulseIrq s pg bit).gun = s.gun := (OnlyEvents.pulseIrq ..).gun

@[simp] theorem levelIrq_gun (s : State) (pg : PageId) (bit : Nat) (v : Bool) : (levelIrq s pg bit v).gun = s.gun :=
  (OnlyEvents.levelIrq ..).gun

@[simp] theorem captureError_gun (s : State) (pg : PageId) (code : Byte) (detail i0 i1 : Nat) :
    (captureError s pg code detail i0 i1).gun = s.gun := (OnlyEvents.captureError ..).gun

@[simp] theorem captureOpen1_gun (s : State) (pg : PageId) (code : Byte) (detail i0 : Nat) :
    (captureOpen1 s pg code detail i0).gun = s.gun := (OnlyEvents.captureOpen1 ..).gun

/-- A function that keeps the gun keeps it through a list. -/
theorem foldl_gun {α : Type} {f : State → α → State} (hf : ∀ s x, (f s x).gun = s.gun) (l : List α) (s : State) :
    (l.foldl f s).gun = s.gun :=
  List.foldlRecOn (motive := fun t : State => t.gun = s.gun) l f rfl fun t ht x _ => (hf t x).trans ht

/-! ## The record in HBM -/

@[simp] theorem hbmFind_gun (s : State) (k : Fin 12) (a : Nat) : (hbmFind s k a).gun = s.gun := by
  unfold hbmFind
  dsimp only
  split
  · rfl
  · split
    · simp [hbmUncorrectable, putAddr]
    · simp [hbmCorrectable, putAddr]

@[simp] theorem hbmWrite_gun (s : State) (p a : Nat) (bs : List PByte) : (hbmWrite s p a bs).gun = s.gun := by
  refine foldl_gun (fun u g => ?_) _ s
  dsimp only
  split <;> split <;> simp

@[simp] theorem recWrite_gun (s : State) (off : Nat) (bs : List Byte) : (recWrite s off bs).gun = s.gun := by
  unfold recWrite
  split
  · exact hbmWrite_gun ..
  · rfl

@[simp] theorem setRecSt_gun (s : State) (st : RecSt) : (setRecSt s st).gun = s.gun := by simp [setRecSt]

@[simp] theorem appendRec_gun (s : State) (r : RecInput) : (appendRec s r).gun = s.gun := by
  simp only [appendRec, apply_ite State.gun, setRecSt_gun, bump_gun, recWrite_gun, ite_self]

/-! ## Inputs that a replay releases -/

@[simp] theorem flowCheck_gun (s : State) (m : Fin 8) (c : Fin 3) : (flowCheck s m c).gun = s.gun := by
  unfold flowCheck
  dsimp only
  split
  · rfl
  · split
    · simp [sendPfc]
    · split
      · simp [sendPfc]
      · rfl

@[simp] theorem modCls_gun (s : State) (m : Fin 8) (c : Fin 3) (f : ClassState → ClassState) : (modCls s m c f).gun = s.gun := rfl

@[simp] theorem deliver_gun (s : State) (i : HeldInput) : (deliver s i).gun = s.gun := by
  cases i with
  | doorbell p r cq v =>
    unfold deliver deliverBell
    dsimp only
    split
    · rfl
    · simp only [apply_ite State.gun, captureOpen1_gun, modRing_gun, ite_self]
  | frame m f =>
    unfold deliver storeAccepted
    refine (flowCheck_gun ..).trans ?_
    split <;> rfl
  | wake code => simp [deliver, presentWake]

@[simp] theorem endReplay_gun (s : State) (st : RecSt) : (endReplay s st).gun = s.gun :=
  (foldl_gun deliver_gun _ _).trans (setRecSt_gun ..)

@[simp] theorem settleReplay_gun (n : Nat) (s : State) : (settleReplay n s).gun = s.gun := by
  induction n generalizing s with
  | zero => rfl
  | succ n ih =>
    unfold settleReplay
    dsimp only
    split
    · exact endReplay_gun ..
    · split
      · exact ih _
      · rfl

@[simp] theorem consumeRec_gun (s : State) : (consumeRec s).gun = s.gun := by simp [consumeRec]

@[simp] theorem stopCore_gun (s : State) (c : Fin 16) (code : Nat) : (stopCore s c code).gun = s.gun := by
  unfold stopCore
  dsimp only
  split
  · exact (takeTrap_onlyEvents ..).gun
  · rfl

@[simp] theorem diverge_gun (s : State) : (diverge s).gun = s.gun :=
  (endReplay_gun ..).trans (foldl_gun (fun u c => stopCore_gun u c 2) _ s)

/-- An external input that is recorded, or met in a replay, leaves the gun as it is. -/
theorem markInput_gun (s : State) (r : RecInput) : (markInput s r).gun = s.gun := by
  unfold markInput
  split
  · exact appendRec_gun ..
  · dsimp only
    split
    · exact consumeRec_gun s
    · exact diverge_gun s
  · rfl

end Sys2Proof.Machine

/-! Photo-finish and the start gun (R539 to R553), Pacer (R556 to R563) and the Split recorder (R566 to R572). -/

namespace Sys2Proof.Machine

open Sys2Proof

/-! ## The gun -/

theorem isMaster_congr {s t : State} (h : ∀ pg off, regOf t pg off = regOf s pg off) : isMaster t = isMaster s := by
  have hmaster : gunMaster t = gunMaster s := by simp only [gunMaster, gunMembers, h]
  have hchip : chipId t = chipId s := h _ _
  rw [isMaster, isMaster, hmaster, hchip]

theorem isMaster_setGunSt (s : State) (st : GunSt) : isMaster (setGunSt s st) = isMaster s :=
  isMaster_congr fun pg off => (OnlyEvents.levelIrq ..).regs pg off

theorem setGunSt_gun (s : State) (st : GunSt) : (setGunSt s st).gun = { s.gun with st := st } := levelIrq_gun ..

theorem modPort_modPort (s : State) (m : Fin 8) (f g : Port → Port) :
    modPort (modPort s m f) m g = modPort s m (fun p => g (f p)) := by
  simp [modPort, setPort]

theorem linkDelay_known {s : State} {m : Fin 8} {d : Nat} (h : (getPort s m).delay = some d) : linkDelay s m = (d, s) := by
  simp only [linkDelay, h]

/-- What firing leaves of the gun, whatever the recorder and Pacer do at that frame. -/
theorem exec_gunFire_due {s : State} {now i : Nat} (hst : s.gun.st = .armed) (hat : s.gun.fireAt = some i) (hdue : i ≤ now) :
    ∃ t, exec (.gunFire now) s = .next t ∧
      t.gun = { s.gun with fireFrame := BitVec.ofNat 64 (frameCount s), fireAt := none, st := .fired } := by
  show ∃ t, execGunFire now s = .next t ∧ _
  simp only [execGunFire, hst, hat, hdue, if_true]
  refine ⟨_, rfl, ?_⟩
  simp only [apply_ite State.gun, markInput_gun, setGunSt_gun, bump_gun, modGun_gun, ite_self]

/-- Settles O37: each request, message and wait finds the gun in the state it speaks of. -/
theorem gunCommandsComplete : Obligations.GunCommandsComplete := by
  unfold Obligations.GunCommandsComplete
  rintro s a m f now _ rfl
  refine ⟨fun data h => next_gated _ _ h, fun v hv hst => ?_, fun h => ⟨fun data hbit hno => ?_, fun data hbit hmaster => ?_⟩,
    fun hst => ⟨fun hready hcores hmaster => ?_, fun hmaster hat => next_if_pos (by simp [hst, hmaster, hat]),
      fun hat => next_if_pos (by simp [hst, hat]), fun i hat hdue => ?_⟩,
    fun hdst => ⟨fun hmsg => next_if_pos (by simp [hmsg, hdst]), fun d hmsg harmed hd hle => ?_,
      fun hmsg => next_if_pos (by simp [hmsg, hdst]), fun t3 hmsg => next_if_pos (by simp [hmsg, hdst]), fun t1 hmsg ht1 hretx => ?_⟩,
    fun hup => next_if_pos hup⟩
  · show execPhotoFinishActivation s = _
    simp only [execPhotoFinishActivation, hv, hst, if_false]
  · refine (next_gated _ _ h).trans ?_
    simp only [gunCtrlWrite, hno, hbit, Bool.false_eq_true, if_false, if_true]
  · refine (next_gated _ _ h).trans ?_
    have hother : isMaster (modGun s (fun g => { g with ready := false, late := false, fireAt := none, readyFrom := 0 })) = false :=
      hmaster
    simp only [gunCtrlWrite, hbit, if_true, isMaster_setGunSt, hother, Bool.false_eq_true, if_false]
  · have hother : isMaster (modGun s (fun g => { g with ready := true })) = false := hmaster
    refine (next_if_pos (by simp [hst, hready, hcores])).trans (next_if_neg (by simp [hother]))
  · obtain ⟨t, ht, hgun⟩ := exec_gunFire_due hst hat hdue
    exact ⟨t, ht, by rw [hgun], by rw [hgun], by rw [hgun]⟩
  · show execFire m f now s = _
    simp only [execFire, hmsg, linkDelay_known hd, hdst, harmed, Nat.not_lt.2 hle, bne_self_eq_false, Bool.not_true, Bool.false_eq_true,
      if_true, if_false]
  · show execDelayResp m f now s = _
    simp only [execDelayResp, hmsg, hdst, ht1, hretx, decide_true, Bool.and_self, Bool.false_eq_true, if_true, if_false,
      modPort_modPort]

/-! ## Pacer -/

theorem noteLocked_pacer (s : State) (pg : PageId) (off : Nat) (data : Word) : (noteLocked s pg off data).pacer = s.pacer := by
  unfold noteLocked
  dsimp only
  split <;> simp [badAccess]

theorem pacerFields_pacer (data : Word) (s : State) : (pacerFields data s).pacer = s.pacer := noteLocked_pacer ..

/-- Settles O38: enabling, each doorbell, each window and each message find Pacer in the state they speak of. -/
theorem pacerCommandsComplete : Obligations.PacerCommandsComplete := by
  unfold Obligations.PacerCommandsComplete
  rintro s a m f data _ rfl
  refine ⟨fun h => ⟨fun x hbit hoff => ?_, fun hbit hon => ?_⟩, fun hrun => ⟨next_if_pos (by simp [pacing, hrun]),
    next_if_neg (by simp), fun trace d hd => ?_, fun p r b low hb hpartner hdue => ?_, fun w d rest e hlocal hold hpeer => ?_⟩,
    fun hrun hdst => ⟨fun hmsg hbells => ?_, fun hmsg hlocal => ?_⟩⟩
  · refine (next_gated _ _ h).trans ?_
    simp only [hbit, pacerFields_pacer, hoff, Bool.false_eq_true, if_true, if_false]
  · refine (next_gated _ _ h).trans ?_
    simp only [hbit, pacerFields_pacer, hon, Bool.not_false, Bool.and_self, if_true]
  · subst hd
    exact next_if_neg (by simp [hrun])
  · show execPacedDoorbell p r s = _
    simp only [execPacedDoorbell, hb, hrun, hpartner, Nat.not_lt.2 hdue, bne_self_eq_false, Bool.false_eq_true, if_false]
  · show execPacerStop s = _
    simp only [execPacerStop, hlocal, pacing, hrun, Nat.not_lt.2 hold, hpeer, decide_true, Bool.true_or, Bool.not_true, decide_false,
      Bool.or_self, Bool.false_eq_true, if_false, Option.isSome_some, if_true, Option.map_some, Option.getD_some]
  · show execPace m f s = _
    simp only [execPace, hmsg, hdst, hrun, hbells, pairBell, decide_true, Bool.and_self, Bool.not_true, bne_self_eq_false,
      Bool.false_eq_true, if_false]
  · show execDigest m f s = _
    simp only [execDigest, hmsg, hdst, hrun, modPacer_pacer, hlocal, List.find?_nil, decide_true, Bool.and_self, Bool.not_true,
      bne_self_eq_false, Bool.false_eq_true, if_false]

/-! ## The Split recorder -/

/-- Settles O39: a write of REC_MODE as it stands starts or stops, and a record waits for its input. -/
theorem recorderCommandsComplete : Obligations.RecorderCommandsComplete := by
  unfold Obligations.RecorderCommandsComplete
  rintro s a data _ rfl
  refine ⟨fun h => ⟨fun hmode hstop hstart hidle => ⟨fun hrec => ?_, fun hrep => ?_⟩, fun hmode hstop => ?_⟩,
    fun hrec => next_if_pos hrec, fun hrep => ⟨fun i hkind hcand harg => ?_, fun hkind => ?_, fun hkind hcand => ?_⟩⟩
  · refine (next_gated _ _ h).trans ?_
    simp [recCtrlWrite, hmode, hstop, hstart, hidle, hrec]
  · refine (next_gated _ _ h).trans ?_
    simp [recCtrlWrite, hmode, hstop, hstart, hidle, hrep]
  · refine (next_gated _ _ h).trans ?_
    simp [recCtrlWrite, hmode, hstop]
  · show execReplayRelease s = _
    simp [execReplayRelease, hrep, hkind, hcand, harg]
  · show execReplayRelease s = _
    simp [execReplayRelease, hrep, hkind]
  · show execReplayInputTimeout s = _
    simp [execReplayInputTimeout, hrep, hkind, hcand]

end Sys2Proof.Machine

/-!
Rings and host commands: O40 and O41.  A ring register write goes through the gate of its page (`next_gated`); a host
command is found by `hostCtx` and then runs by its OP.
-/

namespace Sys2Proof.Machine

open Sys2Proof

/-- Enabling a stopped ring whose fields stay as they are resets its pointers. -/
theorem ringCfgWrite_enable (s : State) (p : Fin 4) (r : Fin 16) (data : Word) (hbit : data.toNat.testBit 0 = true)
    (hsame : data.toNat &&& 0x13F0FF6 = ringCfg s p r) (hen : (getRing s p r).enable = false)
    (hfault : (getRing s p r).fault = false) (hrun : ringRunning s p r = false) (hok : ringCfgOk data.toNat = true) :
    ringCfgWrite p r data s = modRing s p r (fun k => { k with
      enable := true, sqHead := 0, sqTail := 0, cqHead := 0, cqTail := 0, phase := true, unreported := 0 }) := by
  simp [ringCfgWrite, hsame, hbit, hen, hfault, hrun, hok]

/-- A write with the enable bit clear and the other fields as they are disables the ring. -/
theorem ringCfgWrite_disable (s : State) (p : Fin 4) (r : Fin 16) (data : Word) (hbit : data.toNat.testBit 0 = false)
    (hsame : data.toNat &&& 0x13F0FF6 = ringCfg s p r) :
    ringCfgWrite p r data s = modRing s p r (fun k => { k with enable := false }) := by
  simp [ringCfgWrite, hsame, hbit]

/-- Settles O40: the four register writes pass the gate of the page, and the fetch, the entry and the timer meet every
condition of their own. -/
theorem ringCommandsComplete : Obligations.RingCommandsComplete := by
  intro s a p r data
  refine ⟨fun hreach => ⟨next_gated _ _ hreach, next_gated _ _ hreach, fun hbit hsame hen hfault hrun hok => ?_,
    fun hbit hsame => ?_⟩, fun q tag bytes hready hrep _ hq hbus hring htag => ?_,
    fun tag x res slot hx howner hres hfault hbus hfree => ?_, fun hint htime hun => ?_⟩
  · exact (next_gated _ _ hreach).trans (congrArg Host.Outcome.next (ringCfgWrite_enable s p r data hbit hsame hen hfault hrun hok))
  · exact (next_gated _ _ hreach).trans (congrArg Host.Outcome.next (ringCfgWrite_disable s p r data hbit hsame))
  · show execDescriptorFetch p (.bytes bytes false) s = _
    simp [execDescriptorFetch, hready, hrep, hq, hbus, hring, htag]
  · show execCompletionWrite tag s = _
    simp [execCompletionWrite, hx, howner, hres, hfault, hbus, hfree]
  · show execCoalesceTimer p r s = _
    simp [execCoalesceTimer, hint, htime, hun]

/-- Settles O41: `hostCtx` finds the command, and each OP meets its own checks. -/
theorem hostCommandsComplete : Obligations.HostCommandsComplete := by
  intro s tag x d
  refine ⟨fun hctx => ⟨fun hop hunused => ?_, fun hop hshape hbus hdev => ⟨fun bytes p hspace => ?_,
    fun ans hspace => ?_⟩, fun u hop hstart hunused hpc hmask hcores hu hlaunched => ?_, fun hop hrep href => ?_⟩,
    fun n day zero p r slot hrep hx howner hfault hbus hfree => ?_⟩
  · show execHostNop tag s = _
    simp [execHostNop, hctx, hop, hunused]
  · show execCopy tag (.bytes bytes p) s = _
    have hok : stOk ≠ stProtection := by decide
    simp [execCopy, hctx, hop, hshape, hbus, hdev, hspace, hok]
  · show execCopy tag ans s = _
    have hok : stOk ≠ stProtection := by decide
    simp [execCopy, hctx, hop, hshape, hbus, hdev, hspace, hok]
  · show execLaunch tag s = _
    have hbusy : (launchCores s x.part d).any
        (fun c => shownSt (getCore s c) != .idle || (getCore s c).resetPending) = false :=
      List.any_eq_false.mpr fun c hc => by simp [hcores c hc]
    have hoff : (launchCores s x.part d).any (fun c => !(getPage s (.core c 0)).enable) = false :=
      List.any_eq_false.mpr fun c hc => by simp [hcores c hc]
    subst hu
    simp only [execLaunch, hctx, hop, hstart, hunused, Nat.not_le.mpr hpc, Nat.not_le.mpr hmask, hbusy, hoff, hlaunched,
      bne_self_eq_false, Bool.not_true, Bool.false_or, decide_false, Bool.false_eq_true, if_false, if_true]
  · show execRepartition tag s = _
    simp [execRepartition, hctx, hop, hrep, href]
  · show execRepartitionComplete s = _
    simp [execRepartitionComplete, hrep, hx, howner, hfault, hbus, hfree]

end Sys2Proof.Machine

/-!
Bittern, the status panel and SMBus: O42 to O45.  A sample that overflows nothing leaves the branches for over-range inputs
and clamps aside (`takeSample_clean`); every other command meets its own conditions.
-/

namespace Sys2Proof.Machine

open Sys2Proof

/-! ## Bittern -/

theorem take_length_ge {α : Type} {l : List α} {n : Nat} (h : n ≤ l.length) : ¬ (l.take n).length < n := by
  rw [List.length_take]; omega

theorem any_isNone_false {α : Type} {l : List (Option α)} (h : ∀ x ∈ l, x.isSome = true) : l.any (·.isNone) = false :=
  List.any_eq_false.mpr fun x hx => by rw [Option.isNone_eq_false_iff.mpr (h x hx)]; decide

theorem endFrame_valid (s : State) (hlen : 256 ≤ s.bittern.frame.length)
    (hval : ∀ x ∈ s.bittern.frame.take 256, x.isSome = true) :
    endFrame s = (List.range 8).foldl (bandStep ((s.bittern.frame.take 256).map (·.getD 0)))
      (modBit s (fun b => { b with frame := b.frame.drop 256 })) := by
  simp only [endFrame, if_neg (take_length_ge hlen), any_isNone_false hval, Bool.false_eq_true, if_false]

theorem endBlock_valid (s : State) (hlen : 1024 ≤ s.bittern.block.length)
    (hval : ∀ x ∈ s.bittern.block.take 1024, x.isSome = true) :
    endBlock s = (List.range 4).foldl (toneStep ((s.bittern.block.take 1024).map (·.getD 0)))
      (modBit s (fun b => { b with block := b.block.drop 1024 })) := by
  simp only [endBlock, if_neg (take_length_ge hlen), any_isNone_false hval, Bool.false_eq_true, if_false]

theorem bitReg_bump (s : State) (i n off : Nat) : bitReg (bump s .bittern i n) off = bitReg s off :=
  (OnlyEvents.bump ..).regs _ _

theorem bitReg_modChan (s : State) (c : Fin 4) (g : Chan → Chan) (off : Nat) : bitReg (modChan s c g) off = bitReg s off := rfl

/-- A sample with no over-range input, no clamp and no beam as the detectors' source. -/
theorem takeSample_clean (v : State) (c : Fin 4) (x : Int) (hclamp : (formSample v c x).2.2 = 0)
    (hbeam4 : bitReg v 0x068 ≠ 4) (hbeam5 : bitReg v 0x068 ≠ 5) :
    takeSample c x 0 v =
      let f := formSample v c x
      let u := bump (bump (bump (modChan v c (fun ch => { ch with
        n := ch.n + 1, hist := f.2.1, ovrLeft := ch.ovrLeft - 1, settleLeft := ch.settleLeft - 1,
        out := (if ch.n % 16 = 0 then [] else ch.out) ++ [f.1], past := (f.1.x :: ch.past).take 64,
        second := ch.second ++ f.1.x.toList })) .bittern 0) .bittern 3 (bit01 f.1.settling)) .bittern 4 (bit01 f.1.x.isNone)
      endInstant c (if bitReg v 0x068 = c.val then detect u f.1.x else u) := by
  have hevents : ∀ w : State, bump w .bittern 2 (ovrEvents 0 0) = w := fun w => rfl
  simp only [takeSample, ite_self, bne_self_eq_false, Bool.or_self, Bool.false_eq_true, if_false, hclamp, hevents,
    bitReg_bump, bitReg_modChan, hbeam4, hbeam5, decide_false, Bool.false_and]

/-- Settles O42: each sample, frame, block and fault meets the conditions of its branch. -/
theorem bitternSamplesComplete : Obligations.BitternSamplesComplete := by
  intro s
  refine ⟨fun c inputs k v f u t haux hen hk hv hf hclamp hbeam4 hbeam5 hu ht => ?_, fun hlen hval => ?_,
    fun u hu hlen hval => ?_, fun haux => ?_, rfl, fun hpost => next_if_pos hpost, fun i c hc hbit => ?_,
    fun hruns hstuck => ?_, rfl⟩
  · show execSample c inputs 0 s = _
    subst hf hv hk hu ht
    simp only [execSample, haux, hen, Bool.not_true, Bool.or_self, Bool.false_eq_true, if_false]
    exact congrArg Host.Outcome.next (takeSample_clean _ c _ hclamp hbeam4 hbeam5)
  · exact congrArg Host.Outcome.next (endFrame_valid s hlen hval)
  · subst hu
    exact congrArg Host.Outcome.next (endBlock_valid _ hlen hval)
  · show execLevelUpdate s = _
    simp only [execLevelUpdate, haux, Bool.not_true, Bool.false_eq_true, if_false]
  · show execBiasFault i s = _
    simp only [execBiasFault, hbit, ← hc, Bool.not_true, Bool.false_eq_true, if_false]
  · show execPdmStuck s = _
    simp only [execPdmStuck, hruns, hstuck, Bool.not_false, Bool.and_self, if_true]

/-- Settles O43: each write passes the gate of the page and takes the branch of its bits. -/
theorem bitternCommandsComplete : Obligations.BitternCommandsComplete := by
  intro s a data
  refine ⟨fun hreach => ⟨next_gated _ _ hreach, fun hack htest => ?_, fun hack htest => ?_, next_gated _ _ hreach,
    fun _ => next_gated _ _ hreach, fun _ => next_gated _ _ hreach, fun hbit => ?_⟩,
    fun rq i hread hfrozen hreadable hi => ?_⟩
  · refine (next_gated _ _ hreach).trans ?_
    simp only [wakeCtrlWrite, hack, htest, if_true, Bool.false_eq_true, if_false]
  · refine (next_gated _ _ hreach).trans ?_
    simp only [wakeCtrlWrite, hack, htest, if_true, Bool.false_eq_true, if_false]
  · exact (next_gated _ _ hreach).trans (next_if_pos hbit)
  · subst hi
    refine congrArg Host.Outcome.next ((gatedRead_readable _ hread).trans ?_)
    simp only [hfrozen, hreadable, decide_true, Bool.and_self, if_true]

/-! ## The status panel -/

/-- Settles O44: each command of the panel meets its conditions, and its register writes pass the gate of the page. -/
theorem panelCommandsComplete : Obligations.PanelCommandsComplete := by
  intro s a new
  refine ⟨fun hnew hruns hflash hchanged herase => ?_, fun hdraws hdue => ?_, fun n hdrawing hn => ?_, fun hdrawing => ?_,
    fun n hdrawing => ?_, fun c hdraws hpending hcommitted hmark => ?_, fun data hreach hbit => ?_,
    fun rq hread => congrArg Host.Outcome.next (gatedRead_readable _ hread)⟩
  · show execPanelCommit s = _
    simp only [execPanelCommit, ← hnew, hruns, hflash, hchanged, herase, Bool.not_true, decide_false, Bool.or_self,
      Bool.false_eq_true, if_false]
  · exact next_if_pos (by rw [hdraws, hdue]; rfl)
  · show execBusyFall s = _
    simp only [execBusyFall, hdrawing, if_pos hn]
  · show execBusyFall s = _
    simp only [execBusyFall, hdrawing, Nat.lt_irrefl, if_false]
  · show execPanelFail s = _
    simp only [execPanelFail, hdrawing, Option.isNone_some, Bool.false_eq_true, if_false]
  · show execPanelRedraw s = _
    have hkept : committed (modPanel s (fun p => { p with redrawPending := false })) = some c := hcommitted
    simp only [execPanelRedraw, hdraws, hpending, hkept, hmark, Bool.not_true, Bool.or_self, Bool.false_eq_true, if_false,
      show ¬ (0 = 0xFF) by decide]
  · exact (next_gated _ _ hreach).trans (next_if_pos hbit)

/-! ## SMBus -/

theorem smbusRead_served {s : State} {r : SmbusRead} (code : Nat) (block : Bool) (data : List Byte)
    (hruns : mgmtRuns s = true) (hpec : r.wrongPec = false) :
    smbusRead s code r block data = .next (smbusAnswer s code r block data) := by
  simp only [smbusRead, hruns, hpec, Bool.not_true, Bool.or_self, Bool.false_eq_true, if_false]

theorem recordHalf_committed {s : State} {c : RecordCopy} (code : Nat) (r : SmbusRead) (i : Nat)
    (hc : committed s = some c) : recordHalf s code r i = smbusRead s code r true (sliceB c.bytes i 128) := by
  simp only [recordHalf, hc]

/-- Settles O45: every read is one served `smbusRead`. -/
theorem smbusCommandsComplete : Obligations.SmbusCommandsComplete := by
  intro s r hruns
  have served (code : Nat) (block : Bool) (data : List Byte) (hpec : r.wrongPec = false) :=
    smbusRead_served code block data hruns hpec
  refine ⟨fun hpec => ⟨served _ _ _ hpec, served _ _ _ hpec, served _ _ _ hpec, served _ _ _ hpec, served _ _ _ hpec,
    served _ _ _ hpec, fun c hc => ⟨(recordHalf_committed _ r _ hc).trans (served _ _ _ hpec),
      (recordHalf_committed _ r _ hc).trans (served _ _ _ hpec)⟩, served _ _ _ hpec⟩,
    fun w hlock hlow hhigh => ?_, fun code hcode => ?_⟩
  · show execSetPowerLimit w none s = _
    simp only [execSetPowerLimit, setLimit, hruns, hlock, Nat.not_lt.mpr hlow, Nat.not_lt.mpr hhigh, Bool.and_self, if_true,
      decide_false, Bool.or_self, Bool.false_eq_true, if_false]
  · show execSmbusUnknownCommand code false s = _
    simp only [execSmbusUnknownCommand, hcode, hruns, Bool.not_true, Bool.or_self, Bool.false_eq_true, if_false]

end Sys2Proof.Machine

/-!
The state after reset and the step itself: O54, O55, O56 and O60.  Over an idle frame each core is ticked once, by its own
tick alone, and an upset reaches a scratchpad, a memory or a port (`FrameKeeps`).
-/

namespace Sys2Proof.Machine

open Sys2Proof

/-! ## The state after reset -/

/-- Settles O54: every field is the literal of the reset state, and each page and each core one of a vector of cleared
ones. -/
theorem resetState : Obligations.ResetState := by
  refine ⟨rfl, rfl, rfl, rfl, rfl, fun pg => Vector.getElem_replicate (pageIdx pg).isLt,
    fun c => Vector.getElem_replicate c.isLt, rfl, rfl, rfl, rfl, rfl, rfl, rfl, rfl, rfl, rfl, rfl, rfl, rfl, rfl, rfl⟩

/-- Settles O60, by evaluating both invariants on the reset state. -/
theorem resetMeetsTheInvariants : Obligations.ResetMeetsTheInvariants := ⟨by decide, by decide +kernel⟩

/-! ## A step -/

/-- Settles O55: it is the second equation of `step`. -/
theorem stepRunsTheFront : Obligations.StepRunsTheFront := fun _ _ _ => rfl

/-- What a core's tick and an upset leave of the device: all but the cores, the memories and two kinds of pages. -/
structure FrameKeeps (s t : State) : Prop where
  power : t.power = s.power
  mgmt : t.mgmt = s.mgmt
  ctxs : t.ctxs = s.ctxs
  page : ∀ pg, (∀ c, pg ≠ .core c 0) → (∀ m, pg ≠ .baton m) → getPage t pg = getPage s pg

namespace FrameKeeps

theorem refl (s : State) : FrameKeeps s s := ⟨rfl, rfl, rfl, fun _ _ _ => rfl⟩

theorem trans {s t u : State} (h : FrameKeeps s t) (h' : FrameKeeps t u) : FrameKeeps s u where
  power := h'.power.trans h.power
  mgmt := h'.mgmt.trans h.mgmt
  ctxs := h'.ctxs.trans h.ctxs
  page pg hcore hport := (h'.page pg hcore hport).trans (h.page pg hcore hport)

theorem of_pages {s t : State} (hpower : t.power = s.power) (hmgmt : t.mgmt = s.mgmt) (hctxs : t.ctxs = s.ctxs)
    (hpages : t.pages = s.pages) : FrameKeeps s t :=
  ⟨hpower, hmgmt, hctxs, fun pg _ _ => by rw [getPage, getPage, hpages]⟩

theorem bump_core (s : State) (c : Fin 16) (i n : Nat) : FrameKeeps s (bump s (.core c 0) i n) :=
  ⟨bump_power .., bump_mgmt .., bump_ctxs .., fun _ hcore _ => getPage_bump_of_ne _ _ _ (hcore c)⟩

theorem bump_port (s : State) (m : Fin 8) (i n : Nat) : FrameKeeps s (bump s (.baton m) i n) :=
  ⟨bump_power .., bump_mgmt .., bump_ctxs .., fun _ _ hport => getPage_bump_of_ne _ _ _ (hport m)⟩

theorem modCore (s : State) (c : Fin 16) (f : Core → Core) : FrameKeeps s (modCore s c f) := of_pages rfl rfl rfl rfl

theorem freeBytes (n : Nat) (s : State) : FrameKeeps s (freeBytes n s).2 := by
  induction n generalizing s with
  | zero => exact .refl s
  | succ n ih =>
    rw [Machine.freeBytes]
    exact trans (of_pages rfl rfl rfl rfl : FrameKeeps s (drawFree s).2) (ih _)

theorem tickCore (s : State) (c : Fin 16) : FrameKeeps s (tickCore s c) := by
  have hcycles := (bump_core s c 1 6).trans (modCore _ c (fun k => { k with cycles := k.cycles + 6 }))
  unfold Machine.tickCore
  split
  · dsimp only
    split
    · exact hcycles.trans (bump_core _ c 5 1)
    · exact hcycles
  · exact .refl s

theorem tickCores (s : State) (l : List (Fin 16)) : FrameKeeps s (l.foldl Machine.tickCore s) :=
  List.foldlRecOn l Machine.tickCore (.refl s) fun _ ht c _ => ht.trans (tickCore _ c)

theorem upset (s : State) : FrameKeeps s (upset s) := by
  have hdraw : FrameKeeps s (drawFree s).2 := of_pages rfl rfl rfl rfl
  have hbytes (n : Nat) : FrameKeeps s (Machine.freeBytes n (drawFree s).2).2 := hdraw.trans (freeBytes ..)
  unfold Machine.upset
  dsimp only
  split
  · exact hdraw
  · split
    case h_1 =>
      split
      · exact (hbytes 32).trans (modCore ..)
      · exact hdraw
    case h_4 =>
      split
      · exact hdraw.trans (bump_port ..)
      · exact hdraw
    all_goals
      split
      · exact (hbytes 64).trans (of_pages rfl rfl rfl rfl)
      · exact hdraw.trans (of_pages rfl rfl rfl rfl)

end FrameKeeps

/-! ### The cores over a frame -/

/-- A core after one frame. -/
def tickedCore (k : Core) : Core := if coreRuns k then { k with cycles := k.cycles + 6 } else k

theorem getCore_tickCore_self (s : State) (c : Fin 16) : getCore (tickCore s c) c = tickedCore (getCore s c) := by
  have hbump : getCore (bump s (.core c 0) 1 6) c = getCore s c := by rw [getCore, bump_cores, ← getCore]
  unfold tickCore tickedCore
  split
  · dsimp only
    split
    · rw [getCore, bump_cores, ← getCore, getCore_modCore_self, hbump]
    · rw [getCore_modCore_self, hbump]
  · rfl

/-- Each core is ticked by its own tick; the others leave it alone. -/
theorem getCore_tickCores (s : State) (c : Fin 16) :
    getCore ((List.finRange 16).foldl tickCore s) c = tickedCore (getCore s c) := by
  obtain ⟨before, after, hsplit⟩ := List.append_of_mem (List.mem_finRange c)
  have hnodup := hsplit ▸ List.nodup_finRange 16
  have hbefore : c ∉ before := fun hc => (List.nodup_append.1 hnodup).2.2 c hc c List.mem_cons_self rfl
  have hafter : c ∉ after := (List.nodup_cons.1 (List.nodup_append.1 hnodup).2.1).1
  rw [hsplit, List.foldl_append, List.foldl_cons, (foldl_tickCore_sameFrameOf _ hafter).core, getCore_tickCore_self,
    (foldl_tickCore_sameFrameOf s hbefore).core]

theorem freeBytes_cores (n : Nat) (s : State) : (freeBytes n s).2.cores = s.cores := by
  induction n generalizing s with
  | zero => rfl
  | succ n ih => exact ih _

/-- An upset changes no more of a core than its scratchpad. -/
theorem getCore_upset (s : State) (c : Fin 16) : ∃ m, getCore (upset s) c = { getCore s c with spad := m } := by
  have hsame {t : State} (h : t.cores = s.cores) : ∃ m, getCore t c = { getCore s c with spad := m } :=
    ⟨(getCore s c).spad, by rw [getCore, h, ← getCore]⟩
  have hbytes (n : Nat) : (freeBytes n (drawFree s).2).2.cores = s.cores := freeBytes_cores ..
  unfold upset
  dsimp only
  split
  · exact hsame rfl
  · split
    case h_1 =>
      split
      · by_cases hc : c = coreFin (bitsOf (drawFree s).1.toNat 7 4)
        · rw [← hc, getCore_modCore_self, getCore, hbytes, ← getCore]
          exact ⟨_, rfl⟩
        · rw [getCore_modCore_of_ne _ _ hc]
          exact hsame (hbytes 32)
      · exact hsame rfl
    case h_4 =>
      split
      · exact hsame (bump_cores ..)
      · exact hsame rfl
    all_goals
      split
      · exact hsame (hbytes 64)
      · exact hsame rfl

theorem foldl_ueFence_below (u : State) (h : ∀ k, ueLimit u k = false) (l : List (Fin 12)) : l.foldl ueFence u = u := by
  induction l with
  | nil => rfl
  | cons k l ih => rw [List.foldl_cons, ueFence, h k, Bool.and_false, if_neg Bool.false_ne_true, ih]

/-- The state of an idle frame before a stack at its limit is fenced. -/
def idleFrame (s : State) : State := upset ((List.finRange 16).foldl tickCore (bump (newCycle s) .clock 0))

theorem frameKeeps_idleFrame (s : State) : FrameKeeps (bump (newCycle s) .clock 0) (idleFrame s) :=
  (FrameKeeps.tickCores ..).trans (.upset _)

theorem ueLimit_idleFrame (s : State) (k : Fin 12) : ueLimit (idleFrame s) k = ueLimit s k := by
  have hpage : getPage (idleFrame s) (.hbm k) = getPage s (.hbm k) :=
    ((frameKeeps_idleFrame s).page _ (by simp) (by simp)).trans (getPage_bump_of_ne (newCycle s) _ _ (by simp))
  have hcount : ctrOf (idleFrame s) (.hbm k) 3 = ctrOf s (.hbm k) 3 := by rw [ctrOf, ctrOf, hpage]
  have hlimit : regOf (idleFrame s) (.hbm k) 0x044 = regOf s (.hbm k) 0x044 := by rw [regOf, regOf, hpage]
  rw [ueLimit, ueLimit, hcount, hlimit]

theorem getCore_idleFrame (s : State) (c : Fin 16) : ∃ m, getCore (idleFrame s) c = { tickedCore (getCore s c) with spad := m } := by
  obtain ⟨m, hm⟩ := getCore_upset ((List.finRange 16).foldl tickCore (bump (newCycle s) .clock 0)) c
  refine ⟨m, hm.trans ?_⟩
  rw [getCore_tickCores, getCore, bump_cores, newCycle_cores, ← getCore]

theorem ctrOf_clock_idleFrame {s : State} (h : ctrOf s .clock 0 ≠ BitVec.allOnes 64) :
    ctrOf (idleFrame s) .clock 0 = ctrOf s .clock 0 + 1 := by
  rw [ctrOf, (frameKeeps_idleFrame s).page _ (by simp) (by simp)]
  exact ctrOf_bump_self (s := newCycle s) h

/-- Settles O56: before the release only `railStep` acts, and after it the frame is `idleFrame`. -/
theorem idleStepPassesAFrame : Obligations.IdleStepPassesAFrame := by
  intro s hq
  have hheld (hrel : s.power.released = false) : step s = .next (railStep s) := by
    simp only [step, hq, tick, hrel, Bool.false_eq_true, if_false]
  refine ⟨fun hrel hdue => ?_, fun hrel hdue => ?_, fun hrel => ⟨idleFrame s, step_empty_released hq hrel, fun hbelow => ?_,
    ?_, ?_, ?_, fun c => ?_, ctrOf_clock_idleFrame⟩⟩
  · rw [hheld hrel, railStep, hdue, if_neg Bool.false_ne_true]
  · rw [hheld hrel, railStep, if_pos hdue]
    dsimp only
    split
    · exact .inr rfl
    · exact .inl rfl
  · exact (step_empty_released hq hrel).trans
      (congrArg Host.Outcome.next (foldl_ueFence_below _ (fun k => (ueLimit_idleFrame s k).trans (hbelow k)) _))
  · exact (frameKeeps_idleFrame s).power.trans (bump_power ..)
  · exact (frameKeeps_idleFrame s).mgmt.trans (bump_mgmt ..)
  · exact (frameKeeps_idleFrame s).ctxs.trans (bump_ctxs ..)
  · obtain ⟨m, hm⟩ := getCore_idleFrame s c
    rw [hm, tickedCore]
    split <;> exact ⟨rfl, rfl, rfl, rfl, rfl, rfl⟩

end Sys2Proof.Machine
